-- ==== Sys2Proof/Word.lean ====
section
/-!
DEFINITION. Sys2Proof/Word.lean: the word types of the Sprinhan Faltal and their plainest arithmetic (R3, R76).
-/

namespace Sys2Proof

/-- A 64-bit register value (R9). -/
abbrev Word := BitVec 64

/-- One byte of a memory or local store (R3). -/
abbrev Byte := BitVec 8

/-- A 128-bit instruction word (R56). -/
abbrev IWord := BitVec 128

/-- `Bits(x, hi, lo)` of an unsigned integer (R76). -/
def bitsN (x hi lo : Nat) : Nat := x / 2 ^ lo % 2 ^ (hi - lo + 1)

/-- Bit `i` of an unsigned integer. -/
def bitN (x i : Nat) : Bool := x.testBit i

/-- `Bits(x, w - 1, 0)` of a signed integer under unbounded sign extension (R76). -/
def wrapI (w : Nat) (x : Int) : Nat := (x % (2 ^ w : Int)).toNat

/-- The value of a `w`-bit string read in two's complement (R74). -/
def signedOf (w x : Nat) : Int := if x.testBit (w - 1) then (x : Int) - (2 ^ w : Int) else (x : Int)

/-- The sum of an address register and a sign-extended 32-bit offset, modulo 2^64 (R59). -/
def addOff (base : Word) (imm : BitVec 32) : Word := base + imm.signExtend 64

/-- The least set bit of a number, counted from `base`: R398's trapval for bits that must be zero. -/
def lowestSet (x base : Nat) : Nat := base + ((List.range 128).find? (x.testBit ·)).getD 0

end Sys2Proof
end

