-- ==== Sys2Proof/Syntax.lean ====
section
/-!
DEFINITION. Sys2Proof/Syntax.lean: the instructions and the steps of the opcode table, one constructor for each row.

The rows come in two kinds. The first 170 are the instructions of encoding level 3 (R69). Each carries the fields
that every word has (`Hdr`: guard, hint, issue delay, drain) and its operands (`Ops`: five operand positions, the
immediate and the modifier), with register numbers already turned into names. The other 84 rows are steps of the
machine that no instruction word encodes: the inner write of an MTC, and what the memory system, the slices, the
engines, the dispatchers, the host and the management plane do on their own (sections 10 to 23).
-/

namespace Sys2Proof

/-- The type codes 0 to 17 of R66. -/
inductive Ty where
  | s8 | n8 | s16 | n16 | s32 | n32 | s64 | n64 | f64 | f32 | f16 | bf16 | e4m3 | e5m2 | e2m1 | bx8 | bx4 | b1
  deriving DecidableEq, Repr

/-- One operand position of an instruction (R58): a register by class and number, the immediate operand (special
index 0), a loop counter (special indices 4 to 7), or nothing. -/
inductive Operand where
  | none
  | s (i : Fin 32)
  | v (i : Fin 32)
  | m (i : Fin 8)
  | a (i : Fin 4)
  | p (i : Fin 8)
  | c (i : Fin 16)
  | k (i : Fin 16)
  | imm
  | lc (i : Fin 4)
  deriving DecidableEq, Repr

/-- One term of a guard: a predicate, inverted or not (R60). -/
structure Term where
  p   : Fin 8
  inv : Bool
  deriving DecidableEq, Repr

/-- The four guard modes of R60. -/
inductive Guard where
  | none
  | one (t : Term)
  | both (t u : Term)
  | either (t u : Term)
  deriving DecidableEq, Repr

/-- The cache hints of R62. -/
inductive Hint where
  | normal | stream | keep | noAllocate
  deriving DecidableEq, Repr

/-- The fields that every instruction word has (R56, R60 to R64). DESIGN CHOICE, log entry 64. -/
structure Hdr where
  guard : Guard
  hint  : Hint
  delay : Fin 16
  drain : Bool
  deriving DecidableEq, Repr

/-- The operands of an instruction: five positions, imm32 and the 24-bit modifier (R56). The modifier stays a bit
string with named accessors, because its subfields overlap from one opcode to the next (R65). -/
structure Ops where
  o0  : Operand
  o1  : Operand
  o2  : Operand
  o3  : Operand
  o4  : Operand
  imm : BitVec 32
  md  : BitVec 24
  deriving DecidableEq, Repr

/-- A core of the package, numbered `y * 32 + x` (R2). -/
abbrev CoreId := Fin 512

/-- A slice of the package, one below each quad, numbered `qy * 16 + qx` (R2). -/
abbrev SliceId := Fin 128

/-- The header of a host Cloche request (R385): the fields that the link reads. `op` is the code as sent, so that an
undefined one can be answered "bad". -/
structure HostHdr where
  op     : BitVec 4
  vector : BitVec 16
  reqid  : BitVec 32
  region : BitVec 52
  dest   : BitVec 64
  deriving DecidableEq, Repr

/-- The AES-XTS key of a key slot: the key of the data and the key of the tweak (R238, IEEE 1619), in either size that the
standard has. -/
inductive XtsKey where
  | aes128 (data tweak : BitVec 128)
  | aes256 (data tweak : BitVec 256)
  deriving DecidableEq, Repr

/-- What the outside world gives the package at Dawn (R277, R373, R374, R381, R395): the result of the self-check; what
Gauntlet sets (`keys` are the keys of the slots that it loads, `homes` the slices of the two LAUNCH regions, `reserved` the
ranges, as start and length, that the host may not reach, `backing` the start of each slice's backing area, slice by slice,
`bonnet` the start and the length of Bonnet's region, `writes` what Gauntlet writes to memory, the page tables of ASID 0
among it); the debug fuse; the packages of the pod. -/
structure DawnBoot where
  selfCheck : Bool
  resv      : Fin 5
  ptroot    : Word
  keys      : List (Fin 128 × XtsKey)
  fuse      : Bool
  launch    : BitVec 52
  launchVa  : Word
  sysLaunch : BitVec 52
  homes     : BitVec 128
  dump      : BitVec 52
  dumpSize  : BitVec 32
  reserved  : List (Nat × Nat)
  backing   : List Nat
  bonnet    : Nat × Nat
  writes    : List (Nat × List Byte)
  pod       : List Nat
  deriving DecidableEq, Repr

/-- What Bonnet reaches for over the management bus: a key slot, the page-table roots, or memory (R374). -/
inductive BonnetAccess where
  | key (slot : Fin 128)
  | root
  | mem (pa : Nat)
  deriving DecidableEq, Repr

/-- A link of the Oluthen fabric (R387): the port of a package on a rail, or the link between a leaf and a spine of a
rail. -/
inductive FabricLink where
  | port (pkg : Nat) (rail : Fin 16)
  | up (rail : Fin 16) (leaf spine : Nat)
  deriving DecidableEq, Repr

/-- A switch of a rail (R387). -/
inductive FabricSwitch where
  | leaf (rail : Fin 16) (l : Nat)
  | spine (rail : Fin 16) (x : Nat)
  deriving DecidableEq, Repr

/-- A value that a reduction window sums at an address: an element, or a partial sum (R390). -/
structure Share where
  addr : Nat
  key  : Fin 128
  val  : BitVec 64
  deriving DecidableEq, Repr

/-- A management access over SMBus (R397). -/
inductive SmbusOp where
  | readTelemetry
  | setPackageNumber (pkg : BitVec 12)
  deriving DecidableEq, Repr

/-- The rows of the opcode table. -/
inductive Instr where
  -- class 0x0, control (R69)
  | nop (h : Hdr) (o : Ops)
  | br (h : Hdr) (o : Ops)
  | jmp (h : Hdr) (o : Ops)
  | call (h : Hdr) (o : Ops)
  | ret (h : Hdr) (o : Ops)
  | loop (h : Hdr) (o : Ops)
  | fin (h : Hdr) (o : Ops)
  | brk (h : Hdr) (o : Ops)
  | eret (h : Hdr) (o : Ops)
  | kill (h : Hdr) (o : Ops)
  -- class 0x1, scalar integer (R69)
  | add (h : Hdr) (o : Ops)
  | sub (h : Hdr) (o : Ops)
  | mul (h : Hdr) (o : Ops)
  | mulh (h : Hdr) (o : Ops)
  | div (h : Hdr) (o : Ops)
  | rem (h : Hdr) (o : Ops)
  | min (h : Hdr) (o : Ops)
  | max (h : Hdr) (o : Ops)
  | and (h : Hdr) (o : Ops)
  | or (h : Hdr) (o : Ops)
  | xor (h : Hdr) (o : Ops)
  | andn (h : Hdr) (o : Ops)
  | shl (h : Hdr) (o : Ops)
  | shr (h : Hdr) (o : Ops)
  | sra (h : Hdr) (o : Ops)
  | rot (h : Hdr) (o : Ops)
  | bfx (h : Hdr) (o : Ops)
  | bfi (h : Hdr) (o : Ops)
  | clz (h : Hdr) (o : Ops)
  | ctz (h : Hdr) (o : Ops)
  | popc (h : Hdr) (o : Ops)
  | cmp (h : Hdr) (o : Ops)
  | sel (h : Hdr) (o : Ops)
  | movhi (h : Hdr) (o : Ops)
  -- class 0x2, scalar float (R69)
  | fadd (h : Hdr) (o : Ops)
  | fsub (h : Hdr) (o : Ops)
  | fmul (h : Hdr) (o : Ops)
  | fdiv (h : Hdr) (o : Ops)
  | fsqrt (h : Hdr) (o : Ops)
  | fma (h : Hdr) (o : Ops)
  | fmin (h : Hdr) (o : Ops)
  | fmax (h : Hdr) (o : Ops)
  | fabs (h : Hdr) (o : Ops)
  | fneg (h : Hdr) (o : Ops)
  | fcmp (h : Hdr) (o : Ops)
  | fcvt (h : Hdr) (o : Ops)
  | fcvti (h : Hdr) (o : Ops)
  | icvtf (h : Hdr) (o : Ops)
  | fclass (h : Hdr) (o : Ops)
  -- class 0x3, predicates and control registers (R69)
  | pand (h : Hdr) (o : Ops)
  | por (h : Hdr) (o : Ops)
  | pxor (h : Hdr) (o : Ops)
  | pandn (h : Hdr) (o : Ops)
  | pnot (h : Hdr) (o : Ops)
  | pset (h : Hdr) (o : Ops)
  | pget (h : Hdr) (o : Ops)
  | mfc (h : Hdr) (o : Ops)
  | mtc (h : Hdr) (o : Ops)
  -- class 0x4, local store (R69)
  | ldl (h : Hdr) (o : Ops)
  | stl (h : Hdr) (o : Ops)
  | vld (h : Hdr) (o : Ops)
  | vst (h : Hdr) (o : Ops)
  | vldm (h : Hdr) (o : Ops)
  | vstm (h : Hdr) (o : Ops)
  -- class 0x5, plane float (R69)
  | vadd (h : Hdr) (o : Ops)
  | vsub (h : Hdr) (o : Ops)
  | vmul (h : Hdr) (o : Ops)
  | vdiv (h : Hdr) (o : Ops)
  | vfma (h : Hdr) (o : Ops)
  | vmin (h : Hdr) (o : Ops)
  | vmax (h : Hdr) (o : Ops)
  | vabs (h : Hdr) (o : Ops)
  | vneg (h : Hdr) (o : Ops)
  | vsqrt (h : Hdr) (o : Ops)
  | vrcp (h : Hdr) (o : Ops)
  | vrsq (h : Hdr) (o : Ops)
  | vexp2 (h : Hdr) (o : Ops)
  | vlog2 (h : Hdr) (o : Ops)
  | vtanh (h : Hdr) (o : Ops)
  | vfcmp (h : Hdr) (o : Ops)
  | vclamp (h : Hdr) (o : Ops)
  -- class 0x6, plane integer and logic (R69)
  | viadd (h : Hdr) (o : Ops)
  | visub (h : Hdr) (o : Ops)
  | vimul (h : Hdr) (o : Ops)
  | vimulh (h : Hdr) (o : Ops)
  | vimin (h : Hdr) (o : Ops)
  | vimax (h : Hdr) (o : Ops)
  | viabs (h : Hdr) (o : Ops)
  | vshl (h : Hdr) (o : Ops)
  | vshr (h : Hdr) (o : Ops)
  | vand (h : Hdr) (o : Ops)
  | vor (h : Hdr) (o : Ops)
  | vxor (h : Hdr) (o : Ops)
  | vandn (h : Hdr) (o : Ops)
  | vlut4 (h : Hdr) (o : Ops)
  | vicmp (h : Hdr) (o : Ops)
  | vsel (h : Hdr) (o : Ops)
  | vbcast (h : Hdr) (o : Ops)
  | vmov (h : Hdr) (o : Ops)
  | viota (h : Hdr) (o : Ops)
  | vpopc (h : Hdr) (o : Ops)
  -- class 0x7, conversion, quantization, reduction, scan, sort (R69)
  | vcvt (h : Hdr) (o : Ops)
  | vquant (h : Hdr) (o : Ops)
  | vdequant (h : Hdr) (o : Ops)
  | vreds (h : Hdr) (o : Ops)
  | vredr (h : Hdr) (o : Ops)
  | vscan (h : Hdr) (o : Ops)
  | vsortk (h : Hdr) (o : Ops)
  | vsegred (h : Hdr) (o : Ops)
  | vargx (h : Hdr) (o : Ops)
  -- class 0x8, lattice and mask (R69)
  | vshift (h : Hdr) (o : Ops)
  | mand (h : Hdr) (o : Ops)
  | mor (h : Hdr) (o : Ops)
  | mxor (h : Hdr) (o : Ops)
  | mandn (h : Hdr) (o : Ops)
  | mnot (h : Hdr) (o : Ops)
  | mmov (h : Hdr) (o : Ops)
  | mpop (h : Hdr) (o : Ops)
  | many (h : Hdr) (o : Ops)
  | mrule (h : Hdr) (o : Ops)
  | medge (h : Hdr) (o : Ops)
  | actrd (h : Hdr) (o : Ops)
  | actwr (h : Hdr) (o : Ops)
  | mshift (h : Hdr) (o : Ops)
  -- class 0x9, matrix (R69)
  | mzero (h : Hdr) (o : Ops)
  | mma (h : Hdr) (o : Ops)
  | mmas (h : Hdr) (o : Ops)
  | accrd (h : Hdr) (o : Ops)
  | accwr (h : Hdr) (o : Ops)
  -- class 0xA, actors, channels, gangs (R69)
  | send (h : Hdr) (o : Ops)
  | recv (h : Hdr) (o : Ops)
  | peek (h : Hdr) (o : Ops)
  | steer (h : Hdr) (o : Ops)
  | merge (h : Hdr) (o : Ops)
  | rld (h : Hdr) (o : Ops)
  | rst (h : Hdr) (o : Ops)
  | ratom (h : Hdr) (o : Ops)
  | barg (h : Hdr) (o : Ops)
  -- class 0xB, global memory and fences (R69)
  | ld (h : Hdr) (o : Ops)
  | st (h : Hdr) (o : Ops)
  | ldro (h : Hdr) (o : Ops)
  | atom (h : Hdr) (o : Ops)
  | red (h : Hdr) (o : Ops)
  | redv (h : Hdr) (o : Ops)
  | pref (h : Hdr) (o : Ops)
  | cinv (h : Hdr) (o : Ops)
  | cflush (h : Hdr) (o : Ops)
  | dscinv (h : Hdr) (o : Ops)
  | fence (h : Hdr) (o : Ops)
  | afence (h : Hdr) (o : Ops)
  -- class 0xC, Cloche, Mitten (R69)
  | dep (h : Hdr) (o : Ops)
  | depw (h : Hdr) (o : Ops)
  | take (h : Hdr) (o : Ops)
  | takep (h : Hdr) (o : Ops)
  | cpy (h : Hdr) (o : Ops)
  | cpyp (h : Hdr) (o : Ops)
  | pcancel (h : Hdr) (o : Ops)
  | clcount (h : Hdr) (o : Ops)
  | mxpose (h : Hdr) (o : Ops)
  | mxout (h : Hdr) (o : Ops)
  | mseq (h : Hdr) (o : Ops)
  -- class 0xD, engines and render (R69)
  | own (h : Hdr) (o : Ops)
  | copy (h : Hdr) (o : Ops)
  | gather (h : Hdr) (o : Ops)
  | iwalk (h : Hdr) (o : Ops)
  | rast (h : Hdr) (o : Ops)
  | resolve (h : Hdr) (o : Ops)
  | rmarch (h : Hdr) (o : Ops)
  | rclear (h : Hdr) (o : Ops)
  -- class 0xE, system (R69)
  | tlbi (h : Hdr) (o : Ops)
  -- the inner writes of MTC and MFC, and the steps of the machine that no word encodes
  | shapeRegisterWrite (n : Fin 32) (v : Word)
  | fpmodeWrite (v : Word)
  | fpflagsWrite (v : Word)
  | fpflagsRead (d : Operand)
  | lfsrWrite (v : Word)
  | waysWrite (c : CoreId)
  | ptrootWrite (v : Word)
  | walkctlWrite (v : Word)
  | wcfgWrite (c : CoreId)
  | ctlregWrite (n : BitVec 12) (v : Word)
  | schedSettingsWrite (margin : Byte) (aging : Nat) (cap : Byte) (compaction : Bool)
  | bucketControlWrite (port : Nat) (v : Word)
  | wdogLimitWrite (limit : Nat)
  | firingSelect (c : CoreId)
  | trapActorStart (c : CoreId)
  | engineFaultDelivery (c : CoreId) (slot : Fin 8)
  | loadReturn (id : Nat)
  | writeAck (id : Nat)
  | tokenVisible (id : Nat)
  | haloEdgeArrival (c : CoreId) (dir : Fin 8)
  | remoteLsAccess (id : Nat)
  | sliceAccess (id : Nat)
  | pageWalk (id : Nat)
  | superblockMigration (sb : Nat) (dst : SliceId)
  | sliceScrub (q : SliceId)
  | mittenScrub (q : SliceId)
  | clocheDepositArrival (id : Nat)
  | clocheMatchArrival (id : Nat)
  | clocheCancelArrival (id : Nat)
  | clocheCountArrival (id : Nat)
  | clocheDelivery (id : Nat)
  | hostDeposit (h : HostHdr) (body : BitVec 512)
  | hostWaitingDeposit (h : HostHdr) (body : BitVec 512)
  | hostParkedTake (h : HostHdr) (body : BitVec 512)
  | hostParkedCopy (h : HostHdr) (body : BitVec 512)
  | hostCancel (h : HostHdr) (body : BitVec 512)
  | hostBadRequest (h : HostHdr) (body : BitVec 512)
  | hostMemoryRead (off n : Nat)
  | hostMemoryWrite (off : Nat) (data : List Byte)
  | hostLineRecall (pa : Nat) (data : List Byte)
  | launchTake
  | gangPlacement
  | gangMove (g : Nat)
  | preemptDecision
  | gangPreempt (g : Nat)
  | saveImageMove (g : Nat) (dst : List SliceId)
  | gangRestore (g : Nat)
  | agingStep
  | completionDeposit (i : Nat)
  | completionRetry (i : Nat)
  | dusk (g : Nat)
  | gangRetire (g : Nat)
  | gangKill (g : Nat)
  | killComplete (g : Nat)
  | wdogExpiry (g : Nat)
  | commandAccept (c : CoreId) (slot : Fin 8)
  | renderSlotAccept (c : CoreId) (slot : Fin 8)
  | engineBurst (c : CoreId) (slot : Fin 8) (n : Nat)
  | commandComplete (c : CoreId) (slot : Fin 8)
  | completionTokenSend (c : CoreId) (slot : Fin 8)
  | binWork (c : CoreId) (slot : Fin 8) (bin : Nat)
  | rayMarch (c : CoreId) (slot : Fin 8)
  | mittenCommandStart (q : SliceId)
  | mittenCommandComplete (q : SliceId)
  | tlbiAck (c : CoreId)
  | fenceComplete (c : CoreId)
  | dscinvAck (c : CoreId)
  | windowPackageFold (w : Fin 4)
  | leafFold (w : Fin 4) (epoch leaf : Nat) (same : Bool) (others : List (Nat × List Share))
  | spineFold (w : Fin 4) (epoch : Nat)
  | windowHomeMerge (w : Fin 4)
  | epochDone (w : Fin 4)
  | linkFailure (l : FabricLink)
  | switchFailure (x : FabricSwitch)
  | glarikFailure
  | thermalThrottle
  | thermalShutdown
  | packageFatalError (reason : Fin 4) (pa : Nat)
  | bonnetAccessRefused (a : BonnetAccess)
  | dawn (b : DawnBoot)
  | smbusAccess (a : SmbusOp)
  | linkRetrain (l : FabricLink) (within : Bool)
  | gddr7Refresh
  | boundaryScan (internal : Bool)
  deriving DecidableEq, Repr

end Sys2Proof
end

