-- ==== Sys2Proof/Decode.lean ====
section
/-!
DEFINITION. Sys2Proof/Decode.lean: the instruction word (R56), the formats of the opcode map (R58 to R71 and the
encoding table of each chapter), the decoder with R398's order of checks, and the encoder from the same formats.

A refused word is answered with the `trapval` of its ILLOP trap (R398). The checks of step 1 of R72 that need more
than the word (control-register numbers and access codes, ERET and KILL outside the trap actor) are made by the
instructions that they concern.
-/

namespace Sys2Proof

/-- The fields of an instruction word (R56). -/
structure Fields where
  opcode : BitVec 10
  guarda : BitVec 4
  guardb : BitVec 4
  gmode  : BitVec 2
  hint   : BitVec 4
  delay  : BitVec 4
  drain  : BitVec 1
  rsv    : BitVec 3
  b0     : BitVec 8
  b1     : BitVec 8
  b2     : BitVec 8
  b3     : BitVec 8
  b4     : BitVec 8
  imm    : BitVec 32
  md     : BitVec 24
  deriving DecidableEq, Repr

/-- The fields of a word, by the bit ranges of R56. -/
def Fields.unpack (w : IWord) : Fields where
  opcode := w.extractLsb' 0 10
  guarda := w.extractLsb' 10 4
  guardb := w.extractLsb' 14 4
  gmode  := w.extractLsb' 18 2
  hint   := w.extractLsb' 20 4
  delay  := w.extractLsb' 24 4
  drain  := w.extractLsb' 28 1
  rsv    := w.extractLsb' 29 3
  b0     := w.extractLsb' 32 8
  b1     := w.extractLsb' 40 8
  b2     := w.extractLsb' 48 8
  b3     := w.extractLsb' 56 8
  b4     := w.extractLsb' 64 8
  imm    := w.extractLsb' 72 32
  md     := w.extractLsb' 104 24

/-- The word of some fields (R56). -/
def Fields.pack (f : Fields) : IWord :=
  f.md ++ f.imm ++ f.b4 ++ f.b3 ++ f.b2 ++ f.b1 ++ f.b0 ++ f.rsv ++ f.drain ++ f.delay ++ f.hint ++ f.gmode ++
    f.guardb ++ f.guarda ++ f.opcode

/-! ### Type codes (R66) -/

/-- The type of a code of R66; codes 18 to 31 are reserved. -/
def tyOfCode : Nat → Option Ty
  | 0 => some .s8 | 1 => some .n8 | 2 => some .s16 | 3 => some .n16 | 4 => some .s32 | 5 => some .n32
  | 6 => some .s64 | 7 => some .n64 | 8 => some .f64 | 9 => some .f32 | 10 => some .f16 | 11 => some .bf16
  | 12 => some .e4m3 | 13 => some .e5m2 | 14 => some .e2m1 | 15 => some .bx8 | 16 => some .bx4 | 17 => some .b1
  | _ => none

/-- The code of a type (R66). -/
def Ty.code : Ty → Nat
  | .s8 => 0 | .n8 => 1 | .s16 => 2 | .n16 => 3 | .s32 => 4 | .n32 => 5 | .s64 => 6 | .n64 => 7 | .f64 => 8
  | .f32 => 9 | .f16 => 10 | .bf16 => 11 | .e4m3 => 12 | .e5m2 => 13 | .e2m1 => 14 | .bx8 => 15 | .bx4 => 16
  | .b1 => 17

/-! ### Operand bytes (R58, R59) -/

/-- The register classes of R58, with special index 0 (the immediate) apart from special indices 4 to 7. -/
inductive Cls where
  | s | v | m | a | p | c | k | imm | lc
  deriving DecidableEq, Repr

/-- The class of an operand. -/
def Operand.cls : Operand → Option Cls
  | .none => Option.none
  | .s _ => some .s
  | .v _ => some .v
  | .m _ => some .m
  | .a _ => some .a
  | .p _ => some .p
  | .c _ => some .c
  | .k _ => some .k
  | .imm => some .imm
  | .lc _ => some .lc

/-- The byte of a class code and an index. -/
def operandByte (cls idx : Nat) : BitVec 8 := BitVec.ofNat 8 (cls * 32 + idx)

/-- The operand byte of an operand: class code in bits 7:5, index in bits 4:0. -/
def Operand.byte : Operand → BitVec 8
  | .none => 0
  | .s i => operandByte 0 i
  | .v i => operandByte 1 i
  | .m i => operandByte 2 i
  | .a i => operandByte 3 i
  | .p i => operandByte 4 i
  | .c i => operandByte 5 i
  | .k i => operandByte 6 i
  | .imm => operandByte 7 0
  | .lc i => operandByte 7 (4 + i)

/-- The operand that a byte names; none where the index lies outside its class's valid set (R58). -/
def operandOf (b : BitVec 8) : Option Operand :=
  let i := b.toNat % 32
  match b.toNat / 32 with
  | 0 => some (.s (Fin.ofNat 32 i))
  | 1 => some (.v (Fin.ofNat 32 i))
  | 2 => if i < 8 then some (.m (Fin.ofNat 8 i)) else none
  | 3 => if i < 4 then some (.a (Fin.ofNat 4 i)) else none
  | 4 => if i < 8 then some (.p (Fin.ofNat 8 i)) else none
  | 5 => if i < 16 then some (.c (Fin.ofNat 16 i)) else none
  | 6 => if i < 16 then some (.k (Fin.ofNat 16 i)) else none
  | _ => if i = 0 then some .imm else if 4 ≤ i ∧ i < 8 then some (.lc (Fin.ofNat 4 (i - 4))) else none

/-- What one operand position of a format accepts: nothing, a class of a list, or a class of a list or a zero byte. -/
inductive Pos where
  | zero
  | need (l : List Cls)
  | opt (l : List Cls)
  deriving DecidableEq, Repr

/-- May `x` stand at the position, `seen` saying that an earlier position holds the immediate (R59: at most one)? -/
def Pos.accepts (p : Pos) (x : Operand) (seen : Bool) : Bool :=
  match p, x.cls with
  | .zero, none => true
  | .zero, some _ => false
  | .need _, none => false
  | .need l, some cl => l.contains cl && !(cl == .imm && seen)
  | .opt _, none => true
  | .opt l, some cl => x.byte != 0 && l.contains cl && !(cl == .imm && seen)

/-- The operand of byte `b` at position `i`, or the trapval of its refusal (R398). DEDUCED, log entry 19. -/
def Pos.parse (p : Pos) (b : BitVec 8) (i : Nat) (seen : Bool) : Except Nat Operand :=
  match p with
  | .zero => if b = 0 then .ok .none else .error (lowestSet b.toNat (32 + 8 * i))
  | .need l =>
    match operandOf b with
    | some x => if (Pos.need l).accepts x seen then .ok x else .error (32 + 8 * i)
    | none => .error (32 + 8 * i)
  | .opt l =>
    if b = 0 then .ok .none
    else match operandOf b with
      | some x => if (Pos.opt l).accepts x seen then .ok x else .error (32 + 8 * i)
      | none => .error (32 + 8 * i)

/-! ### The immediate and the modifier (R59, R65) -/

/-- What imm32 may hold: only bits of a mask, or a value up to a bound. -/
inductive ImmRule where
  | keep (mask : BitVec 32)
  | atMost (n : Nat)
  deriving DecidableEq, Repr

/-- The trapval of a refused imm32 (R398): the lowest bit that must be zero and is set, or bit 72 for a value out of
range; none where the value is accepted. DEDUCED, log entry 18. -/
def ImmRule.err (r : ImmRule) (imm : BitVec 32) : Option Nat :=
  match r with
  | .keep mask => if imm &&& ~~~mask = 0 then none else some (lowestSet (imm &&& ~~~mask).toNat 72)
  | .atMost n => if imm.toNat ≤ n then none else some 72

/-- What a modifier subfield may hold: anything, a code up to a bound, a code of a list, zero alone, or zero alone
where the codes above a bound are reserved (a reserved code is refused as a whole, R398). -/
inductive MRule where
  | any
  | upto (n : Nat)
  | among (l : List Nat)
  | zero
  | zeroCode (n : Nat)
  deriving DecidableEq, Repr

/-- One subfield of a modifier: its lowest bit, its width and its rule. -/
structure MField where
  lo   : Nat
  wd   : Nat
  rule : MRule
  deriving DecidableEq, Repr

/-- The value of bits `lo + wd - 1 : lo` of a modifier. -/
def mdBits (md : BitVec 24) (lo wd : Nat) : Nat := (md.extractLsb' lo wd).toNat

/-- The trapval of a refused subfield (R398), none where its value is accepted. DEDUCED, log entry 19. -/
def MField.err (f : MField) (md : BitVec 24) : Option Nat :=
  let x := mdBits md f.lo f.wd
  match f.rule with
  | .any => none
  | .upto n => if x ≤ n then none else some (104 + f.lo)
  | .among l => if l.contains x then none else some (104 + f.lo)
  | .zero => if x = 0 then none else some (lowestSet x (104 + f.lo))
  | .zeroCode n => if x = 0 then none else if n < x then some (104 + f.lo) else some (lowestSet x (104 + f.lo))

/-- The modifier bits that no subfield of a list covers. -/
def undefinedBits (l : List MField) : BitVec 24 :=
  ~~~ l.foldl (fun acc f => acc ||| BitVec.ofNat 24 ((2 ^ f.wd - 1) * 2 ^ f.lo)) 0

/-- The trapval of a refused modifier: subfields and undefined bits from bit 0 upward (R65, R398). -/
def modErr (l : List MField) (md : BitVec 24) : Option Nat :=
  let u := md &&& undefinedBits l
  let bad := l.filterMap (·.err md) ++ (if u = 0 then [] else [lowestSet u.toNat 104])
  bad.min?

/-! ### The formats -/

/-- The format of an instruction: its five positions, its immediate, its modifier, and whether it is a memory
instruction, which may carry a hint (R70). -/
structure Fmt where
  p0   : Pos := .zero
  p1   : Pos := .zero
  p2   : Pos := .zero
  p3   : Pos := .zero
  p4   : Pos := .zero
  imm  : ImmRule := .keep 0
  mods : List MField := []
  mem  : Bool := false
  bare : Bool := false
  deriving DecidableEq, Repr

/-- Does some operand byte stand for the immediate (special index 0)? -/
def Fields.hasImm (f : Fields) : Bool :=
  f.b0 == 0xE0 || f.b1 == 0xE0 || f.b2 == 0xE0 || f.b3 == 0xE0 || f.b4 == 0xE0

/-- imm32 free. -/
def immAny : ImmRule := .keep (BitVec.allOnes 32)

/-- imm32 free where an operand stands for it, else zero. -/
def Fields.immIf (f : Fields) : ImmRule := if f.hasImm then immAny else .keep 0

/-- imm32 of a float immediate: 16 bits for FP16 and BF16 (R110, R124), zero where no operand stands for it.
DEDUCED, log entry 18. -/
def Fields.immFloat (f : Fields) : ImmRule :=
  if f.hasImm then
    (if mdBits f.md 0 5 = 10 ∨ mdBits f.md 0 5 = 11 then .keep 0xFFFF else immAny)
  else .keep 0

/-- A type subfield: codes 18 to 31 are reserved (R66). -/
def fType (lo : Nat) : MField := ⟨lo, 5, .upto 17⟩

/-- The rounding subfield, which must be zero while rx, bit 8, is 0 (R67). -/
def Fields.fRound (f : Fields) : List MField :=
  [⟨5, 3, if mdBits f.md 8 1 = 1 then .upto 5 else .zero⟩, ⟨8, 1, .any⟩]

/-- One free modifier bit. -/
def fBit (lo : Nat) : MField := ⟨lo, 1, .any⟩

/-- A free modifier subfield. -/
def fAny (lo wd : Nat) : MField := ⟨lo, wd, .any⟩

/-- Scope and ordering of class 0xB, with the orderings of R244; a relaxed access has scope 0. -/
def Fields.fOrder (f : Fields) (ords : List Nat) : List MField :=
  [⟨0, 3, if mdBits f.md 3 2 = 0 ∨ ords = [0] then .zeroCode 4 else .upto 4⟩, ⟨3, 2, .among ords⟩]

/-- The VSHIFT modifier of R151, shared with MSHIFT: `.gw` stands with mode `.halo` alone. -/
def Fields.fShift (f : Fields) : List MField :=
  [fAny 0 3, ⟨3, 3, .upto 5⟩, ⟨6, 1, if mdBits f.md 3 3 = 5 then .any else .zero⟩]

/-- A scalar register. -/
def pS : Pos := .need [.s]
/-- A scalar or keep register. -/
def pSK : Pos := .need [.s, .k]
/-- A scalar or keep register, or the immediate. -/
def pSKI : Pos := .need [.s, .k, .imm]
/-- The immediate. -/
def pI : Pos := .need [.imm]
/-- A plane register. -/
def pV : Pos := .need [.v]
/-- A plane, scalar or keep register, or the immediate (R124). -/
def pVSKI : Pos := .need [.v, .s, .k, .imm]
/-- A mask register. -/
def pM : Pos := .need [.m]
/-- An accumulator. -/
def pA : Pos := .need [.a]
/-- A predicate. -/
def pP : Pos := .need [.p]
/-- A channel port. -/
def pC : Pos := .need [.c]
/-- A loop counter. -/
def pL : Pos := .need [.lc]
/-- A channel port, or zero for none. -/
def pC0 : Pos := .opt [.c]

/-- Class 0x1: three operands, the last a register or the immediate (R101). -/
def Fields.fmtInt3 (f : Fields) (extra : List MField) : Fmt :=
  { p0 := pSK, p1 := pSK, p2 := pSKI, imm := f.immIf, mods := fType 0 :: extra }

/-- Class 0x1: two operands (R101). -/
def fmtInt2 (extra : List MField) : Fmt := { p0 := pSK, p1 := pSK, mods := fType 0 :: extra }

/-- Class 0x2: `n` source operands, with the float immediate of R110. -/
def Fields.fmtFlt (f : Fields) (p0 p2 p3 : Pos) (extra : List MField) : Fmt :=
  { p0 := p0, p1 := pSK, p2 := p2, p3 := p3, imm := f.immFloat, mods := fType 0 :: f.fRound ++ extra }

/-- Class 0x5 (R133). -/
def Fields.fmtVF (f : Fields) (p0 p2 p3 : Pos) (extra : List MField) : Fmt :=
  { p0 := p0, p1 := pV, p2 := p2, p3 := p3, p4 := pM, imm := f.immFloat, mods := fType 0 :: f.fRound ++ extra }

/-- Class 0x6 (R135). -/
def Fields.fmtVI (f : Fields) (p0 p1 p2 : Pos) (extra : List MField) : Fmt :=
  { p0 := p0, p1 := p1, p2 := p2, p4 := pM, imm := f.immFloat, mods := fType 0 :: extra }

/-- Class 0x7 (R140): both types, rounding and sat stand in every word of the class. -/
def Fields.mods7 (f : Fields) (extra : List MField) : List MField :=
  fType 0 :: f.fRound ++ [fBit 9, fType 10] ++ extra

/-- ATOM, RED and REDV take scope, ordering, type and op (R243, R244). -/
def Fields.modsAtom (f : Fields) (ords ops : List Nat) : List MField :=
  f.fOrder ords ++ [fType 5, ⟨10, 4, .among ops⟩]

/-- The formats of classes 0x0 to 0x3 (R100, R101, R109 to R114, R117, R359, R361). DEDUCED, log entry 17. -/
def fmtScalar (f : Fields) : Nat → Option Fmt
  -- class 0x0
  | 0x000 => some {}
  | 0x001 => some { imm := immAny }
  | 0x002 => some { p0 := pSK }
  | 0x003 => some { p0 := pSK, p1 := pSKI, imm := f.immIf }
  | 0x004 => some { p0 := pSK }
  | 0x005 => some { p0 := pL, imm := immAny }
  | 0x006 => some { mods := [fBit 0] }
  | 0x007 => some { imm := immAny }
  | 0x008 => some { mods := [fBit 0] }
  | 0x009 => some { bare := true }
  -- class 0x1
  | 0x040 => some (f.fmtInt3 [fBit 9])
  | 0x041 => some (f.fmtInt3 [fBit 9])
  | 0x042 => some (f.fmtInt3 [fBit 9])
  | 0x043 => some (f.fmtInt3 [])
  | 0x044 => some (f.fmtInt3 [])
  | 0x045 => some (f.fmtInt3 [])
  | 0x046 => some (f.fmtInt3 [])
  | 0x047 => some (f.fmtInt3 [])
  | 0x048 => some (f.fmtInt3 [])
  | 0x049 => some (f.fmtInt3 [])
  | 0x04A => some (f.fmtInt3 [])
  | 0x04B => some (f.fmtInt3 [])
  | 0x04C => some (f.fmtInt3 [fBit 9])
  | 0x04D => some (f.fmtInt3 [])
  | 0x04E => some (f.fmtInt3 [])
  | 0x04F => some (f.fmtInt3 [])
  | 0x050 => some (fmtInt2 [fAny 10 6, fAny 16 6])
  | 0x051 => some { fmtInt2 [fAny 10 6, fAny 16 6] with p2 := pSK }
  | 0x052 => some (fmtInt2 [])
  | 0x053 => some (fmtInt2 [])
  | 0x054 => some (fmtInt2 [])
  | 0x055 => some { f.fmtInt3 [⟨10, 3, .upto 5⟩] with p0 := pP }
  | 0x056 => some { f.fmtInt3 [] with p3 := pP }
  | 0x057 => some { f.fmtInt3 [] with p2 := pI }
  -- class 0x2
  | 0x080 => some (f.fmtFlt pSK pSKI .zero [])
  | 0x081 => some (f.fmtFlt pSK pSKI .zero [])
  | 0x082 => some (f.fmtFlt pSK pSKI .zero [])
  | 0x083 => some (f.fmtFlt pSK pSKI .zero [])
  | 0x084 => some (f.fmtFlt pSK .zero .zero [])
  | 0x085 => some (f.fmtFlt pSK pSKI pSKI [])
  | 0x086 => some (f.fmtFlt pSK pSKI .zero [])
  | 0x087 => some (f.fmtFlt pSK pSKI .zero [])
  | 0x088 => some (f.fmtFlt pSK .zero .zero [])
  | 0x089 => some (f.fmtFlt pSK .zero .zero [])
  | 0x08A => some (f.fmtFlt pP pSKI .zero [⟨9, 3, .upto 6⟩])
  | 0x08B => some (f.fmtFlt pSK .zero .zero [fType 9])
  | 0x08C => some (f.fmtFlt pSK .zero .zero [fType 9])
  | 0x08D => some (f.fmtFlt pSK .zero .zero [fType 9])
  | 0x08E => some (f.fmtFlt pSK .zero .zero [])
  -- class 0x3
  | 0x0C0 => some { p0 := pP, p1 := pP, p2 := pP }
  | 0x0C1 => some { p0 := pP, p1 := pP, p2 := pP }
  | 0x0C2 => some { p0 := pP, p1 := pP, p2 := pP }
  | 0x0C3 => some { p0 := pP, p1 := pP, p2 := pP }
  | 0x0C4 => some { p0 := pP, p1 := pP }
  | 0x0C5 => some { p0 := pP, p1 := pSKI, imm := f.immIf }
  | 0x0C6 => some { p0 := pSK, p1 := pP }
  | 0x0C7 => some { p0 := pSK, imm := .keep 0xFFF }
  | 0x0C8 => some { p1 := pSK, imm := .keep 0xFFF }
  | _ => none

/-- The formats of classes 0x4 to 0x7 (R116, R129, R133, R135, R139 to R148). DEDUCED, log entry 17. -/
def fmtPlane (f : Fields) : Nat → Option Fmt
  -- class 0x4
  | 0x100 => some { p0 := pSK, p1 := pS, imm := immAny, mods := [fType 0] }
  | 0x101 => some { p0 := pS, p1 := pSK, imm := immAny, mods := [fType 0] }
  | 0x102 => some { p0 := pV, p1 := pSK, p2 := pSK, p3 := pM, p4 := if mdBits f.md 5 1 = 1 then pSK else .zero,
                    imm := immAny, mods := [fBit 5] }
  | 0x103 => some { p0 := pSK, p1 := pV, p2 := pSK, p3 := pM, p4 := if mdBits f.md 5 1 = 1 then pSK else .zero,
                    imm := immAny, mods := [fBit 5] }
  | 0x104 => some { p0 := pM, p1 := pSK, p2 := pSK, imm := immAny }
  | 0x105 => some { p0 := pSK, p1 := pM, p2 := pSK, imm := immAny }
  -- class 0x5
  | 0x140 => some (f.fmtVF pV pVSKI .zero [])
  | 0x141 => some (f.fmtVF pV pVSKI .zero [])
  | 0x142 => some (f.fmtVF pV pVSKI .zero [])
  | 0x143 => some (f.fmtVF pV pVSKI .zero [])
  | 0x144 => some (f.fmtVF pV pVSKI pVSKI [fBit 9, fBit 10])
  | 0x145 => some (f.fmtVF pV pVSKI .zero [])
  | 0x146 => some (f.fmtVF pV pVSKI .zero [])
  | 0x147 => some (f.fmtVF pV .zero .zero [])
  | 0x148 => some (f.fmtVF pV .zero .zero [])
  | 0x149 => some (f.fmtVF pV .zero .zero [])
  | 0x14A => some (f.fmtVF pV .zero .zero [])
  | 0x14B => some (f.fmtVF pV .zero .zero [])
  | 0x14C => some (f.fmtVF pV .zero .zero [])
  | 0x14D => some (f.fmtVF pV .zero .zero [])
  | 0x14E => some (f.fmtVF pV .zero .zero [])
  | 0x14F => some (f.fmtVF pM pVSKI .zero [⟨9, 3, .upto 6⟩])
  | 0x150 => some (f.fmtVF pV pVSKI pVSKI [])
  -- class 0x6
  | 0x180 => some (f.fmtVI pV pV pVSKI [fBit 9])
  | 0x181 => some (f.fmtVI pV pV pVSKI [fBit 9])
  | 0x182 => some (f.fmtVI pV pV pVSKI [fBit 9])
  | 0x183 => some (f.fmtVI pV pV pVSKI [])
  | 0x184 => some (f.fmtVI pV pV pVSKI [])
  | 0x185 => some (f.fmtVI pV pV pVSKI [])
  | 0x186 => some (f.fmtVI pV pV .zero [fBit 9])
  | 0x187 => some (f.fmtVI pV pV pVSKI [fBit 9])
  | 0x188 => some (f.fmtVI pV pV pVSKI [])
  | 0x189 => some (f.fmtVI pV pV pVSKI [])
  | 0x18A => some (f.fmtVI pV pV pVSKI [])
  | 0x18B => some (f.fmtVI pV pV pVSKI [])
  | 0x18C => some (f.fmtVI pV pV pVSKI [])
  | 0x18D => some { f.fmtVI pV pV pV [] with p3 := pV, imm := .keep 0xFFFF }
  | 0x18E => some (f.fmtVI pM pV pVSKI [⟨10, 3, .upto 5⟩])
  | 0x18F => some (f.fmtVI pV pVSKI pVSKI [])
  | 0x190 =>
    let mode : MField := ⟨10, 2, .upto 2⟩
    some (if mdBits f.md 10 2 = 0 then f.fmtVI pV pSKI .zero [mode]
      else { f.fmtVI pV pV pSKI [mode] with imm := f.immIf })
  | 0x191 => some (f.fmtVI pV pV .zero [])
  | 0x192 => some { f.fmtVI pV pSKI .zero [⟨10, 2, .upto 2⟩] with imm := f.immIf }
  | 0x193 => some (f.fmtVI pV pV .zero [])
  -- class 0x7
  | 0x1C0 => some { p0 := pV, p1 := pV, p4 := pM, mods := f.mods7 [] }
  | 0x1C1 => some { p0 := pV, p1 := pV, p2 := pSKI, p4 := pM, imm := f.immIf,
                    mods := f.mods7 [⟨15, 4, if mdBits f.md 19 1 = 1 then .any else .zero⟩, fBit 19] }
  | 0x1C2 => some { p0 := pV, p1 := pV, p2 := pSKI, p4 := pM, imm := f.immIf, mods := f.mods7 [] }
  | 0x1C3 => some { p0 := pSK, p1 := pV, p4 := pM, mods := f.mods7 [⟨15, 3, .upto 5⟩] }
  | 0x1C4 => some { p0 := pV, p1 := pV, p4 := pM, mods := f.mods7 [⟨15, 3, .upto 5⟩, fBit 18] }
  | 0x1C5 => some { p0 := pV, p1 := pVSKI, p2 := pV, p3 := pSKI, p4 := pM, imm := f.immFloat,
                    mods := f.mods7 [fBit 15] }
  | 0x1C6 => some { p0 := pV, p1 := pV, p2 := pV, p3 := pV, p4 := pM, mods := f.mods7 [fBit 15, fBit 16] }
  | 0x1C7 => some { p0 := pV, p1 := pM, p2 := pV, p3 := pV, p4 := pM, mods := f.mods7 [fBit 15, ⟨16, 2, .upto 2⟩] }
  | 0x1C8 => some { p0 := .need [.s, .k, .v], p1 := pV, p4 := pM, mods := f.mods7 [fBit 15] }
  | _ => none

/-- The formats of classes 0x8 to 0xA (R151, R157 to R162, R165, R166, R173, R189, R196). -/
def fmtLattice (f : Fields) : Nat → Option Fmt
  -- class 0x8
  | 0x200 =>
    let mode := mdBits f.md 3 3
    some { p0 := pV, p1 := pV,
           p2 := if mode = 4 then pV else if mode = 1 ∨ (mode = 5 ∧ mdBits f.md 6 1 = 0) then pSKI else .zero,
           imm := f.immIf, mods := f.fShift }
  | 0x201 => some { p0 := pM, p1 := pM, p2 := pM }
  | 0x202 => some { p0 := pM, p1 := pM, p2 := pM }
  | 0x203 => some { p0 := pM, p1 := pM, p2 := pM }
  | 0x204 => some { p0 := pM, p1 := pM, p2 := pM }
  | 0x205 => some { p0 := pM, p1 := pM }
  | 0x206 => some { p0 := pM, p1 := pM }
  | 0x207 => some { p0 := pSK, p1 := pM, p2 := pSKI, imm := f.immIf }
  | 0x208 => some { p0 := pP, p1 := pM, p2 := pSKI, imm := f.immIf, mods := [fBit 0] }
  | 0x209 => some { p0 := pM, p1 := pSK, p2 := pV, p3 := pSKI, p4 := pM, imm := f.immIf }
  | 0x20A => some { p0 := pSK, p1 := pM, p2 := pV }
  | 0x20B => some { p0 := pP, p1 := pS, p2 := pSKI, imm := immAny }
  | 0x20C => some { p0 := pS, p1 := pSKI, p2 := if mdBits f.md 0 2 = 2 then .need [.p, .s, .k] else .zero,
                    imm := immAny, mods := [fAny 0 2] }
  | 0x20D =>
    let mode := mdBits f.md 3 3
    some { p0 := pM, p1 := pM, p2 := pV, p3 := if mode = 4 then pM else if mode = 1 then pI else .zero,
           imm := if mode = 1 then .atMost 1 else .keep 0, mods := f.fShift }
  -- class 0x9
  | 0x240 => some { p0 := pA }
  | 0x241 => some { p0 := pA, p1 := pV, p2 := pV, mods := fType 0 :: f.fRound ++ [fType 9, fBit 14] }
  | 0x242 => some { p0 := pA, p1 := pV, p2 := pV, p3 := pV, mods := fType 0 :: f.fRound ++ [fType 9, fBit 14] }
  | 0x243 => some { p0 := pV, p1 := pA, p2 := pSKI, p4 := pM, imm := if f.hasImm then .keep 0x3F3F else .keep 0,
                    mods := fType 0 :: f.fRound ++ [fBit 9, fBit 10] }
  | 0x244 => some { p0 := pA, p1 := pV, p2 := pSKI, p4 := pM, imm := if f.hasImm then .keep 0x3F3F else .keep 0,
                    mods := fType 0 :: f.fRound ++ [fBit 9, fBit 10, fBit 11] }
  -- class 0xA
  | 0x280 => some { p0 := pC, p1 := pSKI, imm := f.immIf }
  | 0x281 => some { p0 := pSK, p1 := pC }
  | 0x282 => some { p0 := pSK, p1 := pP, p2 := pC }
  | 0x283 => some { p0 := pC, p1 := pSK, p2 := pSKI, imm := f.immIf, mods := [⟨0, 4, .upto (15 - f.b0.toNat % 32)⟩] }
  | 0x284 => some { p0 := pSK, p1 := pSK, p2 := pC, mods := [⟨0, 4, .upto (15 - f.b2.toNat % 32)⟩] }
  | 0x285 => some { p0 := pSK, p1 := pSK, p2 := pS, imm := immAny, mods := [fType 0] }
  | 0x286 => some { p0 := pSK, p1 := pS, p2 := pSK, imm := immAny, mods := [fType 0] }
  | 0x287 => some { p0 := pSK, p1 := pSK, p2 := pS, p3 := pSK, p4 := if mdBits f.md 5 4 = 7 then pSK else .zero,
                    imm := immAny, mods := [fType 0, ⟨5, 4, .upto 7⟩] }
  | 0x288 => some { p0 := pSKI, imm := f.immIf }
  | _ => none

/-- The formats of classes 0xB to 0xE (R243, R244, R251, R261, R265, R286, R300, R302, R314, R316, R331). -/
def fmtSystem (f : Fields) : Nat → Option Fmt
  -- class 0xB
  | 0x2C0 => some { p0 := pSK, p1 := pS, imm := immAny, mods := f.fOrder [0, 1] ++ [fType 5], mem := true }
  | 0x2C1 => some { p0 := pS, p1 := pSK, imm := immAny, mods := f.fOrder [0, 2] ++ [fType 5], mem := true }
  | 0x2C2 => some { p0 := pSK, p1 := pS, imm := immAny, mods := f.fOrder [0] ++ [fType 5], mem := true }
  | 0x2C3 => some { p0 := pSK, p1 := pS, p2 := pSKI, p3 := if mdBits f.md 10 4 = 7 then pSK else .zero, imm := immAny,
                    mods := f.modsAtom [0, 1, 2, 3] [0, 1, 2, 3, 4, 5, 6, 7, 8], mem := true }
  | 0x2C4 => some { p0 := pS, p1 := pSKI, imm := immAny, mods := f.modsAtom [0, 2] [0, 1, 2, 3, 4, 5, 8], mem := true }
  | 0x2C5 => some { p0 := pS, p1 := pV, p2 := pSK, p3 := pM, p4 := if mdBits f.md 14 1 = 1 then pV else .zero,
                    imm := immAny, mods := f.modsAtom [0, 2] [0, 1, 2, 3, 4, 5, 8] ++ [fBit 14], mem := true }
  | 0x2C6 => some { p0 := pS, imm := immAny, mods := f.fOrder [0] ++ [⟨5, 5, .zero⟩, fBit 10], mem := true }
  | 0x2C7 =>
    let range := mdBits f.md 10 2 = 0
    some { p0 := if range then pS else .zero, p1 := if range then pSK else .zero,
           imm := if range then immAny else .keep 0, mods := f.fOrder [0] ++ [⟨5, 5, .zero⟩, ⟨10, 2, .upto 2⟩] }
  | 0x2C8 => some { p0 := pS, p1 := pSK, imm := immAny, mods := f.fOrder [0] ++ [⟨5, 5, .zero⟩, fBit 10] }
  | 0x2C9 => some { p0 := pS, p1 := pSK, imm := immAny,
                    mods := [⟨0, 3, .among [0, 2, 3]⟩, ⟨3, 2, .among [0]⟩, ⟨5, 5, .zero⟩] }
  | 0x2CA => some { mods := [⟨0, 3, .upto 4⟩, ⟨3, 2, .among [1, 2, 3]⟩, ⟨5, 5, .zero⟩] }
  | 0x2CB => some {}
  -- class 0xC
  | 0x300 => some { p0 := pP, p1 := pS, p2 := pSK, imm := immAny }
  | 0x301 => some { p0 := pP, p1 := pS, p2 := pSK, imm := immAny }
  | 0x302 => some { p0 := pP, p1 := pS, p2 := pSK, p3 := pSK, imm := immAny }
  | 0x303 => some { p0 := pP, p1 := pS, p2 := pSK, p3 := pSK, p4 := pC, imm := immAny }
  | 0x304 => some { p0 := pP, p1 := pS, p2 := pSK, p3 := pSK, imm := immAny }
  | 0x305 => some { p0 := pP, p1 := pS, p2 := pSK, p3 := pSK, p4 := pC, imm := immAny }
  | 0x306 => some { p0 := pP, p1 := pS, p2 := pSK, p3 := pSK, imm := immAny }
  | 0x307 => some { p0 := pSK, p1 := pS, p2 := pSK, imm := immAny }
  | 0x308 => some { p0 := pSK, p1 := pS, p2 := pSK, p3 := pC0, p4 := if f.b3 = 0 then .zero else pSK, imm := immAny,
                    mods := [fAny 0 5], mem := true }
  | 0x309 => some { p0 := pS, p1 := pSK, p2 := pSK, p3 := pC0, p4 := if f.b3 = 0 then .zero else pSK, imm := immAny,
                    mods := [fAny 0 5, fBit 5], mem := true }
  | 0x30A => some { p0 := pS, p1 := pSK, p2 := pC0, p3 := if f.b2 = 0 then .zero else pSK, imm := immAny }
  -- class 0xD
  | 0x340 =>
    let rel := mdBits f.md 3 1 = 1
    some { p0 := if rel then .zero else pSK, p1 := if rel then .zero else pSKI,
           imm := if rel then .keep 0 else f.immIf, mods := [fAny 0 3, fBit 3] }
  | 0x341 => some { p0 := pS, p1 := pSK, p2 := pSK, p3 := pC0, imm := immAny, mods := [fAny 0 3], mem := true }
  | 0x342 => some { p0 := pS, p1 := pSK, p2 := pSK, p3 := pC0, p4 := pSK, imm := immAny, mods := [fAny 0 3],
                    mem := true }
  | 0x343 => some { p0 := pS, p1 := pSK, p2 := pSK, p3 := pC0, p4 := pSK, imm := immAny, mods := [fAny 0 3],
                    mem := true }
  | 0x344 => some { p0 := pS, p1 := pSK, p2 := pSK, p3 := pC0, p4 := pSK, imm := immAny, mods := [fAny 0 3] }
  | 0x345 => some { p0 := pS, p1 := pSK, p2 := pSK, p3 := pC0, imm := immAny, mods := [fAny 0 3, fAny 4 3] }
  | 0x346 => some { p0 := pS, p1 := pSK, p2 := pSK, p3 := pC0, imm := immAny, mods := [fAny 0 3, fAny 4 6] }
  | 0x347 => some { p0 := pS, p1 := pSK, p2 := pSK, p3 := pC0, imm := immAny, mods := [fAny 0 3, fBit 4] }
  -- class 0xE
  | 0x380 =>
    let all := mdBits f.md 3 1 = 1
    some { p0 := if mdBits f.md 4 1 = 1 then .zero else pSK, p1 := if all then .zero else pSK,
           p2 := if all then .zero else pSK, mods := [⟨0, 3, .upto 4⟩, fBit 3, fBit 4] }
  | _ => none

/-- The format of a word's opcode, none where R69 assigns none. It may depend on the word's other fields. -/
def Fields.fmt (f : Fields) : Option Fmt :=
  let op := f.opcode.toNat
  match op / 64 with
  | 0 | 1 | 2 | 3 => fmtScalar f op
  | 4 | 5 | 6 | 7 => fmtPlane f op
  | 8 | 9 | 10 => fmtLattice f op
  | 11 | 12 | 13 | 14 => fmtSystem f op
  | _ => none

/-! ### Opcodes and constructors (R69) -/

/-- The instruction of an assigned opcode, with its header and operands. -/
def build (h : Hdr) (o : Ops) : Nat → Option Instr
  | 0x000 => some (.nop h o)
  | 0x001 => some (.br h o)
  | 0x002 => some (.jmp h o)
  | 0x003 => some (.call h o)
  | 0x004 => some (.ret h o)
  | 0x005 => some (.loop h o)
  | 0x006 => some (.fin h o)
  | 0x007 => some (.brk h o)
  | 0x008 => some (.eret h o)
  | 0x009 => some (.kill h o)
  | 0x040 => some (.add h o)
  | 0x041 => some (.sub h o)
  | 0x042 => some (.mul h o)
  | 0x043 => some (.mulh h o)
  | 0x044 => some (.div h o)
  | 0x045 => some (.rem h o)
  | 0x046 => some (.min h o)
  | 0x047 => some (.max h o)
  | 0x048 => some (.and h o)
  | 0x049 => some (.or h o)
  | 0x04A => some (.xor h o)
  | 0x04B => some (.andn h o)
  | 0x04C => some (.shl h o)
  | 0x04D => some (.shr h o)
  | 0x04E => some (.sra h o)
  | 0x04F => some (.rot h o)
  | 0x050 => some (.bfx h o)
  | 0x051 => some (.bfi h o)
  | 0x052 => some (.clz h o)
  | 0x053 => some (.ctz h o)
  | 0x054 => some (.popc h o)
  | 0x055 => some (.cmp h o)
  | 0x056 => some (.sel h o)
  | 0x057 => some (.movhi h o)
  | 0x080 => some (.fadd h o)
  | 0x081 => some (.fsub h o)
  | 0x082 => some (.fmul h o)
  | 0x083 => some (.fdiv h o)
  | 0x084 => some (.fsqrt h o)
  | 0x085 => some (.fma h o)
  | 0x086 => some (.fmin h o)
  | 0x087 => some (.fmax h o)
  | 0x088 => some (.fabs h o)
  | 0x089 => some (.fneg h o)
  | 0x08A => some (.fcmp h o)
  | 0x08B => some (.fcvt h o)
  | 0x08C => some (.fcvti h o)
  | 0x08D => some (.icvtf h o)
  | 0x08E => some (.fclass h o)
  | 0x0C0 => some (.pand h o)
  | 0x0C1 => some (.por h o)
  | 0x0C2 => some (.pxor h o)
  | 0x0C3 => some (.pandn h o)
  | 0x0C4 => some (.pnot h o)
  | 0x0C5 => some (.pset h o)
  | 0x0C6 => some (.pget h o)
  | 0x0C7 => some (.mfc h o)
  | 0x0C8 => some (.mtc h o)
  | 0x100 => some (.ldl h o)
  | 0x101 => some (.stl h o)
  | 0x102 => some (.vld h o)
  | 0x103 => some (.vst h o)
  | 0x104 => some (.vldm h o)
  | 0x105 => some (.vstm h o)
  | 0x140 => some (.vadd h o)
  | 0x141 => some (.vsub h o)
  | 0x142 => some (.vmul h o)
  | 0x143 => some (.vdiv h o)
  | 0x144 => some (.vfma h o)
  | 0x145 => some (.vmin h o)
  | 0x146 => some (.vmax h o)
  | 0x147 => some (.vabs h o)
  | 0x148 => some (.vneg h o)
  | 0x149 => some (.vsqrt h o)
  | 0x14A => some (.vrcp h o)
  | 0x14B => some (.vrsq h o)
  | 0x14C => some (.vexp2 h o)
  | 0x14D => some (.vlog2 h o)
  | 0x14E => some (.vtanh h o)
  | 0x14F => some (.vfcmp h o)
  | 0x150 => some (.vclamp h o)
  | 0x180 => some (.viadd h o)
  | 0x181 => some (.visub h o)
  | 0x182 => some (.vimul h o)
  | 0x183 => some (.vimulh h o)
  | 0x184 => some (.vimin h o)
  | 0x185 => some (.vimax h o)
  | 0x186 => some (.viabs h o)
  | 0x187 => some (.vshl h o)
  | 0x188 => some (.vshr h o)
  | 0x189 => some (.vand h o)
  | 0x18A => some (.vor h o)
  | 0x18B => some (.vxor h o)
  | 0x18C => some (.vandn h o)
  | 0x18D => some (.vlut4 h o)
  | 0x18E => some (.vicmp h o)
  | 0x18F => some (.vsel h o)
  | 0x190 => some (.vbcast h o)
  | 0x191 => some (.vmov h o)
  | 0x192 => some (.viota h o)
  | 0x193 => some (.vpopc h o)
  | 0x1C0 => some (.vcvt h o)
  | 0x1C1 => some (.vquant h o)
  | 0x1C2 => some (.vdequant h o)
  | 0x1C3 => some (.vreds h o)
  | 0x1C4 => some (.vredr h o)
  | 0x1C5 => some (.vscan h o)
  | 0x1C6 => some (.vsortk h o)
  | 0x1C7 => some (.vsegred h o)
  | 0x1C8 => some (.vargx h o)
  | 0x200 => some (.vshift h o)
  | 0x201 => some (.mand h o)
  | 0x202 => some (.mor h o)
  | 0x203 => some (.mxor h o)
  | 0x204 => some (.mandn h o)
  | 0x205 => some (.mnot h o)
  | 0x206 => some (.mmov h o)
  | 0x207 => some (.mpop h o)
  | 0x208 => some (.many h o)
  | 0x209 => some (.mrule h o)
  | 0x20A => some (.medge h o)
  | 0x20B => some (.actrd h o)
  | 0x20C => some (.actwr h o)
  | 0x20D => some (.mshift h o)
  | 0x240 => some (.mzero h o)
  | 0x241 => some (.mma h o)
  | 0x242 => some (.mmas h o)
  | 0x243 => some (.accrd h o)
  | 0x244 => some (.accwr h o)
  | 0x280 => some (.send h o)
  | 0x281 => some (.recv h o)
  | 0x282 => some (.peek h o)
  | 0x283 => some (.steer h o)
  | 0x284 => some (.merge h o)
  | 0x285 => some (.rld h o)
  | 0x286 => some (.rst h o)
  | 0x287 => some (.ratom h o)
  | 0x288 => some (.barg h o)
  | 0x2C0 => some (.ld h o)
  | 0x2C1 => some (.st h o)
  | 0x2C2 => some (.ldro h o)
  | 0x2C3 => some (.atom h o)
  | 0x2C4 => some (.red h o)
  | 0x2C5 => some (.redv h o)
  | 0x2C6 => some (.pref h o)
  | 0x2C7 => some (.cinv h o)
  | 0x2C8 => some (.cflush h o)
  | 0x2C9 => some (.dscinv h o)
  | 0x2CA => some (.fence h o)
  | 0x2CB => some (.afence h o)
  | 0x300 => some (.dep h o)
  | 0x301 => some (.depw h o)
  | 0x302 => some (.take h o)
  | 0x303 => some (.takep h o)
  | 0x304 => some (.cpy h o)
  | 0x305 => some (.cpyp h o)
  | 0x306 => some (.pcancel h o)
  | 0x307 => some (.clcount h o)
  | 0x308 => some (.mxpose h o)
  | 0x309 => some (.mxout h o)
  | 0x30A => some (.mseq h o)
  | 0x340 => some (.own h o)
  | 0x341 => some (.copy h o)
  | 0x342 => some (.gather h o)
  | 0x343 => some (.iwalk h o)
  | 0x344 => some (.rast h o)
  | 0x345 => some (.resolve h o)
  | 0x346 => some (.rmarch h o)
  | 0x347 => some (.rclear h o)
  | 0x380 => some (.tlbi h o)
  | _ => none

/-- The opcode, header and operands of an instruction; none for the steps that no word encodes. -/
def Instr.parts : Instr → Option (Nat × Hdr × Ops)
  | .nop h o => some (0x000, h, o)
  | .br h o => some (0x001, h, o)
  | .jmp h o => some (0x002, h, o)
  | .call h o => some (0x003, h, o)
  | .ret h o => some (0x004, h, o)
  | .loop h o => some (0x005, h, o)
  | .fin h o => some (0x006, h, o)
  | .brk h o => some (0x007, h, o)
  | .eret h o => some (0x008, h, o)
  | .kill h o => some (0x009, h, o)
  | .add h o => some (0x040, h, o)
  | .sub h o => some (0x041, h, o)
  | .mul h o => some (0x042, h, o)
  | .mulh h o => some (0x043, h, o)
  | .div h o => some (0x044, h, o)
  | .rem h o => some (0x045, h, o)
  | .min h o => some (0x046, h, o)
  | .max h o => some (0x047, h, o)
  | .and h o => some (0x048, h, o)
  | .or h o => some (0x049, h, o)
  | .xor h o => some (0x04A, h, o)
  | .andn h o => some (0x04B, h, o)
  | .shl h o => some (0x04C, h, o)
  | .shr h o => some (0x04D, h, o)
  | .sra h o => some (0x04E, h, o)
  | .rot h o => some (0x04F, h, o)
  | .bfx h o => some (0x050, h, o)
  | .bfi h o => some (0x051, h, o)
  | .clz h o => some (0x052, h, o)
  | .ctz h o => some (0x053, h, o)
  | .popc h o => some (0x054, h, o)
  | .cmp h o => some (0x055, h, o)
  | .sel h o => some (0x056, h, o)
  | .movhi h o => some (0x057, h, o)
  | .fadd h o => some (0x080, h, o)
  | .fsub h o => some (0x081, h, o)
  | .fmul h o => some (0x082, h, o)
  | .fdiv h o => some (0x083, h, o)
  | .fsqrt h o => some (0x084, h, o)
  | .fma h o => some (0x085, h, o)
  | .fmin h o => some (0x086, h, o)
  | .fmax h o => some (0x087, h, o)
  | .fabs h o => some (0x088, h, o)
  | .fneg h o => some (0x089, h, o)
  | .fcmp h o => some (0x08A, h, o)
  | .fcvt h o => some (0x08B, h, o)
  | .fcvti h o => some (0x08C, h, o)
  | .icvtf h o => some (0x08D, h, o)
  | .fclass h o => some (0x08E, h, o)
  | .pand h o => some (0x0C0, h, o)
  | .por h o => some (0x0C1, h, o)
  | .pxor h o => some (0x0C2, h, o)
  | .pandn h o => some (0x0C3, h, o)
  | .pnot h o => some (0x0C4, h, o)
  | .pset h o => some (0x0C5, h, o)
  | .pget h o => some (0x0C6, h, o)
  | .mfc h o => some (0x0C7, h, o)
  | .mtc h o => some (0x0C8, h, o)
  | .ldl h o => some (0x100, h, o)
  | .stl h o => some (0x101, h, o)
  | .vld h o => some (0x102, h, o)
  | .vst h o => some (0x103, h, o)
  | .vldm h o => some (0x104, h, o)
  | .vstm h o => some (0x105, h, o)
  | .vadd h o => some (0x140, h, o)
  | .vsub h o => some (0x141, h, o)
  | .vmul h o => some (0x142, h, o)
  | .vdiv h o => some (0x143, h, o)
  | .vfma h o => some (0x144, h, o)
  | .vmin h o => some (0x145, h, o)
  | .vmax h o => some (0x146, h, o)
  | .vabs h o => some (0x147, h, o)
  | .vneg h o => some (0x148, h, o)
  | .vsqrt h o => some (0x149, h, o)
  | .vrcp h o => some (0x14A, h, o)
  | .vrsq h o => some (0x14B, h, o)
  | .vexp2 h o => some (0x14C, h, o)
  | .vlog2 h o => some (0x14D, h, o)
  | .vtanh h o => some (0x14E, h, o)
  | .vfcmp h o => some (0x14F, h, o)
  | .vclamp h o => some (0x150, h, o)
  | .viadd h o => some (0x180, h, o)
  | .visub h o => some (0x181, h, o)
  | .vimul h o => some (0x182, h, o)
  | .vimulh h o => some (0x183, h, o)
  | .vimin h o => some (0x184, h, o)
  | .vimax h o => some (0x185, h, o)
  | .viabs h o => some (0x186, h, o)
  | .vshl h o => some (0x187, h, o)
  | .vshr h o => some (0x188, h, o)
  | .vand h o => some (0x189, h, o)
  | .vor h o => some (0x18A, h, o)
  | .vxor h o => some (0x18B, h, o)
  | .vandn h o => some (0x18C, h, o)
  | .vlut4 h o => some (0x18D, h, o)
  | .vicmp h o => some (0x18E, h, o)
  | .vsel h o => some (0x18F, h, o)
  | .vbcast h o => some (0x190, h, o)
  | .vmov h o => some (0x191, h, o)
  | .viota h o => some (0x192, h, o)
  | .vpopc h o => some (0x193, h, o)
  | .vcvt h o => some (0x1C0, h, o)
  | .vquant h o => some (0x1C1, h, o)
  | .vdequant h o => some (0x1C2, h, o)
  | .vreds h o => some (0x1C3, h, o)
  | .vredr h o => some (0x1C4, h, o)
  | .vscan h o => some (0x1C5, h, o)
  | .vsortk h o => some (0x1C6, h, o)
  | .vsegred h o => some (0x1C7, h, o)
  | .vargx h o => some (0x1C8, h, o)
  | .vshift h o => some (0x200, h, o)
  | .mand h o => some (0x201, h, o)
  | .mor h o => some (0x202, h, o)
  | .mxor h o => some (0x203, h, o)
  | .mandn h o => some (0x204, h, o)
  | .mnot h o => some (0x205, h, o)
  | .mmov h o => some (0x206, h, o)
  | .mpop h o => some (0x207, h, o)
  | .many h o => some (0x208, h, o)
  | .mrule h o => some (0x209, h, o)
  | .medge h o => some (0x20A, h, o)
  | .actrd h o => some (0x20B, h, o)
  | .actwr h o => some (0x20C, h, o)
  | .mshift h o => some (0x20D, h, o)
  | .mzero h o => some (0x240, h, o)
  | .mma h o => some (0x241, h, o)
  | .mmas h o => some (0x242, h, o)
  | .accrd h o => some (0x243, h, o)
  | .accwr h o => some (0x244, h, o)
  | .send h o => some (0x280, h, o)
  | .recv h o => some (0x281, h, o)
  | .peek h o => some (0x282, h, o)
  | .steer h o => some (0x283, h, o)
  | .merge h o => some (0x284, h, o)
  | .rld h o => some (0x285, h, o)
  | .rst h o => some (0x286, h, o)
  | .ratom h o => some (0x287, h, o)
  | .barg h o => some (0x288, h, o)
  | .ld h o => some (0x2C0, h, o)
  | .st h o => some (0x2C1, h, o)
  | .ldro h o => some (0x2C2, h, o)
  | .atom h o => some (0x2C3, h, o)
  | .red h o => some (0x2C4, h, o)
  | .redv h o => some (0x2C5, h, o)
  | .pref h o => some (0x2C6, h, o)
  | .cinv h o => some (0x2C7, h, o)
  | .cflush h o => some (0x2C8, h, o)
  | .dscinv h o => some (0x2C9, h, o)
  | .fence h o => some (0x2CA, h, o)
  | .afence h o => some (0x2CB, h, o)
  | .dep h o => some (0x300, h, o)
  | .depw h o => some (0x301, h, o)
  | .take h o => some (0x302, h, o)
  | .takep h o => some (0x303, h, o)
  | .cpy h o => some (0x304, h, o)
  | .cpyp h o => some (0x305, h, o)
  | .pcancel h o => some (0x306, h, o)
  | .clcount h o => some (0x307, h, o)
  | .mxpose h o => some (0x308, h, o)
  | .mxout h o => some (0x309, h, o)
  | .mseq h o => some (0x30A, h, o)
  | .own h o => some (0x340, h, o)
  | .copy h o => some (0x341, h, o)
  | .gather h o => some (0x342, h, o)
  | .iwalk h o => some (0x343, h, o)
  | .rast h o => some (0x344, h, o)
  | .resolve h o => some (0x345, h, o)
  | .rmarch h o => some (0x346, h, o)
  | .rclear h o => some (0x347, h, o)
  | .tlbi h o => some (0x380, h, o)
  | .shapeRegisterWrite _ _ => none
  | .fpmodeWrite _ => none
  | .fpflagsWrite _ => none
  | .fpflagsRead _ => none
  | .lfsrWrite _ => none
  | .waysWrite _ => none
  | .ptrootWrite _ => none
  | .walkctlWrite _ => none
  | .wcfgWrite _ => none
  | .ctlregWrite _ _ => none
  | .schedSettingsWrite _ _ _ _ => none
  | .bucketControlWrite _ _ => none
  | .wdogLimitWrite _ => none
  | .firingSelect _ => none
  | .trapActorStart _ => none
  | .engineFaultDelivery _ _ => none
  | .loadReturn _ => none
  | .writeAck _ => none
  | .tokenVisible _ => none
  | .haloEdgeArrival _ _ => none
  | .remoteLsAccess _ => none
  | .sliceAccess _ => none
  | .pageWalk _ => none
  | .superblockMigration _ _ => none
  | .sliceScrub _ => none
  | .mittenScrub _ => none
  | .clocheDepositArrival _ => none
  | .clocheMatchArrival _ => none
  | .clocheCancelArrival _ => none
  | .clocheCountArrival _ => none
  | .clocheDelivery _ => none
  | .hostDeposit _ _ => none
  | .hostWaitingDeposit _ _ => none
  | .hostParkedTake _ _ => none
  | .hostParkedCopy _ _ => none
  | .hostCancel _ _ => none
  | .hostBadRequest _ _ => none
  | .hostMemoryRead _ _ => none
  | .hostMemoryWrite _ _ => none
  | .hostLineRecall _ _ => none
  | .launchTake => none
  | .gangPlacement => none
  | .gangMove _ => none
  | .preemptDecision => none
  | .gangPreempt _ => none
  | .saveImageMove _ _ => none
  | .gangRestore _ => none
  | .agingStep => none
  | .completionDeposit _ => none
  | .completionRetry _ => none
  | .dusk _ => none
  | .gangRetire _ => none
  | .gangKill _ => none
  | .killComplete _ => none
  | .wdogExpiry _ => none
  | .commandAccept _ _ => none
  | .renderSlotAccept _ _ => none
  | .engineBurst _ _ _ => none
  | .commandComplete _ _ => none
  | .completionTokenSend _ _ => none
  | .binWork _ _ _ => none
  | .rayMarch _ _ => none
  | .mittenCommandStart _ => none
  | .mittenCommandComplete _ => none
  | .tlbiAck _ => none
  | .fenceComplete _ => none
  | .dscinvAck _ => none
  | .windowPackageFold _ => none
  | .leafFold _ _ _ _ _ => none
  | .spineFold _ _ => none
  | .windowHomeMerge _ => none
  | .epochDone _ => none
  | .linkFailure _ => none
  | .switchFailure _ => none
  | .glarikFailure => none
  | .thermalThrottle => none
  | .thermalShutdown => none
  | .packageFatalError _ _ => none
  | .bonnetAccessRefused _ => none
  | .dawn _ => none
  | .smbusAccess _ => none
  | .linkRetrain _ _ => none
  | .gddr7Refresh => none
  | .boundaryScan _ => none

/-! ### Guards and hints (R60, R62) -/

/-- One guard term from its four bits. -/
def termOf (b : BitVec 4) : Term := ⟨Fin.ofNat 8 (b.toNat % 8), b.toNat / 8 == 1⟩

/-- The four bits of a guard term. -/
def Term.bits (t : Term) : BitVec 4 := BitVec.ofNat 4 ((if t.inv then 8 else 0) + t.p)

/-- The guard of a word, or the trapval of guard bits that must be zero (R60, R398). -/
def Fields.guard (f : Fields) : Except Nat Guard :=
  match f.gmode.toNat with
  | 0 =>
    if f.guarda ≠ 0 then .error (lowestSet f.guarda.toNat 10)
    else if f.guardb ≠ 0 then .error (lowestSet f.guardb.toNat 14)
    else .ok .none
  | 1 => if f.guardb ≠ 0 then .error (lowestSet f.guardb.toNat 14) else .ok (.one (termOf f.guarda))
  | 2 => .ok (.both (termOf f.guarda) (termOf f.guardb))
  | _ => .ok (.either (termOf f.guarda) (termOf f.guardb))

/-- The guard fields of a guard: guarda, guardb, gmode. -/
def Guard.fields : Guard → BitVec 4 × BitVec 4 × BitVec 2
  | .none => (0, 0, 0)
  | .one t => (t.bits, 0, 1)
  | .both t u => (t.bits, u.bits, 2)
  | .either t u => (t.bits, u.bits, 3)

/-- The hint of a code; codes 4 to 15 are reserved (R62). -/
def hintOf : Nat → Option Hint
  | 0 => some .normal | 1 => some .stream | 2 => some .keep | 3 => some .noAllocate | _ => none

/-- The code of a hint (R62). -/
def Hint.code : Hint → BitVec 4
  | .normal => 0 | .stream => 1 | .keep => 2 | .noAllocate => 3

/-! ### The decoder -/

/-- The trapval of the header fields of an instruction whose word is zero above the opcode, the lowest bit that is set: of the guard
fields, then of delay and drain, for which R398 has no place (R361). DEDUCED, log entry 82. -/
def Fields.bareErr (f : Fields) : Option Nat :=
  let guard := f.guarda.toNat + 2 ^ 4 * f.guardb.toNat + 2 ^ 8 * f.gmode.toNat
  let wait := f.delay.toNat + 2 ^ 4 * f.drain.toNat
  if guard ≠ 0 then some (lowestSet guard 10) else if wait ≠ 0 then some (lowestSet wait 24) else none

/-- The header of a word, or the trapval of its first wrong field: bits 31:29, then the hint, then the guard (R398). -/
def Fields.hdr (f : Fields) (t : Fmt) : Except Nat Hdr :=
  if f.rsv ≠ 0 then .error (lowestSet f.rsv.toNat 29)
  else if f.hint ≠ 0 ∧ t.mem = false then .error 20
  else match hintOf f.hint.toNat with
    | none => .error 20
    | some hint =>
      if t.bare ∧ f.bareErr.isSome then .error (f.bareErr.getD 0)
      else match f.guard with
      | .error e => .error e
      | .ok g => .ok ⟨g, hint, Fin.ofNat 16 f.delay.toNat, f.drain == 1⟩

/-- The operands of a word, or the trapval of its first wrong field: operand bytes 0 to 4, then imm32, then the
modifier from bit 0 upward (R398). -/
def Fields.ops (f : Fields) (t : Fmt) : Except Nat Ops := do
  let o0 ← t.p0.parse f.b0 0 false
  let o1 ← t.p1.parse f.b1 1 (o0 == .imm)
  let o2 ← t.p2.parse f.b2 2 (o0 == .imm || o1 == .imm)
  let o3 ← t.p3.parse f.b3 3 (o0 == .imm || o1 == .imm || o2 == .imm)
  let o4 ← t.p4.parse f.b4 4 (o0 == .imm || o1 == .imm || o2 == .imm || o3 == .imm)
  match t.imm.err f.imm with
  | some e => .error e
  | none =>
    match modErr t.mods f.md with
    | some e => .error e
    | none => .ok ⟨o0, o1, o2, o3, o4, f.imm, f.md⟩

/-- The instruction of a word's fields, or the trapval of the ILLOP trap that the fields take (R72, R398). -/
def Fields.decode (f : Fields) : Except Nat Instr :=
  match f.fmt with
  | none => .error 0
  | some t =>
    match f.hdr t with
    | .error e => .error e
    | .ok h =>
      match f.ops t with
      | .error e => .error e
      | .ok o => match build h o f.opcode.toNat with
        | some i => .ok i
        | none => .error 0

/-- The decoder: total on every 128-bit word. -/
def decode (w : IWord) : Except Nat Instr := (Fields.unpack w).decode

/-- The decoder on bytes as memory stores them, the lowest address first (R3, R56). -/
def wordOfBytes (l : List Byte) : Nat := l.foldr (fun b acc => b.toNat + 256 * acc) 0

/-- The bytes of a number, `n` of them, the lowest first (R3). -/
def bytesOf (n x : Nat) : List Byte := (List.range n).map fun i => BitVec.ofNat 8 (x / 256 ^ i)

/-- The instruction that 16 bytes hold. -/
def decodeBytes (l : List Byte) : Except Nat Instr := decode (BitVec.ofNat 128 (wordOfBytes l))

/-- The instruction that the decoder reads from a row's bits, every bit above them zero. -/
def decodeTableWord (nbits w : Nat) : Option Instr :=
  match decodeBytes (bytesOf 16 (w % 2 ^ nbits)) with
  | .ok i => some i
  | .error _ => none

/-! ### The encoder -/

/-- The fields of an instruction with opcode `op`, header `h` and operands `o`. -/
def fieldsOf (op : Nat) (h : Hdr) (o : Ops) : Fields where
  opcode := BitVec.ofNat 10 op
  guarda := h.guard.fields.1
  guardb := h.guard.fields.2.1
  gmode  := h.guard.fields.2.2
  hint   := h.hint.code
  delay  := BitVec.ofNat 4 h.delay
  drain  := if h.drain then 1 else 0
  rsv    := 0
  b0     := o.o0.byte
  b1     := o.o1.byte
  b2     := o.o2.byte
  b3     := o.o3.byte
  b4     := o.o4.byte
  imm    := o.imm
  md     := o.md

/-- The word of an instruction; none for the steps that no word encodes. -/
def encode (i : Instr) : Option IWord :=
  match i.parts with
  | some (op, h, o) => some (fieldsOf op h o).pack
  | none => none

/-! ### Reading a decoded instruction -/

/-- The number of a plane operand. -/
def Operand.planeNo (o : Operand) : Fin 32 :=
  match o with
  | .v i => i
  | _ => 0

/-- The number of an accumulator operand. -/
def Operand.accNo (o : Operand) : Fin 4 :=
  match o with
  | .a i => i
  | _ => 0

/-- The number of a channel-port operand. -/
def Operand.portNo (o : Operand) : Fin 16 :=
  match o with
  | .c i => i
  | _ => 0

/-- imm32 sign-extended (R59). -/
def Ops.sext (o : Ops) : Word := o.imm.signExtend 64
/-- imm32 zero-extended. -/
def Ops.zext (o : Ops) : Word := o.imm.zeroExtend 64
/-- The bits of an instruction's modifier. -/
def Ops.mod (o : Ops) (lo wd : Nat) : Nat := mdBits o.md lo wd
/-- One bit of an instruction's modifier. -/
def Ops.bit (o : Ops) (i : Nat) : Bool := o.md.getLsbD i
/-- The type in a modifier subfield; S8 where the code is reserved, which no accepted word holds. -/
def Ops.ty (o : Ops) (lo : Nat) : Ty := (tyOfCode (o.mod lo 5)).getD .s8

/-- The predicates that a guard reads. -/
def Guard.preds : Guard → List Operand
  | .none => []
  | .one t => [.p t.p]
  | .both t u => [.p t.p, .p u.p]
  | .either t u => [.p t.p, .p u.p]

/-- The operands whose registers the instruction reads or writes. -/
def Ops.regs (o : Ops) : List Operand := [o.o0, o.o1, o.o2, o.o3, o.o4]

end Sys2Proof
end

