-- ==== Sys2Proof/Config.lean ====
section
/-!
DEFINITION. Sys2Proof/Config.lean: what an implementation fixes, and the values that the spec leaves open.

Every value here is an opaque constant: nothing can be proved of it, so a claim holds whatever it is. An open value
that may differ from one occasion to the next is applied to the number of steps taken so far, which State counts.
-/

namespace Sys2Proof.Config

/-- The cycles that pass in the n-th step. Cycle counts are out of the model's scope; `tick` only rises by them.
DESIGN CHOICE, log entry 6. -/
opaque elapsed : Nat → Nat

/-- The entry that a full cache gives up in the n-th step: a line of an L1, an entry of a TLB or a cached descriptor; and the
way in which a superblock that migrates comes to stand (R229, R231, R234, R329). DESIGN CHOICE, log entry 67. -/
opaque victim : Nat → Nat

/-- Which of the 16 entries of a 64 KiB page the walk of the n-th step uses, modulo 16 (R228).
DESIGN CHOICE, log entry 8. -/
opaque pageEntry : Nat → Nat

/-- Which lines stand dirty in their slices in the n-th step, by the number of the line: those that a CFLUSH, a way that leaves cache
use, a save, or a read under another key slot writes back (R236 to R238, R240, R250, R369). DESIGN CHOICE, log entry 108. -/
opaque dirty : Nat → Nat → Bool

/-- The `next` field of the last node of a multi-layer list as the n-th step writes it: a field that every reader
ignores, whose value the spec does not state (R340). DESIGN CHOICE, log entry 9. -/
opaque lastNext : Nat → BitVec 20

/-- How many records follow the fixed ones in the dump of the n-th step, where the dump area holds as many (R376).
DESIGN CHOICE, log entry 10. -/
opaque dumpCount : Nat → BitVec 32

/-- The records of the dump of the n-th step: control registers and logs in formats that the spec names and
does not lay out (R375, R376). Arguments: the step, the byte's place.
DESIGN CHOICE, log entry 10. -/
opaque dumpByte : Nat → Nat → Byte

/-- The reason code in the dump of a thermal shutdown: the spec names none for it (R376, R396).
DESIGN CHOICE, log entry 11. -/
opaque thermalReason : BitVec 8

/-- What a setting becomes when firmware writes a value outside its range (R214, R366). Argument: the value written.
DESIGN CHOICE, log entry 12. -/
opaque offRange : Nat → Nat

/-- The flits that enter the mesh at a port in the n-th step (R220). Arguments: the step, the port. DESIGN CHOICE, log entry 13. -/
opaque flits : Nat → Nat → Nat

/-- Which of the paths that are left Gauntlet gives a line between two packages once its own has failed (R393). DESIGN CHOICE,
log entry 59. -/
opaque reroute : Nat → Nat → Nat → Nat

end Sys2Proof.Config
end

