-- ==== Sys2Proof/Machine/State.lean ====
section
/-!
DEFINITION. Sys2Proof/Machine/State.lean: the state of one Faltal package as plain data, and its reset.

The package is 512 cores, 128 slices, four dispatchers, four render engines, the host link, the fabric's share of
four reduction windows and the management plane (R2, R373). What happens on its own (an access on its way, a token in
the mesh, a burst of an engine) is held here as data, and `agenda` says which agent moves next.
-/

namespace Sys2Proof.Machine

open Sys2Proof

/-! ### Firings and traps -/

/-- The three kinds of firing (R24, R206, R357). -/
inductive FKind where
  | normal | trap | dusk
  deriving DecidableEq, Repr

/-- A firing that runs on a core: its actor's slot, its kind and its own number, which tells its accesses from those
of other firings (R198, R256). -/
structure Fire where
  slot : Fin 8
  kind : FKind
  fid  : Nat
  deriving DecidableEq, Repr

/-- A suspended firing and the place where it continues (R24, R357). -/
structure Susp where
  fire : Fire
  pc   : Word
  deriving DecidableEq, Repr

/-- What ends a gang: the status, cause, fpc, faddr and fcore of its completion tuple, the census that stood when the kill
was decided, and the cycle in which its cause reached the dispatcher (R218, R362 to R364). -/
structure Doom where
  status : Byte
  cause  : Byte
  fpc    : Word
  faddr  : Word
  fcore  : BitVec 32
  census : Nat
  tick   : Nat
  deriving DecidableEq, Repr

/-! ### Channels and HALO edges -/

/-- A channel instance: the channel's index in the image and the producing core's place in the gang (R46, R186). -/
structure ChanRef where
  chan : Nat
  px   : Nat
  py   : Nat
  deriving DecidableEq, Repr

/-- A token in an instance: its value, whether it is visible to the consumer yet, and the accesses whose
acknowledgements its release waits for (R186, R187, R193). -/
structure Tok where
  id      : Nat
  val     : Word
  visible : Bool
  after   : List Nat
  deriving DecidableEq, Repr

/-- The tokens of one channel instance, the oldest first. An instance that is not listed is empty. -/
structure Inst where
  ref  : ChanRef
  toks : List Tok
  deriving DecidableEq, Repr

/-- An edge message in the mesh: its direction, its receiver's place in the gang and its bits (R154, R155). -/
structure Edge where
  dir  : Fin 8
  gx   : Nat
  gy   : Nat
  bits : Nat
  deriving DecidableEq, Repr

/-- A HALO VSHIFT whose destination waits for its edge (R156): the direction, the destination plane, the shape that it
was issued under, and the interior sites that it writes together with the edge. -/
structure HaloPend where
  dir   : Fin 8
  dst   : Fin 32
  shp   : Word
  inner : List (Nat × Nat)
  deriving DecidableEq, Repr

/-! ### Memory accesses -/

/-- A translation as a TLB entry or an access holds it: the page's VA and size, its frame and its attributes (R225). -/
structure Page where
  asid  : BitVec 16
  base  : Nat
  size  : Nat
  frame : Nat
  kind  : Fin 4
  ro    : Bool
  cache : Bool
  fill  : Bool
  near  : Bool
  key   : Fin 128
  deriving DecidableEq, Repr

/-- A line of a core's L1: tagged by virtual address and ASID, read-only where LDRO filled it (R231, R232). -/
structure Line where
  asid : BitVec 16
  va   : Nat
  ro   : Bool
  data : BitVec 1024
  deriving DecidableEq, Repr

/-- A cached Cloche or engine descriptor (R250, R273). -/
structure Desc where
  asid : BitVec 16
  va   : Nat
  data : BitVec 512
  deriving DecidableEq, Repr

/-- Where an access goes: a page's frame, the pattern of a fill page, a scratch way of a slice (R241), or the local
store of another core of the gang. -/
inductive Place where
  | phys (pa : Nat) (page : Page)
  | fill (pattern : BitVec 32) (off : Nat)
  | scratch (q : SliceId) (addr : Nat)
  | remote (t : CoreId) (addr : Nat)
  deriving DecidableEq, Repr

/-- A Cloche request of a core (R286, R288). `dest` is a local-store address; `port` names the instance of the token. -/
inductive CReq where
  | dep (tuple : BitVec 512)
  | depw (tuple : BitVec 512) (dest : Nat)
  | take (pat : BitVec 512) (dest : Nat)
  | takep (pat : BitVec 512) (dest : Nat) (port : ChanRef)
  | cpy (pat : BitVec 512) (dest : Nat)
  | cpyp (pat : BitVec 512) (dest : Nat) (port : ChanRef)
  | cancel (dest : Nat) (tag : Word)
  | count (pat : BitVec 512)
  deriving DecidableEq, Repr

/-- What an access does when it is performed. Registers are named as operands; a keep register belongs to the bank of
the access's firing. -/
inductive Req where
  | load (d : Operand) (t : Ty) (ro : Bool)
  | store (n : Nat) (data : Nat)
  | atom (op : Nat) (t : Ty) (v cmp : Word) (d : Operand)
  | red (op : Nat) (t : Ty) (v : Word)
  | flush (len : Nat) (inv : Bool)
  | pref (l1 : Bool)
  | rld (d : Operand) (t : Ty)
  | rst (n : Nat) (data : Nat)
  | ratom (op : Nat) (t : Ty) (v cmp : Word) (d : Operand)
  | cloche (d : Operand) (q : CReq) (desc : BitVec 512)
  deriving DecidableEq, Repr

/-- Why a walk ends without a page: its cause, and the physical address of an entry with an uncorrectable error. -/
structure WalkErr where
  cause : Byte
  pa    : Option Nat
  deriving DecidableEq, Repr

/-- The phases of an access: at issue; waiting for the page walk of the translation that it took at issue (whose page enters the TLBs
unless a TLBI has covered it), or of one that failed; on its way to its place; performed with its reply on the way (the value
returned and the flags raised); or for a Cloche request that found its tuple, answered (R378). -/
inductive Phase where
  | new
  | walk (p : Place) (fill : Bool)
  | bad (e : WalkErr)
  | sent (p : Place)
  | done (val : Nat) (flags : BitVec 5)
  | found (tuple : BitVec 512)
  deriving DecidableEq, Repr

/-- One access under way. `grp` is shared by the elements of one REDV; `acq` and `rel` give its scopes as an acquire
and a release; `fenced` says that a FENCE of its firing stands behind it (R256); `window` is the reduction window that a
RED element entered, with its epoch (R389, R390); `stream` is the hint that keeps its line out of the L1 (R62); `pre` says that
its local-store bytes were handed to the engine after it issued (R267); `atL1` that the L1 of its core served it (R231). -/
structure Access where
  id     : Nat
  grp    : Nat
  core   : CoreId
  fire   : Fire
  gang   : Nat
  ipc    : Word
  va     : Word
  n      : Nat
  asid   : BitVec 16
  req    : Req
  acq    : Option (Fin 5)
  rel    : Option (Fin 5)
  phase  : Phase
  page   : Option Page
  fenced : Bool
  window : Option (Fin 4 × Nat)
  stream : Bool
  pre    : Bool
  atL1   : Bool
  deriving DecidableEq, Repr

/-- What holds a firing after an instruction has issued (R199, R240, R250, R252, R262, R388). -/
inductive Hold where
  | fence (acq rel : Bool) (scope : Fin 5) (epochs : List (Fin 4 × Nat))
  | ways (v : BitVec 32)
  | wcfg (w : Fin 4) (v : Word)
  | tlbi (ids : List Nat)
  | dscinv
  | barrier
  deriving DecidableEq, Repr

/-! ### Data engines and render commands (R312, R330) -/

/-- The seven engine and render commands. -/
inductive EngOp where
  | copy | gather | iwalk | rast | resolve | rmarch | rclear
  deriving DecidableEq, Repr

/-- The progress of a render command on a bin that it has begun: the triangle and its record once read, and the fragments of it
that are done (R343); for RESOLVE and RCLEAR the pixels that are done. -/
structure BinProg where
  bin : Nat
  tri : Nat
  raw : Option (BitVec 384)
  pix : Nat
  deriving DecidableEq, Repr

/-- A row of GATHER or a non-zero of IWALK whose bursts are under way: its number, what its addresses are formed from (the
index, or the two coordinates), and the bursts that are done. -/
structure OpenUnit where
  num  : Nat
  i    : Nat
  j    : Nat
  done : List Nat
  deriving DecidableEq, Repr

/-- A command as a slot holds it: what it captured at issue, with the tiles that were pending then (none where a
re-acceptance takes every tile, R327) and the writes that it waits for; its place in the order of issue; the descriptors as
read; its progress: units begun (rows, non-zeros, rays), the units whose bursts are under way, the row search of IWALK, the
bursts or bins done, the bins begun; and the tokens that it will send. -/
structure Cmd where
  op     : EngOp
  fire   : Fire
  gang   : Nat
  ipc    : Word
  dva    : Word
  a1     : Word
  a2     : Word
  a4     : Word
  md     : BitVec 24
  port   : Option ChanRef
  snap   : Option (BitVec 128)
  after  : List Nat
  seq    : Nat
  desc   : BitVec 512
  pool   : BitVec 512
  unit   : Nat
  opened : List OpenUnit
  csr    : Option (Nat × Nat)
  done   : List Nat
  bins   : List BinProg
  toks   : List (ChanRef × Word)
  deriving DecidableEq, Repr

/-- The states of a slot (R317, R326): a command that has issued and is not accepted yet counts as running. -/
inductive SlotState where
  | free | issued | running | halted | token
  deriving DecidableEq, Repr

/-- A data-engine slot (R312, R326). `fault` is an engine fault that has not been delivered yet: its cause and its
trapval. -/
structure EngSlot where
  state   : SlotState
  kind    : Byte
  pending : BitVec 128
  held    : BitVec 128
  cursor  : BitVec 32
  cmd     : Option Cmd
  fault   : Option (Byte × Word)
  rslot   : Bool
  deriving DecidableEq, Repr

/-! ### A core -/

/-- A core (R9, R20, R31). -/
structure Core where
  s         : Vector Word 32
  p         : Vector Bool 8
  lc        : Vector (BitVec 32) 4
  lcl       : Vector (BitVec 32) 4
  v         : Vector (BitVec 32768) 32
  strip     : Vector (BitVec 4096) 32
  shp       : Vector Word 32
  acc       : Vector (BitVec 131072) 4
  m         : Vector (BitVec 8192) 8
  keep      : Vector (Vector Word 16) 8
  fpmode    : BitVec 7
  fpflags   : BitVec 5
  lfsr      : Word
  trapcause : Word
  trappc    : Word
  trapval   : Word
  heldFlags : BitVec 5
  ls        : List Host.Cell
  eng       : Vector EngSlot 8
  pc        : Word
  fire      : Option Fire
  starting  : Bool
  susp      : Option Susp
  hold      : Option Hold
  gang      : Option Nat
  gx        : Nat
  gy        : Nat
  first0    : Bool
  last      : Vector (Fin 8) 4
  rot       : Vector (Fin 16) 8
  exhausted : Vector Bool 8
  haloPend  : List HaloPend
  edges     : List (Fin 8 × Nat)
  l1        : List Line
  tlb       : List Page
  tlb2      : List Page
  cdesc     : List Desc
  edesc     : List Desc
  issueMark : Nat
  lastIssue : Nat
  readyMark : Vector (Option Nat) 8
  deriving DecidableEq, Repr

/-- A free slot with empty tile sets (R312). -/
def EngSlot.empty : EngSlot := ⟨.free, 0, 0, 0, 0, none, none, false⟩

/-- The registers and the local store of a core at reset (R9, R27), outside any gang. The contents of its TLBs, its L1
and its descriptor caches are empty. DESIGN CHOICE, log entry 5. -/
def Core.reset : Core where
  s         := .replicate 32 0
  p         := (Vector.replicate 8 false).set 7 true
  lc        := .replicate 4 0
  lcl       := .replicate 4 0
  v         := .replicate 32 0
  strip     := .replicate 32 0
  shp       := .replicate 32 0
  acc       := .replicate 4 0
  m         := (Vector.replicate 8 0).set 7 (BitVec.allOnes 8192)
  keep      := .replicate 8 (.replicate 16 0)
  fpmode    := 0
  fpflags   := 0
  lfsr      := 1
  trapcause := 0
  trappc    := 0
  trapval   := 0
  heldFlags := 0
  ls        := []
  eng       := .replicate 8 EngSlot.empty
  pc        := 0
  fire      := none
  starting  := false
  susp      := none
  hold      := none
  gang      := none
  gx        := 0
  gy        := 0
  first0    := false
  last      := .replicate 4 7
  rot       := .replicate 8 15
  exhausted := .replicate 8 false
  haloPend  := []
  edges     := []
  l1        := []
  tlb       := []
  tlb2      := []
  cdesc     := []
  edesc     := []
  issueMark := 0
  lastIssue := 0
  readyMark := .replicate 8 none

/-! ### Gangs -/

/-- An entry of the actor table (R53). -/
structure Actor where
  slot    : Fin 8
  prio    : Fin 4
  source  : Bool
  firstIn : Option (Fin 16)
  x0      : Nat
  y0      : Nat
  w       : Nat
  h       : Nat
  entry   : Nat
  deriving DecidableEq, Repr

/-- An entry of the channel table (R54). -/
structure Chan where
  prodAct   : Nat
  prodPort  : Fin 16
  consPort  : Fin 16
  consAct   : Nat
  slots     : Nat
  prodCount : Nat
  consCount : Nat
  payload   : Nat
  dx        : Int
  dy        : Int
  deriving DecidableEq, Repr

/-- What the dispatcher keeps of an image (R51, R52). -/
structure Image where
  rdepth : Nat
  lsize  : Nat
  trap   : Option Nat
  dusk   : Option Nat
  actors : List Actor
  chans  : List Chan
  lsoff  : Nat
  lssize : Nat
  deriving DecidableEq, Repr

/-- The fields of a launch tuple (R209). -/
structure Launch where
  w      : Nat
  h      : Nat
  part   : Bool
  sys    : Bool
  asid   : BitVec 16
  pri    : Byte
  image  : Word
  arg    : Word
  creg   : Word
  ctag   : Word
  live   : Nat
  cookie : Word
  deriving DecidableEq, Repr

/-- The three Mitten commands (R296). -/
inductive MOp where
  | mxpose | mxout | mseq
  deriving DecidableEq, Repr

/-- A Mitten command in a slice's list (R296, R300, R302): what it captured at issue, and the accesses that it waits for
(R268). `began` holds its descriptor from its start on (zero for MXPOSE and MXOUT), `cursor` counts the bodies or the
elements that are done (R307), `ended` says that only its completion is left, and `ways` holds the Mitten ways that its slice had
as it started (R298, R305). -/
structure MCmd where
  id    : Nat
  op    : MOp
  core  : CoreId
  fire  : Fire
  gang  : Nat
  ipc   : Word
  maddr : Word
  va    : Word
  cnt   : Word
  md    : BitVec 24
  port  : Option ChanRef
  token : Word
  after : List Nat
  began : Option (BitVec 512)
  cursor : Nat
  ended : Bool
  ways  : List Nat
  deriving DecidableEq, Repr

/-- An element of a reduction window inside the package, with its gang and its epoch (R389, R390). -/
structure WElem where
  share : Share
  gang  : Nat
  epoch : Nat
  deriving DecidableEq, Repr

/-- The partial sums of one epoch that stand together: of one package at its leaf, of one leaf at its spine, or of the
window on its way home (R390). -/
structure Batch where
  epoch  : Nat
  src    : Nat
  shares : List Share
  deriving DecidableEq, Repr

/-- Where a gang stands: on its quads, before or after Dusk; saved; or being killed. -/
inductive GPhase where
  | resident | dusk | saved | killing
  deriving DecidableEq, Repr

/-- What a dispatcher has told a gang on its quads: to stop and be saved, or to stop and move to another origin; with the
tick of the order, at which the watchdog counts stop (R212, R216, R365, R367). -/
inductive Order where
  | save (since : Nat)
  | move (qx qy : Nat) (since : Nat)
  deriving DecidableEq, Repr

/-- A gang (R194, R204, R213). While it is saved, `cores` holds its cores in row order, `scratch` and `mcmds` hold by quad
what its scratch and Mitten ways and its Mitten commands were, `resends` its window elements (R391), and `image` the
slices whose reserve ways hold it, and `resvs` the reserves that its slices had as it was saved (R369). `onQuads` says whether its
quads are its own, and `dusked` whether it has reached Dusk. -/
structure Gang where
  gid      : Nat
  launch   : Launch
  img      : Image
  phase    : GPhase
  qx       : Nat
  qy       : Nat
  onQuads  : Bool
  dusked   : Bool
  order    : Option Order
  ways     : BitVec 32
  census   : Nat
  insts    : List Inst
  edges    : List Edge
  barCount : Option Nat
  barIn    : List (Nat × Nat)
  doom     : Option Doom
  limit    : Nat
  placedAt : Nat
  waitFrom : Nat
  idleMark : Nat
  cores    : List Core
  scratch  : List (List Host.Cell)
  mcmds    : List (List MCmd)
  resends  : List (Fin 4 × WElem)
  image    : List SliceId
  resvs    : List (Fin 5)
  deriving DecidableEq, Repr

/-! ### Slices -/

/-- Who made a Cloche request that parked: a core, by its gang and its place in it; the host, by its vector and reqid;
or a dispatcher with a completion (R280, R290, R291). -/
inductive Asker where
  | core (gang : Nat) (gx gy : Nat) (port : Option ChanRef) (ipc : Word)
  | host (vector : BitVec 16) (reqid : BitVec 32)
  | dispatcher (i : Nat)
  deriving DecidableEq, Repr

/-- The kinds of parked request (R280). -/
inductive PKind where
  | take | copy | dep
  deriving DecidableEq, Repr

/-- An entry of a slice's parked-request table: `body` is its pattern or tuple, `got` the tuple that satisfied it and
that is still to be delivered; `direct` marks a request that found its tuple on arrival, which holds no entry of the
table and is counted by no kill (R280, R282, R285, R290). DESIGN CHOICE, log entry 113. -/
structure Park where
  id     : Nat
  region : Nat
  kind   : PKind
  body   : BitVec 512
  dest   : Nat
  desc   : BitVec 512
  asker  : Asker
  got    : Option (BitVec 512)
  direct : Bool
  deriving DecidableEq, Repr

/-- A stored tuple: its region (the descriptor's physical address), its deposit sequence number, the tick of its deposit,
from which a launch tuple ages (R215, R279), the place of the Cloche ways in which it stands, if any (16,384 a way, way by way), and
the step that touched it last (R277). -/
structure Stored where
  region : Nat
  tuple  : BitVec 512
  seq    : Nat
  since  : Nat
  chip   : Option (Fin 262144)
  touch  : Nat
  deriving DecidableEq, Repr

/-- A slice: its tuple store, its parked requests, the contents of its scratch and Mitten ways (way, then byte), its
quad TLB, its Mitten commands and its error log (R233, R236, R277, R280, R296). -/
structure Slice where
  seq    : Nat
  tuples : List Stored
  parked : List Park
  way    : List Host.Cell
  tlb    : List Page
  mcmds  : List MCmd
  errors : Nat
  deriving DecidableEq, Repr

/-- An empty slice. -/
def Slice.reset : Slice := ⟨0, [], [], [], [], [], 0⟩

/-- A slice of another package, where a region of this package's requests has its home (R271, R381).
DESIGN CHOICE, log entry 65. -/
structure FarSlice where
  pkg : Nat
  q   : SliceId
  sl  : Slice
  deriving DecidableEq, Repr

/-! ### Dispatchers, host, fabric, management -/

/-- The scheduling settings of R214. -/
structure Sched where
  margin     : Byte
  aging      : Nat
  cap        : Byte
  compaction : Bool
  deriving DecidableEq, Repr

/-- The head: a launch tuple that a dispatcher took and checked, with its image, the tick of its deposit, the effective priority
that it had when the dispatcher looked last, the origin that a pre-emption decision chose for it, and whether the dispatcher
waits after a decision that found none (R208, R215, R216). -/
structure Head where
  tuple   : BitVec 512
  launch  : Launch
  img     : Image
  since   : Nat
  aged    : Nat
  rect    : Option (Nat × Nat)
  waits   : Bool
  deriving DecidableEq, Repr

/-- A completion on its way (R218): its dispatcher, the tuple, the region's VA and the gang's ASID, and whether its home answered
busy. -/
structure Completion where
  id    : Nat
  die   : Fin 4
  tuple : BitVec 512
  creg  : Word
  asid  : BitVec 16
  busy  : Bool
  deriving DecidableEq, Repr

/-- A reduction-window slot: its four control registers (R388), the participations counted in the current epoch, the
elements still in the package, the epochs that have closed here and are not folded yet, the partial sums at this
package's leaf, at the spine and on their way home, the epochs whose sums the home has performed, and the first epoch
that is not done (R390). -/
structure Win where
  cfg    : Word
  range  : Word
  mem    : Word
  parts  : BitVec 10
  epoch  : Nat
  count  : Nat
  elems  : List WElem
  closed : List Nat
  leaf   : List Batch
  spine  : List Batch
  home   : List Batch
  merged : List Nat
  doneTo : Nat
  deriving DecidableEq, Repr

/-- What the package sends to its host: the answer to a Cloche request, a link interrupt, the data of a read, an
acknowledgement, an error, the interrupt of a dump; and on the management bus the report of a failed self-check and a
telemetry answer (R375, R384, R385, R395, R397). -/
inductive HostMsg where
  | answer (reqid : BitVec 32) (code : Fin 8)
  | interrupt (vector : BitVec 16) (reqid : BitVec 32)
  | data (bytes : List Byte)
  | ack
  | error
  | dump
  | selfCheckFailed
  | telemetry (errors : Nat) (dropped : List Word)
  deriving DecidableEq, Repr

/-- A leaky bucket of a mesh port: its control word and its credit, in 1/256 flit (R219, R220). A port that is not listed
holds the reset word. -/
structure Bucket where
  port   : Nat
  word   : Word
  credit : Nat
  deriving DecidableEq, Repr

/-- What an agenda may drop without any instruction: an L1 line or a TLB entry by replacement, a cached descriptor, or a
superblock from the slice that holds it (R229, R231, R234, R273, R329). DESIGN CHOICE, log entry 46. -/
inductive Evict where
  | l1 (c : CoreId) (i : Nat)
  | tlb (c : CoreId) (i : Nat)
  | quadTlb (q : SliceId) (i : Nat)
  | cdesc (c : CoreId) (i : Nat)
  | edesc (c : CoreId) (i : Nat)
  | tlb2 (c : CoreId) (i : Nat)
  | renderDesc (d : Fin 4) (i : Nat)
  | dispDesc (d : Fin 4) (i : Nat)
  | hostDesc (i : Nat)
  | superblock (sb : Nat)
  deriving DecidableEq, Repr

/-- Where a memory error stands: an 8-byte word of memory, one of a slice's scratch and Mitten ways, or one of a core's local
store (R236, R308). -/
inductive Site where
  | mem (word : Nat)
  | way (q : SliceId) (word : Nat)
  | ls (c : CoreId) (word : Nat)
  deriving DecidableEq, Repr

/-- A memory error: its place, and whether it is uncorrectable (R236, R237). DESIGN CHOICE, log entry 43. -/
structure Upset where
  site : Site
  hard : Bool
  deriving DecidableEq, Repr

/-- What another package of the pod does to what this package shares with it: it writes bytes under a key slot, deposits a
tuple in a region, or takes one that matches a pattern. DESIGN CHOICE, log entry 65. -/
inductive Remote where
  | write (pa : Nat) (key : Fin 128) (data : List Byte)
  | deposit (region : Nat) (tuple : BitVec 512)
  | take (region : Nat) (pattern : BitVec 512)
  deriving DecidableEq, Repr

/-- Who moves next: a core, a step of the machine, a replacement, a memory error from outside, Gauntlet, which deposits a
launch tuple in the system LAUNCH region (R207, R373), or another package. DESIGN CHOICE, log entry 1.
DESIGN CHOICE, log entry 43. -/
inductive Turn where
  | core (c : CoreId)
  | event (i : Instr)
  | evict (e : Evict)
  | upset (u : Upset)
  | gauntlet (t : BitVec 512)
  | remote (r : Remote)
  deriving DecidableEq, Repr

/-- The state of a package. `storeErrs` counts the uncorrectable errors that tuples met on their way from a Cloche way to the
backing area, and `backErrs` holds the words of memory in which a slice met one as it wrote lines back: their package error is still
to come (R237, R240, R277). -/
structure State where
  cores     : Vector Core 512
  slices    : Vector Slice 128
  far       : List FarSlice
  mem       : List Host.Cell
  upsets    : List Upset
  lineKeys  : List (Nat × Fin 128)
  moved     : List (Nat × SliceId × Nat)
  near      : List Nat
  movCount  : List (Nat × SliceId × Nat)
  gangs     : List Gang
  flight    : List Access
  nextId    : Nat
  nextGang  : Nat
  tick      : Nat
  steps     : Nat
  cur       : CoreId
  agenda    : List Turn
  powered   : Bool
  dawned    : Bool
  accepting : Bool
  boot      : Option DawnBoot
  pkg       : BitVec 12
  dawns     : Nat
  resv      : Fin 5
  ptroot    : Word
  walkctl   : Bool
  keys      : BitVec 128
  xts       : List (Fin 128 × XtsKey)
  dieTurn   : Fin 4
  head      : Option Head
  schedSet  : Sched
  sched     : Sched
  wdog      : Nat
  comps     : List Completion
  dropped   : List Word
  wins      : Vector Win 4
  buckets   : List Bucket
  hostOut   : List HostMsg
  linksDown : List FabricLink
  deadSw    : List FabricSwitch
  glarikUp  : Bool
  dumpSeq   : Nat
  refusals  : List BonnetAccess
  busPkg    : BitVec 12
  rslots    : Vector Nat 4
  rdescs    : Vector (List Desc) 4
  ddescs    : Vector (List Desc) 4
  hdescs    : List Desc
  storeErrs : Nat
  backErrs  : List (SliceId × Nat)
  deriving DecidableEq, Repr

/-- A window slot at reset: every field 0 (R388). -/
def Win.reset : Win := ⟨0, 0, 0, 0, 0, 0, [], [], [], [], [], [], 0⟩

/-- The scheduling settings' defaults (R214). -/
def Sched.reset : Sched := ⟨16, 0, 255, true⟩

/-- The package right after reset: powered, before Dawn (R27, R31, R214, R366, R388, R395). No memory is listed, no gang is
placed, and no agenda is given. DEDUCED, log entry 3; DESIGN CHOICE where the spec gives no value, log entry 5. -/
def State.reset : State where
  cores     := .replicate 512 Core.reset
  slices    := .replicate 128 Slice.reset
  far       := []
  mem       := []
  upsets    := []
  lineKeys  := []
  moved     := []
  near      := []
  movCount  := []
  gangs     := []
  flight    := []
  nextId    := 0
  nextGang  := 1
  tick      := 0
  steps     := 0
  cur       := 0
  agenda    := []
  powered   := true
  dawned    := false
  accepting := false
  boot      := none
  pkg       := 0
  dawns     := 0
  resv      := 0
  ptroot    := 0
  walkctl   := true
  keys      := 1
  xts       := []
  dieTurn   := 0
  head      := none
  schedSet  := Sched.reset
  sched     := Sched.reset
  wdog      := 1100000000
  comps     := []
  dropped   := []
  wins      := .replicate 4 Win.reset
  buckets   := []
  hostOut   := []
  linksDown := []
  deadSw    := []
  glarikUp  := true
  dumpSeq   := 0
  refusals  := []
  busPkg    := 0
  rslots    := .replicate 4 0
  rdescs    := .replicate 4 []
  ddescs    := .replicate 4 []
  hdescs    := []
  storeErrs := 0
  backErrs  := []

/-! ### Outcomes -/

/-- Why the machine stops. `powerOff`: raised by `step` when the package has been powered down after a thermal
shutdown (R396); the spec gives such a package no further behaviour. Safe. DESIGN CHOICE, log entry 66. -/
inductive Fault where
  | powerOff
  deriving DecidableEq, Repr

/-- Why a step is refused. `notModelled`: raised by an arm of `exec` that has no meaning yet. Safe. `internalScan`:
raised by BOUNDARY_SCAN where the access is to the internal scan chains, whose effect the spec does not give (R397).
Safe. -/
inductive Refusal where
  | notModelled (mnemonic : String)
  | internalScan
  deriving DecidableEq, Repr

/-- The outcome of a step of this machine. -/
abbrev Out := Host.Outcome State Fault Refusal

end Sys2Proof.Machine
end

