-- ==== Sys2Proof/Machine/Ops.lean ====
section
/-!
DEFINITION. Sys2Proof/Machine/Ops.lean: the named operations over memory, registers, gangs and firings: reading and
writing one byte and several, the register accessors with the constant registers of R10, who waits for what (R7, R8,
R21), taking a trap (R33, R356, R357) and returning from one, and the checks that every instruction makes at issue
(R61, R64, R72).
-/

namespace Sys2Proof.Machine

open Sys2Proof

/-! ### Memory in canonical form

A memory is a list of cells with rising addresses and no zero byte; an address that is not listed reads as zero
(R26, R395; DESIGN CHOICE for the memory that the spec gives no contents, log entry 4). -/

/-- The byte at an address. DESIGN CHOICE, log entry 4. -/
def memRead : List Host.Cell → Nat → Byte
  | [], _ => 0
  | (k, b) :: r, a => if k = a then b else memRead r a

/-- Writing one byte; a zero byte is not listed. -/
def memWrite : List Host.Cell → Nat → Byte → List Host.Cell
  | [], a, b => if b = 0 then [] else [(a, b)]
  | (k, c) :: r, a, b =>
    if a < k then (if b = 0 then (k, c) :: r else (a, b) :: (k, c) :: r)
    else if a = k then (if b = 0 then r else (a, b) :: r)
    else (k, c) :: memWrite r a b

/-- The canonical form: addresses strictly rising, no zero byte. DESIGN CHOICE, log entry 4. -/
def Memory.wf (l : List Host.Cell) : Bool :=
  decide (l.Pairwise fun x y => x.1 < y.1) && l.all fun x => x.2 != 0

/-- The `n` bytes from `a` on as a little-endian number (R3). -/
def memReadN (l : List Host.Cell) (a : Nat) : Nat → Nat
  | 0 => 0
  | n + 1 => (memRead l a).toNat + 256 * memReadN l (a + 1) n

/-- Writing the low `n` bytes of a number from `a` on, little-endian (R3). -/
def memWriteN (l : List Host.Cell) (a x : Nat) : Nat → List Host.Cell
  | 0 => l
  | n + 1 => memWriteN (memWrite l a (BitVec.ofNat 8 x)) (a + 1) (x / 256) n

/-- The bytes from `a` on, the lowest address first. -/
def memBytes (l : List Host.Cell) (a n : Nat) : List Byte := (List.range n).map fun i => memRead l (a + i)

/-- Writing a list of bytes from `a` on. -/
def memWriteBytes (l : List Host.Cell) (a : Nat) : List Byte → List Host.Cell
  | [] => l
  | b :: r => memWriteBytes (memWrite l a b) (a + 1) r

/-- Dropping every cell in `[lo, hi)`, so that the range reads as zero. -/
def memClear (l : List Host.Cell) (lo hi : Nat) : List Host.Cell := l.filter fun x => !(lo ≤ x.1 && x.1 < hi)

/-! ### Places of cores and slices (R2) -/

/-- The x of a core. -/
def CoreX (c : CoreId) : Nat := c.val % 32
/-- The y of a core. -/
def CoreY (c : CoreId) : Nat := c.val / 32
/-- The core at a place. -/
def coreAt (x y : Nat) : CoreId := Fin.ofNat 512 (y % 16 * 32 + x % 32)
/-- The die of a core. -/
def coreDie (c : CoreId) : Fin 4 := Fin.ofNat 4 (CoreX c / 16 + 2 * (CoreY c / 8))
/-- The value of coreid (R31): x in 7:0, y in 15:8, die in 17:16. -/
def coreIdVal (c : CoreId) : Nat := CoreX c + 256 * CoreY c + 65536 * (coreDie c).val
/-- The slice beneath a core's quad. -/
def sliceOf (c : CoreId) : SliceId := Fin.ofNat 128 (CoreY c / 2 * 16 + CoreX c / 2)
/-- The slice beneath a quad. -/
def sliceAt (qx qy : Nat) : SliceId := Fin.ofNat 128 (qy % 8 * 16 + qx % 16)

/-- Is an address in the slice window (R223, R241)? -/
def inWindow (va : Nat) : Bool := decide (0x00FFFF8000000000 ≤ va) && decide (va < 2 ^ 56)

/-! ### Registers (R9, R10) -/

/-- A scalar register; s31 reads as zero. -/
def Core.getS (k : Core) (i : Fin 32) : Word := if i = 31 then 0 else k.s[i]
/-- Writing a scalar register; a write to s31 is discarded. -/
def Core.setS (k : Core) (i : Fin 32) (x : Word) : Core := if i = 31 then k else { k with s := k.s.set i x }
/-- A predicate; p7 reads as 1. -/
def Core.getP (k : Core) (i : Fin 8) : Bool := if i = 7 then true else k.p[i]
/-- Writing a predicate; a write to p7 is discarded. -/
def Core.setP (k : Core) (i : Fin 8) (x : Bool) : Core := if i = 7 then k else { k with p := k.p.set i x }
/-- A mask register; every bit of m7 reads as 1. -/
def Core.getM (k : Core) (i : Fin 8) : BitVec 8192 := if i = 7 then BitVec.allOnes 8192 else k.m[i]
/-- Writing a mask register; a write to m7 is discarded. -/
def Core.setM (k : Core) (i : Fin 8) (x : BitVec 8192) : Core := if i = 7 then k else { k with m := k.m.set i x }
/-- A keep register of a bank (R18). -/
def Core.getK (k : Core) (slot : Fin 8) (i : Fin 16) : Word := (k.keep[slot])[i]
/-- Writing a keep register of a bank. -/
def Core.setK (k : Core) (slot : Fin 8) (i : Fin 16) (x : Word) : Core :=
  { k with keep := k.keep.set slot ((k.keep[slot]).set i x) }

/-- The slot of the actor whose firing runs; the slot of an idle core counts as 0. -/
def Core.slot (k : Core) : Fin 8 := match k.fire with
  | some f => f.slot
  | none => 0

/-- Does the trap actor's firing run (R29, R360)? -/
def Core.inTrap (k : Core) : Bool := match k.fire with
  | some f => f.kind == .trap
  | none => false

/-- The 64-bit value of a scalar or keep register, or of the immediate; any other operand reads as zero. -/
def Core.word (k : Core) (o : Operand) (imm : Word) : Word :=
  match o with
  | .s i => k.getS i
  | .k i => k.getK k.slot i
  | .imm => imm
  | _ => 0

/-- Writing a scalar or keep register of the bank `slot`, or the low bit to a predicate; any other operand takes no
write. -/
def Core.setWordAt (k : Core) (slot : Fin 8) (o : Operand) (x : Word) : Core :=
  match o with
  | .s i => k.setS i x
  | .k i => k.setK slot i x
  | .p i => k.setP i (x.getLsbD 0)
  | _ => k

/-- Writing a destination of the running firing. -/
def Core.setWord (k : Core) (o : Operand) (x : Word) : Core := k.setWordAt k.slot o x

/-- The value of a predicate operand. -/
def Core.pred (k : Core) (o : Operand) : Bool :=
  match o with
  | .p i => k.getP i
  | _ => false

/-- Writing a predicate operand. -/
def Core.setPred (k : Core) (o : Operand) (x : Bool) : Core :=
  match o with
  | .p i => k.setP i x
  | _ => k

/-- The value of a mask operand. -/
def Core.mask (k : Core) (o : Operand) : BitVec 8192 :=
  match o with
  | .m i => k.getM i
  | _ => 0

/-- Writing a mask operand. -/
def Core.setMask (k : Core) (o : Operand) (x : BitVec 8192) : Core :=
  match o with
  | .m i => k.setM i x
  | _ => k

/-- A function applied to each entry of a vector. -/
def mapVec {α β : Type} {n : Nat} (f : α → β) (v : Vector α n) : Vector β n := Vector.ofFn fun i => f v[i]

/-- An entry of a vector under `mapVec`. -/
theorem mapVec_get {α β : Type} {n : Nat} (f : α → β) (v : Vector α n) (i : Nat) (h : i < n) : (mapVec f v)[i] = f v[i] := by
  simp [mapVec]

/-! ### The state around the core that moves -/

/-- The core whose turn it is. -/
def State.me (s : State) : Core := s.cores[s.cur]
/-- A core. -/
def State.core (s : State) (c : CoreId) : Core := s.cores[c]
/-- Replacing a core. -/
def State.setCore (s : State) (c : CoreId) (k : Core) : State := { s with cores := s.cores.set c k }
/-- Replacing the core whose turn it is. -/
def State.setMe (s : State) (k : Core) : State := s.setCore s.cur k
/-- A slice. -/
def State.slice (s : State) (q : SliceId) : Slice := s.slices[q]
/-- Replacing a slice. -/
def State.setSlice (s : State) (q : SliceId) (x : Slice) : State := { s with slices := s.slices.set q x }

/-- The gang of a gangid. -/
def State.gangOf (s : State) (g : Nat) : Option Gang := s.gangs.find? (·.gid == g)
/-- Replacing the gang of a gangid. -/
def State.setGang (s : State) (g : Gang) : State :=
  { s with gangs := s.gangs.map fun x => if x.gid = g.gid then g else x }
/-- The gang of a core. -/
def State.gangAt (s : State) (k : Core) : Option Gang :=
  match k.gang with
  | some g => s.gangOf g
  | none => none

/-- The census of a gang raised by `n` (R204). -/
def State.raise (s : State) (g n : Nat) : State :=
  match s.gangOf g with
  | some x => s.setGang { x with census := x.census + n }
  | none => s

/-- The census of a gang lowered by `n` (R204). -/
def State.lower (s : State) (g n : Nat) : State :=
  match s.gangOf g with
  | some x => s.setGang { x with census := x.census - n }
  | none => s

/-- The idle count of a gang begins anew: a command of it has stopped running, or a parked request of it has ended
(R365). -/
def State.stampIdle (s : State) (g : Nat) : State :=
  match s.gangOf g with
  | some x => s.setGang { x with idleMark := s.tick }
  | none => s

/-- The core of a gang at a place in it (R194). -/
def Gang.coreAt (g : Gang) (gx gy : Nat) : CoreId := Machine.coreAt (2 * g.qx + gx) (2 * g.qy + gy)

/-- The slices beneath a gang's quads. -/
def Gang.slices (g : Gang) : List SliceId :=
  (List.range g.launch.h).flatMap fun y => (List.range g.launch.w).map fun x => sliceAt (g.qx + x) (g.qy + y)

/-- Is a place inside an actor's rectangle? -/
def Actor.covers (a : Actor) (gx gy : Nat) : Bool :=
  a.x0 ≤ gx && gx < a.x0 + a.w && a.y0 ≤ gy && gy < a.y0 + a.h

/-- The actors placed on a core of the gang, with their index in the actor table. -/
def Gang.actorsAt (g : Gang) (gx gy : Nat) : List (Nat × Actor) :=
  (g.img.actors.zipIdx.map fun x => (x.2, x.1)).filter fun x => x.2.covers gx gy

/-- The actor in a slot of a core of the gang, with its index. -/
def Gang.actorIn (g : Gang) (gx gy : Nat) (slot : Fin 8) : Option (Nat × Actor) :=
  (g.actorsAt gx gy).find? fun x => x.2.slot == slot

/-- The trap actor on a core of the gang (R45, R357). -/
def Gang.trapAt (g : Gang) (gx gy : Nat) : Option Actor :=
  match g.img.trap with
  | some i => match g.img.actors[i]? with
    | some a => if a.covers gx gy then some a else none
    | none => none
  | none => none

/-- The ways of a slice that its fields in ways do not govern: the reserve, and while a save image stands there at least
three ways (R239, R369). -/
def State.resvAt (s : State) (q : SliceId) : Fin 5 := if s.gangs.any (·.image.contains q) && decide (s.resv.val < 3) then 3 else s.resv

/-! ### Ending a gang -/

/-- Does a cause go before one that reached the dispatcher in the same cycle: by its code, then by its core (R363)? -/
def Doom.before (d e : Doom) : Bool :=
  decide (d.cause.toNat < e.cause.toNat) || (d.cause == e.cause && decide (d.fcore.toNat < e.fcore.toNat))

/-- Recording what ends a gang: the first cause is kept, and of causes in one cycle the one that goes before (R363), with the
census that stands now (R364). The cores of the gang issue nothing from here on. -/
def State.doom (s : State) (g : Nat) (d : Doom) : State :=
  match s.gangOf g with
  | some x =>
    let new := s.setGang { x with doom := some { d with census := x.census, tick := s.tick } }
    match x.doom with
    | some e => if e.tick = s.tick ∧ x.phase ≠ .killing ∧ d.before e = true then new else s
    | none => new
  | none => s

/-- Status codes of the completion tuple (R218). -/
def stOK : Byte := 0
/-- BADIMAGE. -/
def stBadImage : Byte := 1
/-- BADLAUNCH. -/
def stBadLaunch : Byte := 2
/-- REFUSED. -/
def stRefused : Byte := 3
/-- FAULT. -/
def stFault : Byte := 4
/-- KILL. -/
def stKill : Byte := 5
/-- LINK. -/
def stLink : Byte := 6
/-- PKGERR. -/
def stPkgErr : Byte := 7

/-- Cause codes of R355. -/
def cILLOP : Byte := 1
/-- PRIV. -/
def cPRIV : Byte := 2
/-- CHAN. -/
def cCHAN : Byte := 3
/-- ILLFMT. -/
def cILLFMT : Byte := 4
/-- SHAPE. -/
def cSHAPE : Byte := 5
/-- ALIGN. -/
def cALIGN : Byte := 6
/-- PAYLD. -/
def cPAYLD : Byte := 7
/-- BRK. -/
def cBRK : Byte := 8
/-- COPYF. -/
def cCOPYF : Byte := 16
/-- POOLEX. -/
def cPOOLEX : Byte := 17
/-- STABLE. -/
def cSTABLE : Byte := 18
/-- RDEPTH. -/
def cRDEPTH : Byte := 19
/-- XLATE. -/
def cXLATE : Byte := 32
/-- PROT. -/
def cPROT : Byte := 33
/-- SCRX. -/
def cSCRX : Byte := 34
/-- ECCU. -/
def cECCU : Byte := 35
/-- CLOCHE. -/
def cCLOCHE : Byte := 36
/-- WDOG. -/
def cWDOG : Byte := 37

/-- A fatal fault of an access: status FAULT with its cause, the VA of its instruction and the address (R362). -/
def State.fatal (s : State) (g : Nat) (cause : Byte) (fpc faddr : Word) (c : CoreId) : State :=
  s.doom g ⟨stFault, cause, fpc, faddr, BitVec.ofNat 32 (coreIdVal c), 0, 0⟩

/-! ### Traps (R33, R356, R357, R358) -/

/-- The trap registers of a core (R356). -/
def Core.setTrapRegs (k : Core) (cause : Word) (pc val : Word) : Core :=
  { k with trapcause := cause, trappc := pc, trapval := val }

/-- Suspending the firing of a core at `pc` and firing the gang's trap actor there. The trap actor's entry state is the
register file as it stands (R25); its first instruction issues after TRAP_ACTOR_START. The issue count of the core goes on
where a firing ran, and starts where none did (R365). -/
def Core.fireTrap (k : Core) (a : Actor) (image : Word) (fid tick : Nat) : Core :=
  { k with
    issueMark := if k.fire.isSome then k.issueMark else tick
    susp := k.fire.map fun f => ⟨f, k.pc⟩
    fire := some ⟨a.slot, .trap, fid⟩
    pc := image + BitVec.ofNat 64 a.entry
    starting := true }

/-- Taking a precise trap on core `c` (R33, R357): the trap registers are written, the firing is suspended and the
trap actor fires. Inside the trap actor, or in a gang without one, the trap ends the gang with status FAULT (R358). -/
def State.takeTrap (s : State) (c : CoreId) (cause : Byte) (val : Word) : State :=
  let k := (s.core c).setTrapRegs (cause.zeroExtend 64) (s.core c).pc val
  match s.gangAt k with
  | none => s.setCore c k
  | some g =>
    match k.inTrap, g.trapAt k.gx k.gy with
    | false, some a => { s.setCore c (k.fireTrap a g.launch.image s.nextId s.tick) with nextId := s.nextId + 1 }
    | _, _ => (s.setCore c k).fatal g.gid cause k.pc val c

/-- The end of the trap actor's firing: the suspended firing, if any, continues at `pc` (R360). -/
def Core.resume (k : Core) (pc : Word) : Core :=
  match k.susp with
  | some f => { k with fire := some f.fire, pc := pc, susp := none }
  | none => { k with fire := none }

/-! ### Waiting (R7, R8, R21, R64) -/

/-- The register that an access writes when its value arrives. -/
def Req.dest : Req → Operand
  | .load d _ _ => d
  | .atom _ _ _ _ d => d
  | .rld d _ => d
  | .ratom _ _ _ _ d => d
  | .cloche d _ _ => d
  | _ => .none

/-- Is the operand a constant register, which no access leaves pending (R10)? -/
def Operand.isConst : Operand → Bool
  | .s i => i == 31
  | .p i => i == 7
  | _ => false

/-- Does the access `a` leave register `o` of the firing's slot pending on core `c`? -/
def Access.holds (a : Access) (c : CoreId) (slot : Fin 8) (o : Operand) : Bool :=
  a.core == c && o != .none && !Operand.isConst o && a.req.dest == o && (match o with
    | .k _ => a.fire.slot == slot
    | _ => true)

/-- Is a register of the core whose turn it is still to be written by an access or by a HALO edge? A register that an
instruction names for its shape alone counts too. DEDUCED, log entry 78. -/
def State.regPending (s : State) (o : Operand) : Bool :=
  s.flight.any (·.holds s.cur s.me.slot o) || (match o with
    | .v i => s.me.haloPend.any (·.dst == i)
    | _ => false)

/-- A request whose value goes to the constant register: its own destination is written later in program order. -/
def Req.discard : Req → Req
  | .load _ t ro => .load (.s 31) t ro
  | .atom op t v cmp _ => .atom op t v cmp (.s 31)
  | .rld _ t => .rld (.s 31) t
  | .ratom op t v cmp _ => .ratom op t v cmp (.s 31)
  | .cloche _ q d => .cloche (.s 31) q d
  | r => r

/-- A firing that enters a core writes s0; a value that an earlier firing still waits for there is then of no effect (R7,
R25). DEDUCED, log entry 63. -/
def State.dropS0 (s : State) (c : CoreId) : State :=
  { s with flight := s.flight.map fun a => if a.holds c 0 (.s 0) then { a with req := a.req.discard } else a }

/-- The engine-owned tiles of a core, one bit each (R21, R312). -/
def Core.tiles (k : Core) : BitVec 128 := k.eng.foldl (fun acc e => acc ||| e.pending ||| e.held) 0

/-- The tiles that the `n` bytes from `a` on touch. -/
def tileRange (a n : Nat) : BitVec 128 :=
  if n = 0 then 0 else BitVec.ofNat 128 ((2 ^ ((a + n - 1) / 4096 - a / 4096 + 1) - 1) * 2 ^ (a / 4096))

/-- Does a range of the local store touch an engine-owned tile (R21)? -/
def Core.owned (k : Core) (a n : Nat) : Bool := k.tiles &&& tileRange a n != 0

/-- The 64 local-store bytes that a request will write when its answer returns: those of TAKE and CPY (R285). -/
def Req.lsDest : Req → Option Nat
  | .cloche _ (.take _ d) _ => some d
  | .cloche _ (.cpy _ d) _ => some d
  | _ => none

/-- Are some bytes of the core whose turn it is still to be written by a TAKE or CPY that is under way, of whichever firing
(R7, R33, R285)? -/
def State.lsPending (s : State) (a n : Nat) : Bool :=
  s.flight.any fun x => x.core == s.cur && (match x.req.lsDest with
    | some d => decide (d < a + n) && decide (a < d + 64)
    | none => false)

/-- Must a local-store access of the core whose turn it is wait: for an engine-owned tile, or for the bytes of a TAKE
or CPY that is under way (R21, R285)? -/
def State.lsBusy (s : State) (a n : Nat) : Bool := s.me.owned a n || s.lsPending a n

/-- Is the request a remote local-store access (R196)? -/
def Req.isRemote : Req → Bool
  | .rld _ _ | .rst _ _ | .ratom _ _ _ _ _ => true
  | _ => false

/-- Does drain wait for the access, and a release (R64, R259, R269)? Every load, atomic, store, RED, RST, CFLUSH and
non-parking Cloche request of the firing; PREF and parked requests are not waited for. -/
def Req.drains : Req → Bool
  | .pref _ => false
  | .cloche _ (.takep _ _ _) _ | .cloche _ (.cpyp _ _ _) _ | .cloche _ (.depw _ _) _ => false
  | .rld _ _ | .ratom _ _ _ _ _ => false
  | _ => true

/-- The accesses of a firing that are still under way. -/
def State.ofFiring (s : State) (fid : Nat) : List Access := s.flight.filter (·.fire.fid == fid)

/-- The number of the running firing; 0 when none runs. -/
def Core.fid (k : Core) : Nat := match k.fire with
  | some f => f.fid
  | none => 0

/-! ### Memory errors (R236, R237) -/

/-- The words that the `n` bytes from `a` on touch. -/
def wordsOf (a n : Nat) : List Nat :=
  if n = 0 then [] else (List.range ((a + n - 1) / 8 - a / 8 + 1)).map fun i => a / 8 + i

/-- Does an uncorrectable error stand in one of some places? -/
def State.hardAt (s : State) (l : List Site) : Bool := s.upsets.any fun u => u.hard && l.contains u.site

/-- The single-bit errors in the places that hold for `p` are corrected, and counted in the error log of a slice of this package,
where one of its slices is their home. -/
def State.correctIf (s : State) (q : Option SliceId) (p : Site → Bool) : State :=
  let n := (s.upsets.filter fun u => (!u.hard) && p u.site).length
  if n = 0 then s
  else
    let t : State := { s with upsets := s.upsets.filter fun u => u.hard || !p u.site }
    match q with
    | some q => t.setSlice q { s.slice q with errors := (s.slice q).errors + n }
    | none => t

/-- Single-bit errors in some places are corrected and counted in the error log of their home. -/
def State.correct (s : State) (q : Option SliceId) (l : List Site) : State := s.correctIf q l.contains

/-- Is a place a word of a core's local store that some of its bytes touch? -/
def Site.inLs (c : CoreId) (a n : Nat) : Site → Bool
  | .ls d w => d == c && decide (0 < n) && decide (a / 8 ≤ w) && decide (w ≤ (a + n - 1) / 8)
  | _ => false

/-- The address of an uncorrectable error in `n` bytes of a core's local store. -/
def State.lsHard (s : State) (c : CoreId) (a n : Nat) : Option Word :=
  (s.upsets.find? fun u => u.hard && u.site.inLs c a n).map fun u => match u.site with
    | .ls _ w => BitVec.ofNat 64 (8 * w)
    | _ => 0

/-- An access to a core's local store corrects the single-bit errors that it meets. -/
def State.lsCorrect (s : State) (c : CoreId) (a n : Nat) : State := s.correctIf (some (sliceOf c)) (Site.inLs c a n)

/-- Words of a core's local store that are written whole hold no error. -/
def State.lsRewrite (s : State) (c : CoreId) (a n : Nat) : State := { s with upsets := s.upsets.filter fun u => !u.site.inLs c a n }

/-- Has every global-memory operation of the firing completed (R64)? -/
def State.drained (s : State) : Bool := !(s.ofFiring s.me.fid).any (·.req.drains)

/-! ### Mesh ports (R219, R220) -/

/-- The depth of a control word. -/
def bucketDepth (v : Word) : Nat := v.toNat % 2 ^ 16
/-- The rate of a control word. -/
def bucketRate (v : Word) : Nat := v.toNat / 2 ^ 16 % 2 ^ 16
/-- Does a control word limit its port? -/
def bucketEn (v : Word) : Bool := v.getLsbD 32

/-- The number of a core's port. DESIGN CHOICE, log entry 13. -/
def corePort (c : CoreId) : Nat := c.val
/-- The number of a data engine's port. DESIGN CHOICE, log entry 13. -/
def enginePort (c : CoreId) : Nat := 512 + c.val
/-- The number of a slice's port. DESIGN CHOICE, log entry 13. -/
def slicePort (q : SliceId) : Nat := 1024 + q.val
/-- The number of a render engine's port. DESIGN CHOICE, log entry 13. -/
def renderPort (d : Fin 4) : Nat := 1152 + d.val
/-- The number of the port at which the Oluthen link of a rail puts flits into the mesh. DESIGN CHOICE, log entry 13. -/
def railPort (r : Nat) : Nat := 1156 + r % 16
/-- The number of the Glarik link's port. DESIGN CHOICE, log entry 13. -/
def glarikPort : Nat := 1172

/-- Has the port of a unit credit for a flit? A unit whose port has none waits. DESIGN CHOICE, log entry 13. -/
def State.portOpen (s : State) (port : Nat) : Bool :=
  s.buckets.all fun b => b.port != port || !bucketEn b.word || decide (256 ≤ b.credit)

/-- Must an instruction of the core whose turn it is wait for the credit of its port? -/
def State.portShut (s : State) : Bool := !s.portOpen (corePort s.cur)

/-! ### Guards (R60, R61) -/

/-- The value of a guard term. -/
def Core.term (k : Core) (t : Term) : Bool := k.getP t.p != t.inv

/-- The value of a guard (R60). -/
def Core.guard (k : Core) (g : Guard) : Bool :=
  match g with
  | .none => true
  | .one t => k.term t
  | .both t u => k.term t && k.term u
  | .either t u => k.term t || k.term u

/-! ### Issue (R8, R61, R72, R73) -/

/-- What an instruction that has passed steps 1 to 4 of R72 does: goes on to the next word, goes on elsewhere, ends its
firing, takes a trap of a later step, meets an error that ends its gang, in the state that what it did before leaves, or cannot issue
yet. -/
inductive Act where
  | go (s : State)
  | jump (s : State) (pc : Word)
  | fin (s : State)
  | trap (cause : Byte) (val : Word)
  | fatal (s : State) (cause : Byte) (faddr : Word)
  | wait

/-- An instruction has issued on core `c` and the firing goes on at `pc`. -/
def State.issued (s : State) (c : CoreId) (pc : Word) : State :=
  s.setCore c { s.core c with pc := pc, issueMark := s.tick, lastIssue := s.tick }

/-- The address of the next word of the firing whose turn it is. -/
def State.nextPc (s : State) : Word := s.me.pc + 16

/-- The next state of an act of the core whose turn it is. -/
def State.finish (s : State) (a : Act) : State :=
  match a with
  | .go t => t.issued s.cur s.nextPc
  | .jump t pc => t.issued s.cur pc
  | .fin t => t.setCore s.cur { t.core s.cur with issueMark := s.tick, lastIssue := s.tick }
  | .trap cause val => s.takeTrap s.cur cause val
  | .fatal t cause faddr => t.fatal (s.me.gang.getD 0) cause s.me.pc faddr s.cur
  | .wait => s

/-- Issue of an instruction with header `h` and operands `o`: the drain of R64, which delays the issue and so every check, the
static checks `pre` of steps 1 to 3 of R72, the guard of R61, the interlock of R8 on the instruction's registers, then
`body`, which makes the later checks and has the effect. DESIGN CHOICE, log entry 64. -/
def issue (h : Hdr) (o : Ops) (pre : State → Option (Byte × Word)) (body : State → Act) (s : State) : Out :=
  if h.drain && !s.drained then .next s
  else match pre s with
  | some (cause, val) => .next (s.takeTrap s.cur cause val)
  | none =>
    if h.guard.preds.any s.regPending then .next s
    else if !s.me.guard h.guard then .next (s.issued s.cur s.nextPc)
    else if o.regs.any s.regPending then .next s
    else .next (s.finish (body s))

/-- Does a gang run: is it on its quads, told neither to stop nor to end? -/
def Gang.active (g : Gang) : Bool := (g.phase == .resident || g.phase == .dusk) && g.order.isNone && g.doom.isNone

/-- Does an engine fault wait for delivery on a core (R327)? -/
def Core.engFault (k : Core) : Bool := k.eng.toList.any (·.fault.isSome)

/-- Can a core issue: a firing runs and has started, nothing holds it, no engine fault waits to be delivered at this boundary
(R327), and its gang is on its quads and not being killed? -/
def State.canIssue (s : State) (c : CoreId) : Bool :=
  let k := s.core c
  k.fire.isSome && !k.starting && k.hold.isNone && (k.inTrap || !k.engFault) &&
  (match s.gangAt k with
    | some g => g.active
    | none => false)

/-- An inner step of an instruction of the core whose turn it is, as a step of its own: it has no effect while the core
cannot issue. -/
def inner (a : State → Act) (s : State) : Out := if s.canIssue s.cur then .next (s.finish (a s)) else .next s

/-- A local-store access of the core whose turn it is to some ranges, each a start and a length: the waits of R21 and R7, the
protection of R236 and R237, then its effect. -/
def State.lsThen (s : State) (l : List (Nat × Nat)) (f : State → Act) : Act :=
  if l.any fun x => s.lsBusy x.1 x.2 then .wait
  else
    let t := l.foldl (fun s x => s.lsCorrect s.cur x.1 x.2) s
    match l.findSome? fun x => s.lsHard s.cur x.1 x.2 with
    | some a => .fatal t cECCU a
    | none => f t

/-- No static check beyond the word's own. -/
def noPre (_ : State) : Option (Byte × Word) := none

/-- The body of an instruction that changes only its own core. -/
def onCore (f : Core → Core) (s : State) : Act := .go (s.setMe (f s.me))

/-- ILLFMT with its trapval (R72, step 5). -/
def illfmt (val : Nat) : Act := .trap cILLFMT (BitVec.ofNat 64 val)

end Sys2Proof.Machine
end

