-- ==== Sys2Proof/Machine/Channels.lean ====
section
/-!
DEFINITION. Sys2Proof/Machine/Channels.lean: the shared operations over channels: ports and instances (R19, R46, R186),
readiness (R182), the marks of the watchdog's ready counts (R365), enqueueing and dequeueing with the census (R204),
and the rotation of R191.
-/

namespace Sys2Proof.Machine

open Sys2Proof

/-! ### Ports and instances -/

/-- The channel that a core's actor `i` binds to an output port, with the instance that it feeds (R46). -/
def Gang.outOf (g : Gang) (i gx gy : Nat) (port : Nat) : Option (ChanRef × Chan) :=
  (g.img.chans.zipIdx.find? fun x => x.1.prodAct == i && x.1.prodPort.val == port).map fun x => (⟨x.2, gx, gy⟩, x.1)

/-- The instance of a channel that leads to the core at a place in the gang. -/
def Chan.intoRef (ch : Chan) (n gx gy : Nat) : ChanRef := ⟨n, ((gx : Int) - ch.dx).toNat, ((gy : Int) - ch.dy).toNat⟩

/-- The channel that a core's actor `i` binds to an input port, with the instance that feeds it (R46). -/
def Gang.inOf (g : Gang) (i gx gy : Nat) (port : Nat) : Option (ChanRef × Chan) :=
  (g.img.chans.zipIdx.find? fun x => x.1.consAct == i && x.1.consPort.val == port).map fun x =>
    (x.1.intoRef x.2 gx gy, x.1)

/-- The index of the running firing's actor. A trap or Dusk actor is listed too, and binds no channel (R45). -/
def Gang.actorIdx (g : Gang) (k : Core) : Option Nat := (g.actorIn k.gx k.gy k.slot).map (·.1)

/-- The output port of the running firing (R19). -/
def State.outPort (s : State) (port : Nat) : Option (ChanRef × Chan) := do
  let g ← s.gangAt s.me
  let i ← g.actorIdx s.me
  g.outOf i s.me.gx s.me.gy port

/-- The input port of the running firing (R19). -/
def State.inPort (s : State) (port : Nat) : Option (ChanRef × Chan) := do
  let g ← s.gangAt s.me
  let i ← g.actorIdx s.me
  g.inOf i s.me.gx s.me.gy port

/-- The tokens of an instance, the oldest first. -/
def Gang.toks (g : Gang) (r : ChanRef) : List Tok :=
  match g.insts.find? (·.ref == r) with
  | some x => x.toks
  | none => []

/-- Replacing the tokens of an instance; an empty instance is not listed. -/
def Gang.setToks (g : Gang) (r : ChanRef) (l : List Tok) : Gang :=
  let rest := g.insts.filter (·.ref != r)
  { g with insts := if l.isEmpty then rest else rest ++ [⟨r, l⟩] }

/-- The tokens of an instance that its consumer sees: the visible ones before the first that is not (R186). -/
def Gang.seen (g : Gang) (r : ChanRef) : List Tok := (g.toks r).takeWhile (·.visible)

/-- The free slots of an instance: a token counts from its SEND until it is dequeued (R186). -/
def Gang.free (g : Gang) (r : ChanRef) (ch : Chan) : Nat := ch.slots - (g.toks r).length

/-! ### Readiness (R182) -/

/-- The input channels of an actor at a place, with their instances. -/
def Gang.inputs (g : Gang) (i gx gy : Nat) : List (ChanRef × Chan) :=
  (g.img.chans.zipIdx.filter fun x => x.1.consAct == i).map fun x => (x.1.intoRef x.2 gx gy, x.1)

/-- The output channels of an actor at a place, with their instances. -/
def Gang.outputs (g : Gang) (i gx gy : Nat) : List (ChanRef × Chan) :=
  (g.img.chans.zipIdx.filter fun x => x.1.prodAct == i).map fun x => (⟨x.2, gx, gy⟩, x.1)

/-- Does an input hold its consumption count of tokens? -/
def Gang.fed (g : Gang) (x : ChanRef × Chan) : Bool := decide (x.2.consCount ≤ (g.seen x.1).length)

/-- Is a channel bound to a merge input: a port from 8 to 15 (R181)? -/
def Chan.isMerge (ch : Chan) : Bool := decide (8 ≤ ch.consPort.val)

/-- Is the actor with index `i` ready on a core at a place (R182)? -/
def Gang.ready (g : Gang) (k : Core) (i : Nat) (a : Actor) : Bool :=
  let ins := g.inputs i k.gx k.gy
  g.img.trap != some i && g.img.dusk != some i && !k.exhausted[a.slot] &&
  (ins.filter fun x => !x.2.isMerge).all g.fed &&
  ((ins.filter fun x => x.2.isMerge).isEmpty || (ins.filter fun x => x.2.isMerge).any g.fed) &&
  (g.outputs i k.gx k.gy).all fun x => decide (x.2.prodCount ≤ g.free x.1 x.2)

/-- The actor of a slot of a core, where it is ready. -/
def Gang.readyIn (g : Gang) (k : Core) (slot : Fin 8) : Option (Nat × Actor) :=
  match g.actorIn k.gx k.gy slot with
  | some (i, a) => if g.ready k i a then some (i, a) else none
  | none => none

/-- Does the slot's own firing run, or stand suspended, on the core? -/
def Core.runs (k : Core) (slot : Fin 8) : Bool :=
  (match k.fire with
    | some f => f.slot == slot
    | none => false) ||
  (match k.susp with
    | some f => f.fire.slot == slot
    | none => false)

/-- The marks of a core's ready counts (R365): each slot keeps the tick since which its actor has been ready without
firing. DEDUCED, log entry 32. -/
def State.stampCore (s : State) (c : CoreId) : State :=
  let k := s.core c
  match s.gangAt k with
  | none => s
  | some g =>
    s.setCore c { k with readyMark := Vector.ofFn fun slot =>
      if (!k.runs slot) && (g.readyIn k slot).isSome then some (k.readyMark[slot].getD s.tick) else none }

/-- The marks of the two cores of an instance. -/
def State.stampInst (s : State) (gid : Nat) (r : ChanRef) : State :=
  match s.gangOf gid with
  | none => s
  | some g =>
    let t := s.stampCore (g.coreAt r.px r.py)
    match g.img.chans[r.chan]? with
    | some ch => t.stampCore (g.coreAt ((r.px : Int) + ch.dx).toNat ((r.py : Int) + ch.dy).toNat)
    | none => t

/-! ### Enqueueing and dequeueing -/

/-- A token enters an instance, not yet visible; the census rises (R186, R204). `after` are the accesses that its
release waits for (R187). -/
def State.enqueue (s : State) (gid : Nat) (r : ChanRef) (v : Word) (after : List Nat) : State :=
  match s.gangOf gid with
  | none => s
  | some g =>
    let g' := g.setToks r (g.toks r ++ [⟨s.nextId, v, false, after⟩])
    ({ s.setGang { g' with census := g'.census + 1 } with nextId := s.nextId + 1 } : State).stampInst gid r

/-- The oldest visible token of an instance leaves it; the census falls (R204). -/
def State.dequeue (s : State) (gid : Nat) (r : ChanRef) : State :=
  match s.gangOf gid with
  | none => s
  | some g =>
    let g' := g.setToks r (g.toks r).tail
    (s.setGang { g' with census := g'.census - 1 }).stampInst gid r

/-- The oldest token that the consumer of an instance sees. -/
def Gang.headTok (g : Gang) (r : ChanRef) : Option Word := (g.seen r).head?.map (·.val)

/-- The remote writes of the running firing that are not acknowledged yet: RST and RATOM (R187, R199). -/
def State.remoteWrites (s : State) : List Nat :=
  ((s.ofFiring s.me.fid).filter fun a => match a.req with
    | .rst _ _ | .ratom _ _ _ _ _ => true
    | _ => false).map (·.id)

/-! ### The rotation of R191 -/

/-- The first port of an ascending list that lies above the rotation point, or the lowest one. -/
def scanPorts (rot : Fin 16) (ports : List Nat) : Option Nat :=
  match ports.find? fun p => decide (rot.val < p) with
  | some p => some p
  | none => ports.head?

/-- The rotation point of the running firing's slot. -/
def Core.setRot (k : Core) (slot : Fin 8) (p : Nat) : Core := { k with rot := k.rot.set slot (Fin.ofNat 16 p) }

end Sys2Proof.Machine
end

