-- ==== Sys2Proof/Machine/Numbers.lean ====
section
/-!
DEFINITION. Sys2Proof/Machine/Numbers.lean: the number formats, the exact values and the rounding of R74 to R97.

A value is exact: a ratio of natural numbers with a sign, a signed zero, an infinity or NaN. `Round` of R87 takes a
value into a format in one rounding and says which flags of R92 that raises. The functions whose results are not
ratios (square root, 2^x, log2, tanh) deliver a ratio that lies strictly between the same two neighbouring points of
every rounding grid as the exact result, so that R87 rounds it as it would round the exact result.
-/

namespace Sys2Proof

/-! ### Types (R12, R66, R74) -/

/-- The width in bits of an element of a type (R12). -/
def Ty.width : Ty → Nat
  | .b1 => 1
  | .e2m1 | .bx4 => 4
  | .s8 | .n8 | .e4m3 | .e5m2 | .bx8 => 8
  | .s16 | .n16 | .f16 | .bf16 => 16
  | .s32 | .n32 | .f32 => 32
  | .s64 | .n64 | .f64 => 64

/-- The integer types S8 to N64 (R74). -/
def Ty.isInt : Ty → Bool
  | .s8 | .n8 | .s16 | .n16 | .s32 | .n32 | .s64 | .n64 => true
  | _ => false

/-- The signed integer types. -/
def Ty.isSigned : Ty → Bool
  | .s8 | .s16 | .s32 | .s64 => true
  | _ => false

/-- FP64, FP32, FP16 and BF16: the scalar float types (R109). -/
def Ty.isScalarFloat : Ty → Bool
  | .f64 | .f32 | .f16 | .bf16 => true
  | _ => false

/-- FP32, FP16 and BF16: the types of plane float instructions (R133), the ones that flush (R89). -/
def Ty.isPlaneFloat : Ty → Bool
  | .f32 | .f16 | .bf16 => true
  | _ => false

/-- The float types, the narrow and the block types included (R77, R83). -/
def Ty.isFloat : Ty → Bool
  | .f64 | .f32 | .f16 | .bf16 | .e4m3 | .e5m2 | .e2m1 | .bx8 | .bx4 => true
  | _ => false

/-- BX8 and BX4 (R83). -/
def Ty.isBx : Ty → Bool
  | .bx8 | .bx4 => true
  | _ => false

/-- E4M3, E5M2 and E2M1: the MX element types (R77, R82). -/
def Ty.isMx : Ty → Bool
  | .e4m3 | .e5m2 | .e2m1 => true
  | _ => false

/-- The types of LDL, STL, LD and ST (R116, R244): the integers and the scalar floats. -/
def Ty.isScalar (t : Ty) : Bool := t.isInt || t.isScalarFloat

/-- `Val(t, x)` of R99: the low bits of `x` read in the type's signedness; a float type reads as unsigned. -/
def Ty.val (t : Ty) (x : Nat) : Int :=
  if t.isSigned then signedOf t.width (x % 2 ^ t.width) else ((x % 2 ^ t.width : Nat) : Int)

/-- The least value of an integer type (R74). -/
def Ty.minI (t : Ty) : Int := if t.isSigned then -(2 ^ (t.width - 1) : Int) else 0

/-- The greatest value of an integer type (R74). -/
def Ty.maxI (t : Ty) : Int := if t.isSigned then (2 ^ (t.width - 1) : Int) - 1 else (2 ^ t.width : Int) - 1

/-- Clamping into a type's range (R74). -/
def Ty.clampI (t : Ty) (n : Int) : Int := min (max n t.minI) t.maxI

/-- Reduction into a type: clamped with sat, else modulo 2^w (R74, R102). -/
def Ty.reduce (t : Ty) (sat : Bool) (n : Int) : Int := if sat then t.clampI n else t.val (wrapI t.width n)

/-! ### Flags (R92) -/

/-- The five sticky flags of fpflags (R92). -/
abbrev FpFlags := BitVec 5

/-- invalid, bit 0. -/
def flInvalid : FpFlags := 1
/-- divide-by-zero, bit 1. -/
def flDivZero : FpFlags := 2
/-- overflow, bit 2. -/
def flOverflow : FpFlags := 4
/-- underflow, bit 3. -/
def flUnderflow : FpFlags := 8
/-- inexact, bit 4. -/
def flInexact : FpFlags := 16

/-! ### Exact values -/

/-- An exact value: NaN, an infinity, a signed zero, or a nonzero ratio with its sign. -/
inductive XVal where
  | nan
  | inf (neg : Bool)
  | zero (neg : Bool)
  | fin (neg : Bool) (num den : Nat)
  deriving DecidableEq, Repr

/-- The value of `num / den`, a zero carrying the sign `neg`. -/
def XVal.ratio (neg : Bool) (num den : Nat) : XVal := if num = 0 then .zero neg else .fin neg num den

/-- The value `m * 2^e`, a zero carrying the sign. -/
def XVal.dyadic (neg : Bool) (m : Nat) (e : Int) : XVal :=
  if 0 ≤ e then .ratio neg (m * 2 ^ e.toNat) 1 else .ratio neg m (2 ^ (-e).toNat)

/-- An integer as a value; 0 is +0. -/
def XVal.ofInt (n : Int) : XVal := .ratio (n < 0) n.natAbs 1

/-- Is the value NaN? -/
def XVal.isNaN : XVal → Bool
  | .nan => true
  | _ => false

/-- Is the value infinite? -/
def XVal.isInf : XVal → Bool
  | .inf _ => true
  | _ => false

/-- Is the value a zero? -/
def XVal.isZero : XVal → Bool
  | .zero _ => true
  | _ => false

/-- The sign of a value; NaN counts as positive. -/
def XVal.neg : XVal → Bool
  | .nan => false
  | .inf n => n
  | .zero n => n
  | .fin n _ _ => n

/-- The value with its sign inverted. -/
def XVal.negate : XVal → XVal
  | .nan => .nan
  | .inf n => .inf (!n)
  | .zero n => .zero (!n)
  | .fin n a b => .fin (!n) a b

/-- The magnitude of a value. -/
def XVal.abs : XVal → XVal
  | .nan => .nan
  | .inf _ => .inf false
  | .zero _ => .zero false
  | .fin _ a b => .fin false a b

/-- A result with the flags that forming it raised. -/
abbrev XRes := XVal × FpFlags

/-- The sum of two signed ratios; an exact zero is +0, or −0 under RD (R91). -/
def addFin (rd : Bool) (n1 : Bool) (a1 b1 : Nat) (n2 : Bool) (a2 b2 : Nat) : XVal :=
  let d := Nat.lcm b1 b2
  let x1 : Int := ((a1 * (d / b1) : Nat) : Int)
  let x2 : Int := ((a2 * (d / b2) : Nat) : Int)
  let x : Int := (if n1 then -x1 else x1) + (if n2 then -x2 else x2)
  if x = 0 then .zero rd else .fin (decide (x < 0)) x.natAbs d

/-- Exact addition, with R91's sign of zero and R92's ∞ − ∞. `rd` says that the rounding mode is RD. -/
def XVal.add (rd : Bool) (x y : XVal) : XRes :=
  match x, y with
  | .nan, _ => (.nan, 0)
  | _, .nan => (.nan, 0)
  | .inf a, .inf b => if a = b then (.inf a, 0) else (.nan, flInvalid)
  | .inf a, _ => (.inf a, 0)
  | _, .inf b => (.inf b, 0)
  | .zero a, .zero b => (.zero (if a = b then a else rd), 0)
  | .zero _, y => (y, 0)
  | x, .zero _ => (x, 0)
  | .fin n1 a1 b1, .fin n2 a2 b2 => (addFin rd n1 a1 b1 n2 a2 b2, 0)

/-- Exact multiplication (R91, R92). DEDUCED, log entry 16. -/
def XVal.mul (x y : XVal) : XRes :=
  match x, y with
  | .nan, _ => (.nan, 0)
  | _, .nan => (.nan, 0)
  | .inf _, .zero _ => (.nan, flInvalid)
  | .zero _, .inf _ => (.nan, flInvalid)
  | .inf a, y => (.inf (a != y.neg), 0)
  | x, .inf b => (.inf (x.neg != b), 0)
  | .zero a, y => (.zero (a != y.neg), 0)
  | x, .zero b => (.zero (x.neg != b), 0)
  | .fin n1 a1 b1, .fin n2 a2 b2 => (.fin (n1 != n2) (a1 * a2) (b1 * b2), 0)

/-- Exact division (R91, R92): a finite non-zero value divided by zero raises divide-by-zero. -/
def XVal.div (x y : XVal) : XRes :=
  match x, y with
  | .nan, _ => (.nan, 0)
  | _, .nan => (.nan, 0)
  | .inf _, .inf _ => (.nan, flInvalid)
  | .zero _, .zero _ => (.nan, flInvalid)
  | .inf a, y => (.inf (a != y.neg), 0)
  | x, .inf b => (.zero (x.neg != b), 0)
  | .fin n _ _, .zero b => (.inf (n != b), flDivZero)
  | .zero a, y => (.zero (a != y.neg), 0)
  | .fin n1 a1 b1, .fin n2 a2 b2 => (.fin (n1 != n2) (a1 * b2) (b1 * a2), 0)

/-- The order of two values that are not NaN, −0 and +0 equal (R112). -/
def XVal.cmp (x y : XVal) : Ordering :=
  match x, y with
  | .inf a, .inf b => if a = b then .eq else if a then .lt else .gt
  | .inf a, _ => if a then .lt else .gt
  | _, .inf b => if b then .gt else .lt
  | .zero _, .zero _ => .eq
  | .zero _, .fin n _ _ => if n then .gt else .lt
  | .fin n _ _, .zero _ => if n then .lt else .gt
  | .fin n1 a1 b1, .fin n2 a2 b2 =>
    if n1 = n2 then
      (if n1 then compare (a2 * b1) (a1 * b2) else compare (a1 * b2) (a2 * b1))
    else if n1 then .lt else .gt
  | _, _ => .eq

/-- Is `x` below `y` with −0 below +0 (R93)? -/
def XVal.lt (x y : XVal) : Bool :=
  match x, y with
  | .zero a, .zero b => a && !b
  | x, y => x.cmp y == .lt

/-- The minimum of R93; NaN where either operand is NaN. -/
def XVal.min (x y : XVal) : XVal := if x.isNaN || y.isNaN then .nan else if y.lt x then y else x

/-- The maximum of R93; NaN where either operand is NaN. -/
def XVal.max (x y : XVal) : XVal := if x.isNaN || y.isNaN then .nan else if x.lt y then y else x

/-! ### Rounding modes and the draw (R67, R87, R88) -/

/-- The rounding codes of R67. -/
inductive Rnd where
  | rne | rz | ru | rd | rna | sr
  deriving DecidableEq, Repr

/-- The rounding mode of a code; 6 and 7 are reserved and read as RNE, which no accepted word and no value of fpmode
holds (R32, R67). -/
def rndOfCode : Nat → Rnd
  | 1 => .rz | 2 => .ru | 3 => .rd | 4 => .rna | 5 => .sr | _ => .rne

/-- The next xorshift state (R88). -/
def lfsrNext (z : Word) : Word :=
  let z := z ^^^ (z <<< 13)
  let z := z ^^^ (z >>> 7)
  z ^^^ (z <<< 17)

/-- `RoundInt` of R87 on the magnitude `num / den` of a value with sign `neg`. -/
def roundMag (mode : Rnd) (rnd : Nat) (neg : Bool) (num den : Nat) : Nat :=
  let q := num / den
  let r := num % den
  match mode with
  | .rne => if 2 * r > den then q + 1 else if 2 * r = den then q + q % 2 else q
  | .rz => q
  | .ru => if neg ∨ r = 0 then q else q + 1
  | .rd => if neg ∧ r ≠ 0 then q + 1 else q
  | .rna => if 2 * r ≥ den then q + 1 else q
  | .sr => (num * 65536 + rnd * den) / (den * 65536)

/-! ### Float formats (R77, R79, R81) -/

/-- The parameters of a float format (R77): width, fraction bits, the exponent of the smallest normal, the code of the
largest finite magnitude, whether there are infinities, and the canonical NaN where there is one (R81). -/
structure FFmt where
  width   : Nat
  frac    : Nat
  emin    : Int
  largest : Nat
  hasInf  : Bool
  nan     : Option Nat
  deriving DecidableEq, Repr

/-- binary64. -/
def fmt64 : FFmt := ⟨64, 52, -1022, 0x7FEFFFFFFFFFFFFF, true, some 0x7FF8000000000000⟩
/-- binary32. -/
def fmt32 : FFmt := ⟨32, 23, -126, 0x7F7FFFFF, true, some 0x7FC00000⟩
/-- binary16. -/
def fmt16 : FFmt := ⟨16, 10, -14, 0x7BFF, true, some 0x7E00⟩
/-- bfloat16. -/
def fmtB16 : FFmt := ⟨16, 7, -126, 0x7F7F, true, some 0x7FC0⟩
/-- E4M3: no infinity, one NaN code per sign (R79). -/
def fmtE4M3 : FFmt := ⟨8, 3, -6, 0x7E, false, some 0x7F⟩
/-- E5M2. -/
def fmtE5M2 : FFmt := ⟨8, 2, -14, 0x7B, true, some 0x7E⟩
/-- E2M1: neither infinity nor NaN (R79). -/
def fmtE2M1 : FFmt := ⟨4, 1, 0, 0x7, false, none⟩

/-- The format of a float type that has one; the block types have none of their own (R83). -/
def Ty.ffmt : Ty → Option FFmt
  | .f64 => some fmt64
  | .f32 => some fmt32
  | .f16 => some fmt16
  | .bf16 => some fmtB16
  | .e4m3 => some fmtE4M3
  | .e5m2 => some fmtE5M2
  | .e2m1 => some fmtE2M1
  | _ => none

/-- The magnitude bits of an encoding: all but the sign. -/
def FFmt.magBits (f : FFmt) (x : Nat) : Nat := x % 2 ^ (f.width - 1)

/-- The sign bit of an encoding. -/
def FFmt.signBit (f : FFmt) (x : Nat) : Bool := x.testBit (f.width - 1)

/-- The value of an encoding (R78, R79). E2M1's code 0b1000 is R80's own case and is not read here. -/
def FFmt.decode (f : FFmt) (x : Nat) : XVal :=
  let m := f.magBits x
  let neg := f.signBit x
  if f.largest < m then
    (if f.hasInf ∧ m = f.largest + 1 then .inf neg else .nan)
  else
    let e := m / 2 ^ f.frac
    let fr := m % 2 ^ f.frac
    if e = 0 then .dyadic neg fr (f.emin - f.frac)
    else .dyadic neg (2 ^ f.frac + fr) (f.emin - f.frac + ((e : Int) - 1))

/-- `floor(log2 (num / den))` of a positive ratio. -/
def floorLog2 (num den : Nat) : Int :=
  let e : Int := (Nat.log2 num : Int) - (Nat.log2 den : Int)
  let ok := if 0 ≤ e then den * 2 ^ e.toNat ≤ num else den ≤ num * 2 ^ (-e).toNat
  if ok then e else e - 1

/-- The encoding of a magnitude code with a sign. -/
def FFmt.signed (f : FFmt) (neg : Bool) (m : Nat) : Nat := if neg then 2 ^ (f.width - 1) + m else m

/-- The infinity of a format that has one. -/
def FFmt.infCode (f : FFmt) (neg : Bool) : Nat := f.signed neg (f.largest + 1)

/-- The result for an infinite input (R90). -/
def FFmt.roundInf (f : FFmt) (sat neg : Bool) : Nat × FpFlags :=
  if f.hasInf then (f.infCode neg, 0)
  else match f.nan with
    | some c => (if sat then f.signed neg f.largest else c, flInvalid)
    | none => (f.signed neg f.largest, flInvalid)

/-- The result for a finite value beyond the largest magnitude (R90). -/
def FFmt.overflow (f : FFmt) (sat : Bool) (mode : Rnd) (neg : Bool) : Nat × FpFlags :=
  let toLargest := sat || f.nan.isNone || (match mode with
    | .rz => true
    | .ru => neg
    | .rd => !neg
    | _ => false)
  let x := if toLargest then f.signed neg f.largest
    else if f.hasInf then f.infCode neg
    else f.nan.getD 0
  (x, flOverflow ||| flInexact)

/-- `Round(fmt, x, mode)` of R87 into a float format; `flush` says that R89 applies. -/
def FFmt.round (f : FFmt) (sat flush : Bool) (mode : Rnd) (rnd : Nat) (x : XVal) : Nat × FpFlags :=
  match x with
  | .nan => match f.nan with
    | some c => (c, 0)
    | none => (0, flInvalid)
  | .inf neg => f.roundInf sat neg
  | .zero neg => (if f.nan.isNone then 0 else f.signed neg 0, 0)
  | .fin neg num den =>
    let e := max (floorLog2 num den) f.emin
    let qe := e - f.frac
    let n' := if 0 ≤ qe then num else num * 2 ^ (-qe).toNat
    let d' := if 0 ≤ qe then den * 2 ^ qe.toNat else den
    let m := roundMag mode rnd neg n' d'
    let code := (e - f.emin).toNat * 2 ^ f.frac + m
    if f.largest < code then f.overflow sat mode neg
    else
      let inexact := decide (m * d' ≠ n')
      let tiny := decide (floorLog2 num den < f.emin)
      let fl : FpFlags := (if inexact then flInexact else 0) ||| (if tiny ∧ inexact then flUnderflow else 0)
      if flush ∧ m ≠ 0 ∧ code < 2 ^ f.frac then (f.signed neg 0, flUnderflow ||| flInexact)
      else (if f.nan.isNone ∧ code = 0 then 0 else f.signed neg code, fl)

/-- `Round(fmt, x, mode)` of R87 into an integer type: saturating, with its invalid and inexact flags. -/
def Ty.roundInt (t : Ty) (mode : Rnd) (rnd : Nat) (x : XVal) : Int × FpFlags :=
  match x with
  | .nan => (0, flInvalid)
  | .inf neg => (if neg then t.minI else t.maxI, flInvalid)
  | .zero _ => (0, 0)
  | .fin neg num den =>
    let m := roundMag mode rnd neg num den
    let n : Int := if neg then -(m : Int) else (m : Int)
    if n < t.minI then (t.minI, flInvalid)
    else if n > t.maxI then (t.maxI, flInvalid)
    else (n, if m * den ≠ num then flInexact else 0)

/-! ### The rounding context of an instruction -/

/-- What an instruction's calls of Round share: its mode, its sat bit, and whether its results flush (R87, R89). -/
structure RCtx where
  mode  : Rnd
  sat   : Bool := false
  flush : Bool := false
  deriving DecidableEq, Repr

/-- What successive calls of Round hand on: the lfsr and the flags raised so far (R88, R92). -/
structure RSt where
  lfsr  : Word
  flags : FpFlags
  deriving DecidableEq, Repr

/-- Raising flags. -/
def RSt.raise (st : RSt) (f : FpFlags) : RSt := { st with flags := st.flags ||| f }

/-- The draw of R88: one xorshift step under SR, none under any other mode. -/
def RSt.draw (st : RSt) (mode : Rnd) : RSt × Nat :=
  match mode with
  | .sr => let z := lfsrNext st.lfsr; ({ st with lfsr := z }, z.toNat % 65536)
  | _ => (st, 0)

/-- `Round(t, x, mode)` of R87 with its draw and its flags, as a bit string of the type's width. The block types take
no part: R97 quantizes into them. -/
def roundTo (c : RCtx) (t : Ty) (x : XVal) (st : RSt) : Nat × RSt :=
  let (st, rnd) := st.draw c.mode
  match t.ffmt with
  | some f =>
    let (b, fl) := f.round c.sat (c.flush && t.isPlaneFloat) c.mode rnd x
    (b, st.raise fl)
  | none =>
    let (n, fl) := t.roundInt c.mode rnd x
    (wrapI t.width n, st.raise fl)

/-- `Round` of a value with the flags that forming it raised. -/
def roundRes (c : RCtx) (t : Ty) (x : XRes) (st : RSt) : Nat × RSt := roundTo c t x.1 (st.raise x.2)

/-! ### Reading values -/

/-- A scalar or plane float encoding as a value, subnormals read as zero under `flush` (R78, R86). -/
def Ty.decodeF (t : Ty) (flush : Bool) (x : Nat) : XVal :=
  match t.ffmt with
  | some f =>
    let v := f.decode x
    if flush && t.isPlaneFloat && f.magBits x < 2 ^ f.frac && f.magBits x != 0 then .zero (f.signBit x) else v
  | none => .nan

/-- The element of a BX type under its two exponents (R83). -/
def bxDecode (four : Bool) (e0 e1 : Nat) (x : Nat) : XVal :=
  let sel := if four then x.testBit 3 else x.testBit 7
  let neg := if four then x.testBit 2 else x.testBit 6
  let m := if four then x % 4 else x % 64
  let e := if sel then e1 else e0
  if e = 255 then .nan else .dyadic neg m ((e : Int) - 127 - (if four then 1 else 5))

/-- Multiplication by an E8M0 scale (R82). -/
def XVal.scale (x : XVal) (e8 : Nat) : XVal :=
  if e8 = 255 then .nan
  else match x with
    | .fin n a b =>
      if 127 ≤ e8 then .fin n (a * 2 ^ (e8 - 127)) b else .fin n a (b * 2 ^ (127 - e8))
    | x => x

/-! ### Irrational results (R134)

Each function answers a ratio and whether the result is exact. An inexact result is delivered as a point strictly
inside the interval of a fixed-point grid that holds the exact result, the grid being finer than every rounding grid
of R87, the sixteen extra bits of SR included. -/

/-- A fixed-point result `x / 2^k`: the point itself when exact, else the middle of its grid interval.
DEDUCED, log entry 14. -/
def stickyFix (neg : Bool) (x k : Nat) (exact : Bool) : XVal :=
  if exact then .ratio neg x (2 ^ k) else .fin neg (2 * x + 1) (2 ^ (k + 1))

/-- Precision of the square roots, in bits below the binary point. -/
def sqrtBits : Nat := 240

/-- `floor (sqrt n)`, bit by bit: `b` bits are still to be settled below those of `r`. -/
def sqrtFrom (n : Nat) : Nat → Nat → Nat
  | 0, r => r
  | b + 1, r => sqrtFrom n b (if (r + 2 ^ b) * (r + 2 ^ b) ≤ n then r + 2 ^ b else r)

/-- The square root of a positive ratio, over the grid of `1 / (den * 2^sqrtBits)`. DEDUCED, log entry 14. -/
def sqrtFin (num den : Nat) : XVal :=
  let n := num * den * 4 ^ sqrtBits
  let r := sqrtFrom n (Nat.log2 n / 2 + 1) 0
  if r * r = n then .fin false r (den * 2 ^ sqrtBits) else .fin false (2 * r + 1) (den * 2 ^ (sqrtBits + 1))

/-- √x (R92, R134). -/
def XVal.sqrt (x : XVal) : XRes :=
  match x with
  | .nan => (.nan, 0)
  | .inf neg => if neg then (.nan, flInvalid) else (.inf false, 0)
  | .zero neg => (.zero neg, 0)
  | .fin neg a b => if neg then (.nan, flInvalid) else (sqrtFin a b, 0)

/-- 1 / x (R134). -/
def XVal.recip (x : XVal) : XRes := (XVal.fin false 1 1).div x

/-- 1 / √x (R134). -/
def XVal.rsqrt (x : XVal) : XRes :=
  match x with
  | .nan => (.nan, 0)
  | .inf neg => if neg then (.nan, flInvalid) else (.zero false, 0)
  | .zero neg => (.inf neg, flDivZero)
  | .fin neg a b => if neg then (.nan, flInvalid) else (sqrtFin b a, 0)

/-- Precision of the fixed-point series, in bits. -/
def fixBits : Nat := 320

/-- One in fixed point. -/
def fixOne : Nat := 2 ^ fixBits

/-- `k` terms of the series of `exp x - 1`, `x` in fixed point and below one: the sum of `x^i / i!`, each term
truncated. -/
def expTerms : Nat → Nat → Nat → Nat → Nat → Nat
  | 0, _, _, _, acc => acc
  | k + 1, x, i, term, acc =>
    let t := term * x / fixOne / i
    expTerms k x (i + 1) t (acc + t)

/-- `exp x` in fixed point for `0 ≤ x < 1`, from below, within 2^-310. -/
def expFix (x : Nat) : Nat := expTerms 80 x 1 fixOne fixOne

/-- `k` terms of the series of `artanh z`: the sum of `z^(2i+1) / (2i+1)`, `z2` being z squared. -/
def atanhTerms : Nat → Nat → Nat → Nat → Nat → Nat
  | 0, _, _, _, acc => acc
  | k + 1, z2, i, p, acc => atanhTerms k z2 (i + 2) (p * z2 / fixOne) (acc + p / i)

/-- ln 2 in fixed point: 2 artanh (1/3). -/
def ln2Fix : Nat := 2 * atanhTerms 110 (fixOne / 9) 1 (fixOne / 3) 0

/-- `2^x` of a ratio with `|x|` bounded by the caller: integer part out, `2^f = exp (f ln 2)` of the rest. -/
def exp2Fin (neg : Bool) (a b : Nat) : XVal :=
  let i : Int := if neg then -(((a + b - 1) / b : Nat) : Int) else ((a / b : Nat) : Int)
  let fnum : Nat := if neg then ((a + b - 1) / b) * b - a else a % b
  let m : XVal :=
    if fnum = 0 then .fin false 1 1
    else stickyFix false (expFix (fnum * fixOne / b * ln2Fix / fixOne) / 2 ^ 40) (fixBits - 40) false
  match m with
  | .fin n p q => if 0 ≤ i then .fin n (p * 2 ^ i.toNat) q else .fin n p (q * 2 ^ (-i).toNat)
  | y => y

/-- 2^x (R134). Beyond 2^12 in magnitude every plane format overflows or underflows to the same result. Below 2^-150
in magnitude the result lies strictly between 1 and its neighbours, on the side of the sign. -/
def XVal.exp2 (x : XVal) : XRes :=
  match x with
  | .nan => (.nan, 0)
  | .inf neg => (if neg then .zero false else .inf false, 0)
  | .zero _ => (.fin false 1 1, 0)
  | .fin neg a b =>
    if b * 2 ^ 12 < a then (if neg then .fin false 1 (2 ^ 4096) else .fin false (2 ^ 4096) 1, 0)
    else if a * 2 ^ 150 < b then
      ((if neg then .fin false (2 ^ 200 - 1) (2 ^ 200) else .fin false (2 ^ 200 + 1) (2 ^ 200)), 0)
    else (exp2Fin neg a b, 0)

/-- log2 of a positive ratio: `e + log2 m` with `1 ≤ m < 2`, `ln m = 2 artanh ((m - 1) / (m + 1))`. The exact zero of log2 1 is +0 in
every rounding mode (R91, R134). DESIGN CHOICE, log entry 93. -/
def log2Fin (a b : Nat) : XVal :=
  let e := floorLog2 a b
  let n := if 0 ≤ e then a else a * 2 ^ (-e).toNat
  let d := if 0 ≤ e then b * 2 ^ e.toNat else b
  if n = d then XVal.ofInt e
  else
    let z := (n - d) * fixOne / (n + d)
    let lnm := 2 * atanhTerms 110 (z * z / fixOne) 1 z 0
    let f := lnm * fixOne / ln2Fix / 2 ^ 40
    let k := fixBits - 40
    if 0 ≤ e then stickyFix false (e.toNat * 2 ^ k + f) k false
    else stickyFix true ((-e).toNat * 2 ^ k - f - 1) k false

/-- log2 x (R92, R134). -/
def XVal.log2 (x : XVal) : XRes :=
  match x with
  | .nan => (.nan, 0)
  | .inf neg => if neg then (.nan, flInvalid) else (.inf false, 0)
  | .zero _ => (.inf true, flDivZero)
  | .fin neg a b => if neg then (.nan, flInvalid) else (log2Fin a b, 0)

/-- tanh of a positive ratio below 64: `(1 - q) / (1 + q)` with `q = exp (-2x)`, from `exp` of the fraction and
powers of two. -/
def tanhFin (neg : Bool) (a b : Nat) : XVal :=
  -- y = 2 x / ln 2, so that exp (2x) = 2^y
  let y := 2 * a * fixOne / b * fixOne / ln2Fix
  let i := y / fixOne
  let f := y % fixOne
  let ex := expFix (f * ln2Fix / fixOne) * 2 ^ i
  let t := (ex - fixOne) * fixOne / (ex + fixOne)
  stickyFix neg (t / 2 ^ 40) (fixBits - 40) false

/-- tanh x (R134). From 64 on the result lies strictly between 1 and its lower neighbour; below 2^-60 in magnitude it
lies strictly between x and its neighbour towards zero. -/
def XVal.tanh (x : XVal) : XRes :=
  match x with
  | .nan => (.nan, 0)
  | .inf neg => (.fin neg 1 1, 0)
  | .zero neg => (.zero neg, 0)
  | .fin neg a b =>
    if b * 64 ≤ a then (.fin neg (2 ^ 160 - 1) (2 ^ 160), 0)
    else if a * 2 ^ 60 < b then (.fin neg (a * 2 ^ 100 - 1) (b * 2 ^ 100), 0)
    else (tanhFin neg a b, 0)

end Sys2Proof
end

