-- ==== Sys2Proof/Machine/Flags.lean ====
section
/-!
DEFINITION. Sys2Proof/Machine/Flags.lean: the rounding context of an instruction (R67, R86, R89), the order of draws
(R88) and how flags enter fpflags (R92, R248).
-/

namespace Sys2Proof.Machine

open Sys2Proof

/-- The scalar rounding default, bits 2:0 of fpmode (R31, R67). -/
def Core.scalarMode (k : Core) : Rnd := rndOfCode (k.fpmode.extractLsb' 0 3).toNat

/-- The plane rounding default, bits 5:3 of fpmode. -/
def Core.planeMode (k : Core) : Rnd := rndOfCode (k.fpmode.extractLsb' 3 3).toNat

/-- Plane flush to zero, bit 6 of fpmode. -/
def Core.ftz (k : Core) : Bool := k.fpmode.getLsbD 6

/-- The rounding mode of an instruction: its own code with rx = 1, else the default of its kind (R67). -/
def modeOf (o : Ops) (default : Rnd) : Rnd := if o.bit 8 then rndOfCode (o.mod 5 3) else default

/-- The rounding context of class 0x2: scalar operations never flush (R86, R89). -/
def Core.scalarCtx (k : Core) (o : Ops) : RCtx := ⟨modeOf o k.scalarMode, false, false⟩

/-- The rounding context of classes 0x5 and 0x7, which flush under fpmode bit 6; `sat` is the class 0x7 bit. -/
def Core.planeCtx (k : Core) (o : Ops) (sat : Bool) : RCtx := ⟨modeOf o k.planeMode, sat, k.ftz⟩

/-- The rounding context of ACCRD and ACCWR, which never flush (R174, R175). -/
def Core.accCtx (k : Core) (o : Ops) (sat : Bool) : RCtx := ⟨modeOf o k.planeMode, sat, false⟩

/-- The state of the draws and flags at an instruction's start. -/
def Core.rst (k : Core) : RSt := ⟨k.lfsr, 0⟩

/-- Raising flags: fpflags is sticky (R31, R92). -/
def Core.raise (k : Core) (f : FpFlags) : Core := { k with fpflags := k.fpflags ||| f }

/-- The end of an instruction's rounding: its draws have advanced lfsr, its flags enter fpflags (R88, R92). -/
def Core.merge (k : Core) (st : RSt) : Core := { k with lfsr := st.lfsr, fpflags := k.fpflags ||| st.flags }

/-- The flags that the core holds for completed RED and REDV enter fpflags, and are held no longer (R248, R262). -/
def Core.takeHeld (k : Core) : Core := { k with fpflags := k.fpflags ||| k.heldFlags, heldFlags := 0 }

/-- The comparison of a condition code between two integers (R107). -/
def ccInt (cc : Nat) (a b : Int) : Bool :=
  match cc with
  | 0 => a == b
  | 1 => a != b
  | 2 => decide (a < b)
  | 3 => decide (a ≤ b)
  | 4 => decide (b < a)
  | 5 => decide (b ≤ a)
  | _ => false

/-- The comparison of a condition code between two float values: NaN makes .ne and .un hold and no other code (R107,
R112). -/
def ccFloat (cc : Nat) (a b : XVal) : Bool :=
  if a.isNaN || b.isNaN then cc == 1 || cc == 6
  else match cc with
    | 0 => a.cmp b == .eq
    | 1 => a.cmp b != .eq
    | 2 => a.cmp b == .lt
    | 3 => a.cmp b != .gt
    | 4 => a.cmp b == .gt
    | 5 => a.cmp b != .lt
    | _ => false

end Sys2Proof.Machine
end

