-- ==== Sys2Proof/Machine/Operands.lean ====
section
/-!
DEFINITION. Sys2Proof/Machine/Operands.lean: every operand form: the scalar integer and float operands of R99 and R110,
shapes (R13), the elements of a plane with their block scales (R11, R82 to R86), broadcasts (R124), the checks on
plane operands (R125), masks (R17, R126) and the writing of a plane's elements and strip (R11, R84, R127).
-/

namespace Sys2Proof.Machine

open Sys2Proof

/-! ### Bit strings -/

/-- Bits `lo + w - 1 : lo` of a bit string. -/
def getBits {n : Nat} (d : BitVec n) (lo w : Nat) : Nat := (d.extractLsb' lo w).toNat

/-- A bit string with bits `lo + w - 1 : lo` replaced by the low `w` bits of `x`. -/
def putBits {n : Nat} (d : BitVec n) (lo w x : Nat) : BitVec n :=
  (d &&& ~~~ BitVec.ofNat n ((2 ^ w - 1) * 2 ^ lo)) ||| BitVec.ofNat n (x % 2 ^ w * 2 ^ lo)

/-- Replacing several elements of width `w`. -/
def putElems {n : Nat} (d : BitVec n) (w : Nat) (l : List (Nat × Nat)) : BitVec n :=
  l.foldl (fun d x => putBits d (x.1 * w) w x.2) d

/-- The bit string whose bits 0 to the length are those of a list, every other bit 0. -/
def maskOf (l : List Bool) : BitVec 8192 :=
  BitVec.ofNat 8192 (l.foldr (fun b acc => (if b then 1 else 0) + 2 * acc) 0)

/-! ### Scalar operands (R99, R110) -/

/-- `Val(t, x)` of a scalar, keep or immediate operand (R99). -/
def Core.valOf (k : Core) (t : Ty) (x : Operand) (imm : Word) : Int := t.val (k.word x imm).toNat

/-- Writing an integer result by R99. -/
def Core.setInt (k : Core) (d : Operand) (n : Int) : Core := k.setWord d (BitVec.ofInt 64 n)

/-- The bits of a float source (R110): a register's low bits; an immediate as FP32 for FP32 and FP64, as its low 16
bits for FP16 and BF16. FP64 reads the immediate as FP32 and widens it (see `Core.fltOf`). -/
def Core.fltBits (k : Core) (t : Ty) (x : Operand) (o : Ops) : Nat := (k.word x o.zext).toNat % 2 ^ t.width

/-- The value of a scalar float source (R78, R110). -/
def Core.fltOf (k : Core) (t : Ty) (x : Operand) (o : Ops) : XVal :=
  if x = .imm ∧ t = .f64 then Ty.f32.decodeF false o.imm.toNat else t.decodeF false (k.fltBits t x o)

/-! ### Shapes (R13) -/

/-- The fields of a shape register. -/
structure Shape where
  ty     : Ty
  rows   : Nat
  cols   : Nat
  scaled : Bool
  fp4x   : Nat
  deriving DecidableEq, Repr

/-- The shape that a shape register holds. -/
def shapeOf (w : Word) : Shape where
  ty     := (tyOfCode (getBits w 0 5)).getD .s8
  rows   := getBits w 5 6 + 1
  cols   := getBits w 11 7 + 1
  scaled := w.getLsbD 18
  fp4x   := getBits w 32 16

/-- The element count of a shape. -/
def Shape.n (h : Shape) : Nat := h.rows * h.cols

/-- Does R14 allow the value in a shape register? It allows 0x2000B, which the program of R353 writes for n = 65, where R353 names a SHAPE
trap. DEDUCED, log entry 121. -/
def shapeOk (w : Word) : Bool :=
  match tyOfCode (getBits w 0 5) with
  | none => false
  | some t =>
    let h := shapeOf w
    decide (h.n * t.width ≤ 32768) && t != .f64 &&
    (!h.scaled || ((t.isMx || t.isBx) && h.cols % 32 == 0)) &&
    (!t.isBx || h.scaled) &&
    (h.fp4x == 0 || t == .e2m1) &&
    getBits w 19 13 == 0 && getBits w 48 16 == 0

/-- The shape of a plane register. -/
def Core.shape (k : Core) (i : Fin 32) : Shape := shapeOf k.shp[i]

/-- The shape of a plane operand. -/
def Core.shapeO (k : Core) (x : Operand) : Shape := k.shape x.planeNo

/-! ### Elements (R11, R82, R83, R84, R86) -/

/-- The bits of element `i` of a plane under width `w` (R11). -/
def Core.elem (k : Core) (p : Fin 32) (w i : Nat) : Nat := getBits k.v[p] (i * w) w

/-- The block of element `i` (R84). -/
def Shape.block (h : Shape) (i : Nat) : Nat := i / h.cols * (h.cols / 32) + i % h.cols / 32

/-- Strip byte `j` of a plane (R84). -/
def Core.stripByte (k : Core) (p : Fin 32) (j : Nat) : Nat := getBits k.strip[p] (8 * j) 8

/-- `Elem(v, i)` of a plane with a float, block or integer type, as an exact value (R86); `flush` reads FP32, FP16 and
BF16 subnormals as zero. -/
def Core.elemX (k : Core) (p : Fin 32) (h : Shape) (flush : Bool) (i : Nat) : XVal :=
  let b := k.elem p h.ty.width i
  if h.ty.isBx then
    bxDecode (h.ty == .bx4) (k.stripByte p (2 * h.block i)) (k.stripByte p (2 * h.block i + 1)) b
  else if h.ty.isInt || h.ty == .b1 then XVal.ofInt (h.ty.val b)
  else
    let x := if h.ty = .e2m1 ∧ b = 8 then Ty.bf16.decodeF false h.fp4x else h.ty.decodeF flush b
    if h.scaled then x.scale (k.stripByte p (h.block i)) else x

/-- `Elem(v, i)` of a plane with an integer type or B1 (R74, R75). -/
def Core.elemI (k : Core) (p : Fin 32) (h : Shape) (i : Nat) : Int := h.ty.val (k.elem p h.ty.width i)

/-! ### Sources in plane positions (R124) -/

/-- The bits of element `i` of a source: a plane's element, or the broadcast value's low bits, those of an immediate of
type E4M3, E5M2 or E2M1 among them. DEDUCED, log entry 75. -/
def Core.srcBits (k : Core) (t : Ty) (x : Operand) (o : Ops) (i : Nat) : Nat :=
  match x with
  | .v p => k.elem p t.width i
  | .imm => (if t.isFloat then o.zext else o.sext).toNat % 2 ^ t.width
  | x => (k.word x 0).toNat % 2 ^ t.width

/-- Element `i` of a float source of an unscaled type; a broadcast stands for an element, so it flushes as one.
DEDUCED, log entry 20. -/
def Core.srcX (k : Core) (t : Ty) (x : Operand) (o : Ops) (flush : Bool) (i : Nat) : XVal :=
  t.decodeF flush (k.srcBits t x o i)

/-- Element `i` of an integer source. -/
def Core.srcI (k : Core) (t : Ty) (x : Operand) (o : Ops) (i : Nat) : Int := t.val (k.srcBits t x o i)

/-! ### Checks on plane operands (R125) -/

/-- A plane operand must have type `t`, be unscaled, and have the rows and cols of the reference shape.
DEDUCED, log entry 76. -/
def Shape.fits (h : Shape) (t : Ty) (r : Shape) : Bool :=
  h.ty == t && !h.scaled && h.rows == r.rows && h.cols == r.cols

/-- The shape that gives an instruction its elements: the destination's, or op1's where the destination is no plane
(R126). -/
def Core.refShape (k : Core) (o : Ops) : Shape :=
  match o.o0 with
  | .v p => k.shape p
  | _ => k.shapeO o.o1

/-- The first operand byte, from `i` on, whose plane fails R125 for type `t`. -/
def Core.badPlane (k : Core) (t : Ty) (r : Shape) : List Operand → Nat → Option Nat
  | [], _ => none
  | .v p :: l, i => if (k.shape p).fits t r then k.badPlane t r l (i + 1) else some i
  | _ :: l, i => k.badPlane t r l (i + 1)

/-- R125 for an instruction all of whose plane operands share the modifier's type. -/
def Core.planesBad (k : Core) (t : Ty) (o : Ops) : Option Nat :=
  k.badPlane t (k.refShape o) [o.o0, o.o1, o.o2, o.o3] 0

/-! ### Masks (R17, R126) -/

/-- The active elements among the first `n`, in ascending order. -/
def active (m : BitVec 8192) (n : Nat) : List Nat := (List.range n).filter fun i => m.getLsbD i

/-! ### Writing planes (R11, R84, R127) -/

/-- Writing some elements of a plane; every other bit keeps its value. -/
def Core.setElems (k : Core) (p : Fin 32) (w : Nat) (l : List (Nat × Nat)) : Core :=
  { k with v := k.v.set p (putElems k.v[p] w l) }

/-- Writing some bytes of a plane's strip; every other bit keeps its value. -/
def Core.setStrip (k : Core) (p : Fin 32) (l : List (Nat × Nat)) : Core :=
  { k with strip := k.strip.set p (putElems k.strip[p] 8 l) }

/-- The results of rounding element after element in ascending order, the draws and flags handed on (R88, R126). -/
def mapRound (f : Nat → RSt → Nat × RSt) : List Nat → RSt → List (Nat × Nat) × RSt
  | [], st => ([], st)
  | i :: l, st =>
    let (b, st) := f i st
    let (r, st) := mapRound f l st
    ((i, b) :: r, st)

/-! ### The local store (R20, R21, R98) -/

/-- `LS(addr, n)` (R98). -/
def Core.lsRead (k : Core) (a n : Nat) : Nat := memReadN k.ls a n

/-- Assigning to `LS(addr, n)` (R98). -/
def Core.lsWrite (k : Core) (a n x : Nat) : Core := { k with ls := memWriteN k.ls a x n }

/-- Is an `n`-byte scalar access at `a` aligned and inside the local store (R20)? -/
def lsOk (a n : Nat) : Bool := a % n == 0 && decide (a + n ≤ 0x80000)

end Sys2Proof.Machine
end

