-- ==== Sys2Proof/Machine/CtlReg.lean ====
section
/-!
DEFINITION. Sys2Proof/Machine/CtlReg.lean: the meanings of class 0x3 (R113 to R115) and the inner writes of MTC: the
control registers of R31 with their checks (R29, R399), the shape registers (R14), fpmode and lfsr (R32), ways (R239,
R240), ptroot and walkctl (R399), and the reduction-window registers (R388).
-/

namespace Sys2Proof.Machine

open Sys2Proof

/-! ### Predicates (R113) -/

/-- A predicate operation on op1 and op2. -/
def predOp (o : Ops) (f : Bool → Bool → Bool) : State → Act :=
  onCore fun k => k.setPred o.o0 (f (k.pred o.o1) (k.pred o.o2))

/-- PAND (R113). -/
def execPand (h : Hdr) (o : Ops) (s : State) : Out := issue h o noPre (predOp o fun a b => a && b) s
/-- POR (R113). -/
def execPor (h : Hdr) (o : Ops) (s : State) : Out := issue h o noPre (predOp o fun a b => a || b) s
/-- PXOR (R113). -/
def execPxor (h : Hdr) (o : Ops) (s : State) : Out := issue h o noPre (predOp o fun a b => a != b) s
/-- PANDN (R113). -/
def execPandn (h : Hdr) (o : Ops) (s : State) : Out := issue h o noPre (predOp o fun a b => a && !b) s
/-- PNOT (R113). -/
def execPnot (h : Hdr) (o : Ops) (s : State) : Out := issue h o noPre (predOp o fun a _ => !a) s
/-- PSET (R113): the immediate is zero-extended. -/
def execPset (h : Hdr) (o : Ops) (s : State) : Out :=
  issue h o noPre (onCore fun k => k.setPred o.o0 (k.word o.o1 o.zext != 0)) s
/-- PGET (R113). -/
def execPget (h : Hdr) (o : Ops) (s : State) : Out :=
  issue h o noPre (onCore fun k => k.setWord o.o0 (if k.pred o.o1 then 1 else 0)) s

/-! ### The control registers (R31) -/

/-- The control registers by name, each with its index where it is one of several. -/
inductive Ctl where
  | coreid | gangpos | gangdim | gangid | tick | actor | fpmode | fpflags | lfsr
  | lc (i : Fin 4) | lcl (i : Fin 4) | shp (i : Fin 32)
  | ways | resv | trapcause | trappc | trapval | asid | pri | engstat (i : Fin 8)
  | ptroot | walkctl | wcfg (w : Fin 4) | wrange (w : Fin 4) | wmem (w : Fin 4) | wpart (w : Fin 4)
  deriving DecidableEq, Repr

/-- The control register of a number; every other number is unassigned (R31, R399). -/
def ctlOf (n : Nat) : Option Ctl :=
  match n with
  | 0x000 => some .coreid
  | 0x001 => some .gangpos
  | 0x002 => some .gangdim
  | 0x003 => some .gangid
  | 0x004 => some .tick
  | 0x005 => some .actor
  | 0x008 => some .fpmode
  | 0x009 => some .fpflags
  | 0x00A => some .lfsr
  | 0x040 => some .ways
  | 0x041 => some .resv
  | 0x048 => some .trapcause
  | 0x049 => some .trappc
  | 0x04A => some .trapval
  | 0x050 => some .asid
  | 0x051 => some .pri
  | 0x100 => some .ptroot
  | 0x101 => some .walkctl
  | n =>
    if 0x010 ≤ n ∧ n < 0x014 then some (.lc (Fin.ofNat 4 (n - 0x010)))
    else if 0x014 ≤ n ∧ n < 0x018 then some (.lcl (Fin.ofNat 4 (n - 0x014)))
    else if 0x020 ≤ n ∧ n < 0x040 then some (.shp (Fin.ofNat 32 (n - 0x020)))
    else if 0x060 ≤ n ∧ n < 0x068 then some (.engstat (Fin.ofNat 8 (n - 0x060)))
    else if 0x180 ≤ n ∧ n < 0x190 then
      let w := Fin.ofNat 4 ((n - 0x180) / 4)
      match (n - 0x180) % 4 with
      | 0 => some (.wcfg w)
      | 1 => some (.wrange w)
      | 2 => some (.wmem w)
      | _ => some (.wpart w)
    else none

/-- Is the register read-only (RO)? -/
def Ctl.isRO : Ctl → Bool
  | .coreid | .gangpos | .gangdim | .gangid | .tick | .actor | .resv | .asid | .pri | .engstat _ => true
  | _ => false

/-- Is the register one of the trap registers (RT)? -/
def Ctl.isRT : Ctl → Bool
  | .trapcause | .trappc | .trapval => true
  | _ => false

/-- Is the register for system gangs only (SYS)? -/
def Ctl.isSys : Ctl → Bool
  | .ptroot | .walkctl | .wcfg _ | .wrange _ | .wmem _ | .wpart _ => true
  | _ => false

/-- Has the gang of the core whose turn it is a right of its launch: the system right or the partition right (R209)? -/
def State.right (s : State) (f : Launch → Bool) : Bool :=
  match s.gangAt s.me with
  | some g => f g.launch
  | none => false

/-- The static checks of R29 on an access to a control register (R72, steps 1 and 2). -/
def ctlPre (n : Nat) (write : Bool) (s : State) : Option (Byte × Word) :=
  match ctlOf n with
  | none => some (cILLOP, 72)
  | some r =>
    if write && (r.isRO || r.isRT) then some (cILLOP, 72)
    else if r.isRT && !s.me.inTrap then some (cILLOP, 72)
    else if r.isSys && !s.right (·.sys) then some (cPRIV, BitVec.ofNat 64 n)
    else if write && r == .ways && !s.right (·.part) then some (cPRIV, BitVec.ofNat 64 n)
    else none

/-! ### Reading (R31, R114, R326) -/

/-- How many tiles a set holds. -/
def tileCount (x : BitVec 128) : Nat := ((List.range 128).filter (x.getLsbD ·)).length

/-- The state code of engstat (R326). A command that has issued and is not accepted yet counts as running.
DEDUCED, log entry 25. -/
def SlotState.code : SlotState → Nat
  | .free => 0
  | .issued | .running => 1
  | .halted => 2
  | .token => 3

/-- The value of an engstat register (R326). DEDUCED, log entry 25. -/
def EngSlot.status (e : EngSlot) : Word :=
  e.cursor ++ BitVec.ofNat 8 (tileCount e.pending) ++ BitVec.ofNat 8 (tileCount e.held) ++ e.kind ++
    BitVec.ofNat 8 e.state.code

/-- The value that MFC reads (R31, R114). -/
def State.ctlRead (s : State) (r : Ctl) : Word :=
  let k := s.me
  match r with
  | .coreid => BitVec.ofNat 64 (coreIdVal s.cur)
  | .gangpos => BitVec.ofNat 64 (k.gx + 256 * k.gy)
  | .gangdim => match s.gangAt k with
    | some g => BitVec.ofNat 64 (2 * g.launch.w + 256 * (2 * g.launch.h))
    | none => 0
  | .gangid => match k.gang with
    | some g => BitVec.ofNat 64 (g % 2 ^ 32)
    | none => 0
  | .tick => BitVec.ofNat 64 s.tick
  | .actor => BitVec.ofNat 64 k.slot
  | .fpmode => k.fpmode.zeroExtend 64
  | .fpflags => k.fpflags.zeroExtend 64
  | .lfsr => k.lfsr
  | .lc i => k.lc[i].zeroExtend 64
  | .lcl i => k.lcl[i].zeroExtend 64
  | .shp i => k.shp[i]
  | .ways => match s.gangAt k with
    | some g => g.ways.zeroExtend 64
    | none => 0
  | .resv => BitVec.ofNat 64 s.resv
  | .trapcause => k.trapcause
  | .trappc => k.trappc
  | .trapval => k.trapval
  | .asid => match s.gangAt k with
    | some g => g.launch.asid.zeroExtend 64
    | none => 0
  | .pri => match s.gangAt k with
    | some g => g.launch.pri.zeroExtend 64
    | none => 0
  | .engstat i => k.eng[i].status
  | .ptroot => s.ptroot
  | .walkctl => if s.walkctl then 1 else 0
  | .wcfg w => s.wins[w].cfg
  | .wrange w => s.wins[w].range
  | .wmem w => s.wins[w].mem
  | .wpart w => s.wins[w].parts.zeroExtend 64 ||| BitVec.ofNat 64 (s.wins[w].epoch % 2 ^ 32) <<< 32

/-- The number in an MFC or MTC. -/
def Ops.ctlNo (o : Ops) : Nat := (o.imm.extractLsb' 0 12).toNat

/-- Does the request deliver flags on completion into fpflags: ATOM.fadd (R30)? -/
def Req.delivers : Req → Bool
  | .atom op _ _ _ _ => op == 8
  | _ => false

/-- Must an access to fpflags wait for an earlier instruction of the core that still delivers flags (R30, R115), of this
firing or of one before it? -/
def State.flagsBusy (s : State) : Bool := s.flight.any fun a => a.core == s.cur && a.req.delivers

/-- MFC of fpflags (R115). -/
def fpflagsReadAct (d : Operand) (s : State) : Act :=
  if s.flagsBusy then .wait else .go (s.setMe (s.me.setWord d (s.me.fpflags.zeroExtend 64)))

/-- MFC (R114, R115). -/
def mfcAct (o : Ops) (s : State) : Act :=
  match ctlOf (Ops.ctlNo o) with
  | some .fpflags => fpflagsReadAct o.o0 s
  | some r => .go (s.setMe (s.me.setWord o.o0 (s.ctlRead r)))
  | none => .wait

/-- MFC (R114). -/
def execMfc (h : Hdr) (o : Ops) (s : State) : Out := issue h o (ctlPre (Ops.ctlNo o) false) (mfcAct o) s

/-! ### Writing (R14, R32, R115, R388, R399) -/

/-- MTC to a shape register (R14): an impossible shape takes SHAPE and leaves the register unchanged. -/
def shapeWrite (n : Fin 32) (v : Word) (s : State) : Act :=
  if shapeOk v then .go (s.setMe { s.me with shp := s.me.shp.set n v }) else .trap cSHAPE v

/-- MTC to fpmode (R32): rounding codes 6 and 7 take ILLOP. -/
def fpmodeWrite (v : Word) (s : State) : Act :=
  if 5 < getBits v 0 3 ∨ 5 < getBits v 3 3 then .trap cILLOP v
  else .go (s.setMe { s.me with fpmode := v.truncate 7 })

/-- MTC to fpflags (R32, R115): it waits as the read does, and replaces the flags. -/
def fpflagsWrite (v : Word) (s : State) : Act :=
  if s.flagsBusy then .wait else .go (s.setMe { s.me with fpflags := v.truncate 5 })

/-- MTC to lfsr (R32): zero stores 1. -/
def lfsrWrite (v : Word) (s : State) : Act := .go (s.setMe { s.me with lfsr := if v = 0 then 1 else v })

/-- MTC to ways (R240): it holds the firing until WAYS_WRITE has changed every slice of the gang. -/
def waysHold (v : Word) (s : State) : Act := .go (s.setMe { s.me with hold := some (.ways (v.truncate 32)) })

/-- MTC to ptroot (R399): bits 51:12. -/
def ptrootWrite (v : Word) (s : State) : Act := .go { s with ptroot := v &&& 0x000FFFFFFFFFF000 }

/-- MTC to walkctl (R399): ucen, bit 0. -/
def walkctlWrite (v : Word) (s : State) : Act := .go { s with walkctl := v.getLsbD 0 }

/-- Is a window slot enabled? -/
def Win.en (w : Win) : Bool := w.cfg.getLsbD 0
/-- The operation code of a window slot. -/
def Win.op (w : Win) : Nat := getBits w.cfg 1 2
/-- The home package of a window slot. -/
def Win.homePkg (w : Win) : Nat := getBits w.cfg 16 12

/-- MTC to wcfg (R388): op 11 takes ILLOP; otherwise the firing is held until WCFG_WRITE. DEDUCED, log entry 47. -/
def wcfgHold (w : Fin 4) (v : Word) (s : State) : Act :=
  if getBits v 1 2 = 3 then .trap cILLOP v
  else .go (s.setMe { s.me with hold := some (.wcfg w v) })

/-- MTC to wrange, wmem or wpart (R388): ILLOP while the slot is enabled. DEDUCED, log entry 47. -/
def winWrite (w : Fin 4) (f : Win → Win) (s : State) : Act :=
  if s.wins[w].en then .trap cILLOP 72 else .go { s with wins := s.wins.set w (f s.wins[w]) }

/-- MTC to a control register that has no write of its own kind: the loop counters and their reload values, and the
window registers other than wcfg. -/
def plainWrite (r : Ctl) (v : Word) (s : State) : Act :=
  match r with
  | .lc i => .go (s.setMe { s.me with lc := s.me.lc.set i (v.truncate 32) })
  | .lcl i => .go (s.setMe { s.me with lcl := s.me.lcl.set i (v.truncate 32) })
  | .wrange w => winWrite w (fun x => { x with range := v &&& 0x00003FFFC0000000 }) s
  | .wmem w => winWrite w (fun x => { x with mem := v &&& 0x0FFF0FFF }) s
  | .wpart w => winWrite w (fun x => { x with parts := v.truncate 10 }) s
  | _ => .wait

/-- The write of MTC into a register that its checks let through. -/
def ctlWrite (r : Ctl) (v : Word) (s : State) : Act :=
  match r with
  | .shp i => shapeWrite i v s
  | .fpmode => fpmodeWrite v s
  | .fpflags => fpflagsWrite v s
  | .lfsr => lfsrWrite v s
  | .ways => waysHold v s
  | .ptroot => ptrootWrite v s
  | .walkctl => walkctlWrite v s
  | .wcfg w => wcfgHold w v s
  | r => plainWrite r v s

/-- MTC (R114). -/
def mtcAct (o : Ops) (s : State) : Act :=
  match ctlOf (Ops.ctlNo o) with
  | some r => ctlWrite r (s.me.word o.o1 0) s
  | none => .wait

/-- MTC (R114). -/
def execMtc (h : Hdr) (o : Ops) (s : State) : Out := issue h o (ctlPre (Ops.ctlNo o) true) (mtcAct o) s

/-! ### The inner steps as rows of their own

Each is the write (or read) of an MTC (or MFC) that the core whose turn it is executes. -/

/-- An inner write that the checks of R29 precede. -/
def checked (n : Nat) (a : State → Act) (s : State) : Act :=
  match ctlPre n true s with
  | some (cause, val) => .trap cause val
  | none => a s

/-- SHAPE_REGISTER_WRITE (R14). -/
def execShapeRegisterWrite (n : Fin 32) (v : Word) (s : State) : Out := inner (shapeWrite n v) s
/-- FPMODE_WRITE (R32). -/
def execFpmodeWrite (v : Word) (s : State) : Out := inner (fpmodeWrite v) s
/-- FPFLAGS_WRITE (R115). -/
def execFpflagsWrite (v : Word) (s : State) : Out := inner (fpflagsWrite v) s
/-- FPFLAGS_READ (R115). -/
def execFpflagsRead (d : Operand) (s : State) : Out := inner (fpflagsReadAct d) s
/-- LFSR_WRITE (R32). -/
def execLfsrWrite (v : Word) (s : State) : Out := inner (lfsrWrite v) s
/-- PTROOT_WRITE (R399). -/
def execPtrootWrite (v : Word) (s : State) : Out := inner (checked 0x100 (ptrootWrite v)) s
/-- WALKCTL_WRITE (R399). -/
def execWalkctlWrite (v : Word) (s : State) : Out := inner (checked 0x101 (walkctlWrite v)) s

/-- The write of an MTC by its control-register number, its checks included. -/
def ctlregAct (n : BitVec 12) (v : Word) : State → Act :=
  checked n.toNat fun s =>
    match ctlOf n.toNat with
    | some r => ctlWrite r v s
    | none => .wait

/-- CTLREG_WRITE (R30). -/
def execCtlregWrite (n : BitVec 12) (v : Word) (s : State) : Out := inner (ctlregAct n v) s

/-! ### The completion of the writes that hold the firing -/

/-- The use of way `i` in a value of ways (R239). -/
def wayUse (ways : BitVec 32) (i : Nat) : Nat := getBits ways (2 * i) 2

/-- The way fields that count: those outside the reserve of `resv` ways (R239). -/
def waysLive (resv : Fin 5) : List Nat := List.range (16 - resv.val)

/-- Was a tuple touched after another? Of two that one step touched, the one with the higher sequence number counts as touched
later. DESIGN CHOICE, log entry 86. -/
def Stored.newer (x y : Stored) : Bool := decide (y.touch < x.touch) || (x.touch == y.touch && decide (y.seq < x.seq))

/-- The stored tuple with its place in the Cloche ways. -/
def Slice.setChip (z : Slice) (seq : Nat) (n : Option (Fin 262144)) : Slice :=
  { z with tuples := z.tuples.map fun x => if x.seq = seq then { x with chip := n } else x }

/-- The way of a place of the Cloche ways, of which each way has 16,384 (R277). -/
def chipWay (n : Fin 262144) : Fin 16 := Fin.ofNat 16 (n.val / 16384)

/-- The words of a place of the Cloche ways of a slice: 64 bytes of its way. DESIGN CHOICE, log entry 86. -/
def chipSites (q : SliceId) (n : Fin 262144) : List Site := (wordsOf (64 * n.val) 64).map (.way q)

/-- The first number from `n` on that a list does not hold. -/
def firstFree (l : List Nat) (n : Nat) : Nat → Nat
  | 0 => n
  | fuel + 1 => if l.contains n then firstFree l (n + 1) fuel else n

/-- The first place of a Cloche way that no tuple holds. -/
def Slice.chipRoom (z : Slice) (w : Fin 16) : Option (Fin 262144) :=
  let held := (z.tuples.filterMap (·.chip)).map (·.val)
  let n := firstFree held (16384 * w.val) held.length
  if n < 16384 * (w.val + 1) then some (Fin.ofNat 262144 n) else none

/-- The tuple in the Cloche ways that was touched least recently. -/
def Slice.oldestChip (z : Slice) : Option Stored :=
  (z.tuples.filter (·.chip.isSome)).foldl (fun best x => match best with
    | some y => if y.newer x then some x else some y
    | none => some x) none

/-- A tuple that has been touched comes to stand in a Cloche way: in the first with room among the 16,384 places of each, or else
in the place of the one touched least recently, which is written to the backing area (R277). DESIGN CHOICE, log entry 86. -/
def Slice.bring (ways : List (Fin 16)) (z : Slice) (x : Stored) : Slice :=
  match ways.findSome? z.chipRoom with
  | some n => z.setChip x.seq (some n)
  | none => match z.oldestChip with
    | some y => if x.newer y then (z.setChip y.seq none).setChip x.seq y.chip else z
    | none => z

/-- The tuples that a step touched come to stand in the Cloche ways (R277). -/
def Slice.settle (z : Slice) (ways : List (Fin 16)) (stamp : Nat) : Slice :=
  (z.tuples.filter fun x => x.touch == stamp && x.chip.isNone).foldl (Slice.bring ways) z

/-- The Cloche ways of a partition (R239). -/
def clocheWays (resv : Fin 5) (ways : BitVec 32) : List (Fin 16) :=
  ((waysLive resv).filter fun i => wayUse ways i == 3).map (Fin.ofNat 16)

/-- The contents of a slice's ways after a change of partition: a way whose use changes loses its contents, and reads
as zero where it enters scratch or Mitten use; the tuples of a way that leaves Cloche use go to the backing area, and one that
enters it starts empty (R240, R277). -/
def Slice.repart (q : Slice) (resv : Fin 5) (old new : BitVec 32) : Slice :=
  { q with
    way := (waysLive resv).foldl (fun l i =>
      if wayUse old i = wayUse new i then l else memClear l (i * 2 ^ 20) ((i + 1) * 2 ^ 20)) q.way
    tuples := q.tuples.map fun x => { x with chip := x.chip.filter fun n => (clocheWays resv new).contains (chipWay n) } }

/-- The defined fields of wcfg (R388): en, op, home and the job identifier. -/
def wcfgMask : Word := 0xFFFFFFFF0FFF0007

/-- WCFG_WRITE (R388): the slot takes the value once the switches hold the window, and the firing goes on. -/
def execWcfgWrite (c : CoreId) (s : State) : Out :=
  let k := s.core c
  match k.hold with
  | some (.wcfg w v) =>
    let t : State := { s with wins := s.wins.set w { s.wins[w] with cfg := v &&& wcfgMask } }
    .next (t.setCore c { k with hold := none })
  | _ => .next s

end Sys2Proof.Machine
end

