-- ==== Sys2Proof/Machine/Xts.lean ====
section
/-!
DEFINITION. Sys2Proof/Machine/Xts.lean: AES-XTS, by which data is encrypted under a key slot (R238, which names IEEE 1619;
the cipher is AES as FIPS 197 defines it). The data unit is a 128-byte line, eight blocks of 16 bytes, and its tweak is the
line's physical address, bits 51:7. A block is a number with its first byte lowest.
-/

namespace Sys2Proof.Machine

open Sys2Proof

/-! ### AES -/

/-- The substitution box: entry `x` is byte `x`. -/
def aesSbox : Nat :=
  0x16BB54B00F2D99416842E6BF0D89A18CDF2855CEE9871E9B948ED9691198F8E19E1DC186B95735610EF6034866B53E708A8BBD4B1F74DDE8C6B4A61C2E2578BA08AE7A65EAF4566CA94ED58D6D37C8E779E4959162ACD3C25C2406490A3A32E0DB0B5EDE14B8EE4688902A22DC4F816073195D643D7EA7C41744975FEC130CCDD2F3FF1021DAB6BCF5389D928F40A351A89F3C507F02F94585334D43FBAAEFD0CF584C4A39BECB6A5BB1FC20ED00D153842FE329B3D63B52A05A6E1B1A2C830975B227EBE28012079A059618C323C7041531D871F1E5A534CCF73F362693FDB7C072A49CAFA2D4ADF04759FA7DC982CA76ABD7FE2B670130C56F6BF27B777C63

/-- The inverse substitution box. -/
def aesInvSbox : Nat :=
  0x7D0C2155631469E126D677BA7E042B17619953833CBBEBC8B0F52AAE4D3BE0A0EF9CC9939F7AE52D0D4AB519A97F51605FEC8027591012B131C7078833A8DD1FF45ACD78FEC0DB9A2079D2C64B3E56FC1BBE18AA0E62B76F89C5291D711AF1476EDF751CE837F9E28535ADE72274AC9673E6B4F0CECFF297EADC674F4111913A6B8A130103BDAFC1020F3FCA8F1E2CD00645B3B80558E4F70AD3BC8C00ABD890849D8DA75746155EDAB9EDFD5048706C92B6655DCC5CA4D41698688664F6F87225D18B6D49A25B76B224D92866A12E084EC3FA420B954CEE3D23C2A632947B54CBE9DEC444438E3487FF2F9B8239E37CFBD7F3819EA340BF38A53630D56A0952

/-- A byte of a box. -/
def boxAt (t x : Nat) : Nat := t >>> (8 * x) % 256

/-- Doubling in the field of 256 elements. -/
def gfDouble (x : Nat) : Nat := if x < 128 then 2 * x else (2 * x) ^^^ 0x11B

/-- The product of a constant below 16 and a field element. -/
def gfTimes (c x : Nat) : Nat :=
  let x2 := gfDouble x
  let x4 := gfDouble x2
  (if c.testBit 0 then x else 0) ^^^ (if c.testBit 1 then x2 else 0) ^^^ (if c.testBit 2 then x4 else 0) ^^^
    (if c.testBit 3 then gfDouble x4 else 0)

/-- The byte-wise exclusive or of two lists. -/
def xorBytes (a b : List Nat) : List Nat := List.zipWith (fun x y : Nat => x ^^^ y) a b

/-- The rows of a state turn by their number: row `r` of column `c` is byte `r + 4c`. -/
def shiftRows (back : Bool) (l : List Nat) : List Nat :=
  (List.range 16).map fun i => l.getD ((i + (if back then 12 else 4) * (i % 4)) % 16) 0

/-- The columns of a state are multiplied by a circulant matrix. -/
def mixColumns (coef : List Nat) (l : List Nat) : List Nat :=
  (List.range 16).map fun i => coef.zipIdx.foldl (fun acc x => acc ^^^ gfTimes x.1 (l.getD (i / 4 * 4 + (i + x.2) % 4) 0)) 0

/-- The round constant of index `n`, from 1 on. -/
def roundConst (n : Nat) : Nat := (List.range (n - 1)).foldl (fun x _ => gfDouble x) 1

/-- The next word of a key schedule, from the words so far, the newest first. -/
def nextKeyWord (nk : Nat) (ws : List (List Nat)) : List Nat :=
  let i := ws.length
  let last := ws.headD []
  let sub := fun (l : List Nat) => l.map (boxAt aesSbox)
  let turned := match i % nk with
    | 0 => xorBytes (sub (last.drop 1 ++ last.take 1)) [roundConst (i / nk), 0, 0, 0]
    | 4 => if 6 < nk then sub last else last
    | _ => last
  xorBytes (ws.getD (nk - 1) []) turned

/-- The round keys of a key of `nk` words, in order. -/
def keySchedule (nk : Nat) (key : List Nat) : List (List Nat) :=
  let first := ((List.range nk).map fun i => (key.drop (4 * i)).take 4).reverse
  let ws := ((List.range (4 * (nk + 7) - nk)).foldl (fun ws _ => nextKeyWord nk ws :: ws) first).reverse
  (List.range (nk + 7)).map fun i => ((ws.drop (4 * i)).take 4).flatten

/-- Encrypting a state under its round keys. -/
def aesEncrypt (rks : List (List Nat)) (x : List Nat) : List Nat :=
  let sub := fun (l : List Nat) => shiftRows false (l.map (boxAt aesSbox))
  match rks with
  | [] => x
  | k :: ks =>
    let x := ks.dropLast.foldl (fun x k => xorBytes (mixColumns [2, 3, 1, 1] (sub x)) k) (xorBytes x k)
    xorBytes (sub x) (ks.getLastD [])

/-- Decrypting a state under its round keys. -/
def aesDecrypt (rks : List (List Nat)) (x : List Nat) : List Nat :=
  let sub := fun (l : List Nat) => (shiftRows true l).map (boxAt aesInvSbox)
  match rks with
  | [] => x
  | k :: ks =>
    let x := sub (xorBytes x (ks.getLastD []))
    xorBytes (ks.dropLast.reverse.foldl (fun x k => sub (mixColumns [14, 11, 13, 9] (xorBytes x k))) x) k

/-! ### XTS -/

/-- The bytes of a number. -/
def numBytes (n x : Nat) : List Nat := (List.range n).map fun i => x >>> (8 * i) % 256

/-- The number of some bytes. -/
def bytesNum (l : List Nat) : Nat := l.foldr (fun b acc => b + 256 * acc) 0

/-- Doubling in the field of 2^128 elements. -/
def tweakDouble (x : Nat) : Nat := if x < 2 ^ 127 then 2 * x else (2 * x - 2 ^ 128) ^^^ 0x87

/-- The round keys of the data and of the tweak. -/
def xtsSchedules : XtsKey → List (List Nat) × List (List Nat)
  | .aes128 d t => (keySchedule 4 (numBytes 16 d.toNat), keySchedule 4 (numBytes 16 t.toNat))
  | .aes256 d t => (keySchedule 8 (numBytes 32 d.toNat), keySchedule 8 (numBytes 32 t.toNat))

/-- The mask of block `j` of a line. -/
def xtsMask (tweakKeys : List (List Nat)) (line j : Nat) : Nat :=
  (List.range j).foldl (fun t _ => tweakDouble t) (bytesNum (aesEncrypt tweakKeys (numBytes 16 line)))

/-- Block `j` of a line, encrypted. -/
def xtsEncrypt (k : XtsKey) (line j x : Nat) : Nat :=
  let m := xtsMask (xtsSchedules k).2 line j
  bytesNum (aesEncrypt (xtsSchedules k).1 (numBytes 16 (x ^^^ m))) ^^^ m

/-- Block `j` of a line, decrypted. -/
def xtsDecrypt (k : XtsKey) (line j x : Nat) : Nat :=
  let m := xtsMask (xtsSchedules k).2 line j
  bytesNum (aesDecrypt (xtsSchedules k).1 (numBytes 16 (x ^^^ m))) ^^^ m

end Sys2Proof.Machine
end

