-- ==== Sys2Proof/Machine/Translate.lean ====
section
/-!
DEFINITION. Sys2Proof/Machine/Translate.lean: addresses and their translation: the physical address space (R222), data
under key slots (R238), the page table and its walk (R224 to R228, R230), the TLBs (R229), the faults of a page (R226),
the slice window (R223, R241), the home of a line (R233, R234), and memory errors (R236, R237).
-/

namespace Sys2Proof.Machine

open Sys2Proof

/-! ### The physical address space (R222) -/

/-- The package number of a physical address. -/
def paPkg (pa : Nat) : Nat := pa / 2 ^ 40
/-- The offset within its package. -/
def paOff (pa : Nat) : Nat := pa % 2 ^ 40
/-- Is the offset backed by GDDR7? -/
def paGddr (pa : Nat) : Bool := decide (paOff pa < 0x1800000000)
/-- Is it the memory of a package's host? -/
def paHost (pa : Nat) : Bool := decide (0x8000000000 ≤ paOff pa)

/-- The packages of the pod that this package knows; before Dawn only itself. -/
def State.pod (s : State) : List Nat := match s.boot with
  | some b => b.pod
  | none => []

/-- Has a physical address backing, in a package of the pod (R222)? -/
def State.paOk (s : State) (pa : Nat) : Bool :=
  decide (pa < 2 ^ 52) && (paGddr pa || paHost pa) && (paPkg pa == s.pkg.toNat || s.pod.contains (paPkg pa))

/-! ### Bytes of memory under a key slot (R238) -/

/-- The key slot under which a line was filled last; a line that is not listed is plaintext. -/
def State.lineKey (s : State) (line : Nat) : Fin 128 := match s.lineKeys.find? (·.1 == line) with
  | some x => x.2
  | none => 0

/-- The key that Gauntlet loaded into a slot. -/
def State.xtsKey (s : State) (k : Fin 128) : XtsKey := match s.xts.find? (·.1 == k) with
  | some x => x.2
  | none => .aes128 0 0

/-- A 16-byte block at a physical address as it stands in GDDR7; slot 0 is plaintext. -/
def State.sealed (s : State) (key : Fin 128) (pa x : Nat) : Nat :=
  if key = 0 then x else xtsEncrypt (s.xtsKey key) (pa % 2 ^ 52 / 128) (pa % 128 / 16) x

/-- A 16-byte block of GDDR7 as a line filled under a key slot holds it. -/
def State.opened (s : State) (key : Fin 128) (pa x : Nat) : Nat :=
  if key = 0 then x else xtsDecrypt (s.xtsKey key) (pa % 2 ^ 52 / 128) (pa % 128 / 16) x

/-- A byte of memory as an access under a key slot reads it. `mem` holds each line as the slot that filled it last has it, so
that under another slot a block is written back under the one and decrypted under the other. DEDUCED, log entry 7. -/
def State.physByte (s : State) (key : Fin 128) (pa : Nat) : Byte :=
  let slot := s.lineKey (pa / 128)
  if slot = key then memRead s.mem pa
  else
    let lo := pa / 16 * 16
    BitVec.ofNat 8 (s.opened key lo (s.sealed slot lo (memReadN s.mem lo 16)) >>> (8 * (pa % 16)))

/-- The `n` bytes from `pa` on as a little-endian number. -/
def State.physRead (s : State) (key : Fin 128) (pa : Nat) : Nat → Nat
  | 0 => 0
  | n + 1 => (s.physByte key pa).toNat + 256 * s.physRead key (pa + 1) n

/-- Filling a line under a key slot, which a write precedes: under another slot the line's bytes are what that slot
makes of them. DEDUCED, log entry 7. -/
def State.claimLine (s : State) (key : Fin 128) (line : Nat) : State :=
  if s.lineKey line = key then s
  else
    let bytes := (List.range 128).map fun i => s.physByte key (line * 128 + i)
    let rest := s.lineKeys.filter (·.1 != line)
    { s with mem := memWriteBytes s.mem (line * 128) bytes
             lineKeys := if key = 0 then rest else (line, key) :: rest }

/-- Filling the lines of a range under a key slot. -/
def State.claim (s : State) (key : Fin 128) (pa n : Nat) : State :=
  if n = 0 then s
  else (List.range ((pa + n - 1) / 128 - pa / 128 + 1)).foldl (fun s i => s.claimLine key (pa / 128 + i)) s

/-- Writing the low `n` bytes of a number to memory under a key slot. -/
def State.physWrite (s : State) (key : Fin 128) (pa n x : Nat) : State :=
  let t := s.claim key pa n
  { t with mem := memWriteN t.mem pa x n }

/-! ### The words that an access meets (R236, R238) -/

/-- The physical address of a word of memory; a way or a local store has none. -/
def Site.pa : Site → Nat
  | .mem w => 8 * w
  | _ => 0

/-- The words of the lines that a write of `n` bytes from `pa` on takes over from another key slot: their other bytes are read and filled
anew (R236, R238). -/
def State.taken (s : State) (key : Fin 128) (pa n : Nat) : List Site :=
  if s.upsets.isEmpty || n == 0 then []
  else (((List.range ((pa + n - 1) / 128 - pa / 128 + 1)).map (pa / 128 + ·)).filter fun l => s.lineKey l != key).flatMap fun l =>
    (wordsOf (128 * l) 128).map .mem

/-- Those of a read: a line under another slot that stands dirty in its slice is written back first (R238).
DESIGN CHOICE, log entry 108. -/
def State.retaken (s : State) (key : Fin 128) (pa n : Nat) : List Site :=
  (s.taken key pa n).filter fun u => Config.dirty s.steps (u.pa / 128)

/-- The words that a write of `n` bytes of memory from `pa` on meets. -/
def State.writeSites (s : State) (key : Fin 128) (pa n : Nat) : List Site := (wordsOf pa n).map .mem ++ s.taken key pa n

/-- The words that a read of `n` bytes of memory from `pa` on meets. -/
def State.readSites (s : State) (key : Fin 128) (pa n : Nat) : List Site := (wordsOf pa n).map .mem ++ s.retaken key pa n

/-! ### The page table (R224 to R228) -/

/-- The page kinds SO, RC, UN and CL. -/
def kSO : Fin 4 := 0
/-- RC. -/
def kRC : Fin 4 := 1
/-- UN. -/
def kUN : Fin 4 := 2
/-- CL. -/
def kCL : Fin 4 := 3

/-- XLATE at the accessed address. -/
def xlate : WalkErr := ⟨cXLATE, none⟩

/-- One table entry, read at its home as physical plaintext (R229). -/
def State.entry (s : State) (pa : Nat) : Except WalkErr Nat :=
  if !s.paOk pa then .error xlate
  else if s.hardAt (s.readSites 0 pa 8) then .error ⟨cECCU, some pa⟩
  else
    let e := s.physRead 0 pa 8
    if e.testBit 0 then .ok e else .error xlate

/-- The physical frame number of an entry, as the address of its 4 KiB frame. -/
def entryPfn (e : Nat) : Nat := bitsN e 51 12 * 4096

/-- The page that a leaf maps, found at a level that allows its size; `size` is in bytes. DEDUCED, log entry 31. -/
def leafPage (asid : BitVec 16) (va size e : Nat) : Except WalkErr Page :=
  let fill := e.testBit 8
  if fill && bitsN e 51 44 != 0 then .error xlate
  else if (!fill) && entryPfn e % size != 0 then .error xlate
  else .ok {
    asid := asid, base := va / size * size, size := size
    frame := if fill then bitsN e 43 12 else entryPfn e
    kind := Fin.ofNat 4 (bitsN e 5 4), ro := e.testBit 6, cache := e.testBit 7, fill := fill
    near := e.testBit 9, key := Fin.ofNat 128 (bitsN e 58 52) }

/-- Is an entry a leaf? -/
def entryLeaf (e : Nat) : Bool := e.testBit 1
/-- The size code of a leaf. -/
def entrySize (e : Nat) : Nat := bitsN e 3 2

/-- The last level: 4 KiB and 64 KiB leaves. Each access to a 64 KiB page uses one of its 16 entries (R228).
The entry of the address itself must be a valid leaf of 64 KiB for that, and where the one that the walk uses is none, the access
takes XLATE.
DESIGN CHOICE, log entry 8. -/
def State.walk3 (s : State) (asid : BitVec 16) (va table : Nat) : Except WalkErr Page := do
  let i := bitsN va 20 12
  let e ← s.entry (table + 8 * i)
  if !entryLeaf e then .error xlate
  else if entrySize e = 0 then leafPage asid va 0x1000 e
  else if entrySize e = 1 then
    let e ← s.entry (table + 8 * (i / 16 * 16 + Config.pageEntry s.steps % 16))
    if entryLeaf e && entrySize e == 1 then leafPage asid va 0x10000 e else .error xlate
  else .error xlate

/-- Level 2: 2 MiB leaves. -/
def State.walk2 (s : State) (asid : BitVec 16) (va table : Nat) : Except WalkErr Page := do
  let e ← s.entry (table + 8 * bitsN va 29 21)
  if !entryLeaf e then s.walk3 asid va (entryPfn e)
  else if entrySize e = 2 then leafPage asid va 0x200000 e
  else .error xlate

/-- Level 1: 1 GiB leaves. -/
def State.walk1 (s : State) (asid : BitVec 16) (va table : Nat) : Except WalkErr Page := do
  let e ← s.entry (table + 8 * bitsN va 38 30)
  if !entryLeaf e then s.walk2 asid va (entryPfn e)
  else if entrySize e = 3 then leafPage asid va 0x40000000 e
  else .error xlate

/-- A walk from the ASID table downward (R224, R226). -/
def State.walk (s : State) (asid : BitVec 16) (va : Nat) : Except WalkErr Page := do
  let a ← s.entry (s.ptroot.toNat + 8 * asid.toNat)
  let e ← s.entry (bitsN a 51 20 * 2 ^ 20 + 8 * bitsN va 55 39)
  if entryLeaf e then .error xlate else s.walk1 asid va (entryPfn e)

/-! ### TLBs (R229, R230) -/

/-- Does a translation cover an address of an ASID? -/
def Page.covers (p : Page) (asid : BitVec 16) (va : Nat) : Bool :=
  p.asid == asid && decide (p.base ≤ va) && decide (va < p.base + p.size)

/-- The translation that a core's first-level TLB, its second-level TLB or its quad's TLB holds. -/
def State.tlbFind (s : State) (c : CoreId) (asid : BitVec 16) (va : Nat) : Option Page :=
  let k := s.core c
  (k.tlb.find? (·.covers asid va)) <|> (k.tlb2.find? (·.covers asid va)) <|>
    ((s.slice (sliceOf c)).tlb.find? (·.covers asid va))

/-- The translation that a core uses: from its own TLBs, its quad's, or a walk. -/
def State.pageOf (s : State) (c : CoreId) (asid : BitVec 16) (va : Nat) : Except WalkErr Page :=
  if 2 ^ 56 ≤ va then .error xlate
  else match s.tlbFind c asid va with
    | some p => .ok p
    | none => s.walk asid va

/-- Dropping the `i`-th entry of a list. -/
def dropNth {α : Type} (l : List α) (i : Nat) : List α := l.take i ++ l.drop (i + 1)

/-- A list with room for one more of at most `n` entries: a full one gives up its entry `v`, modulo its length.
DESIGN CHOICE, log entry 67. -/
def makeRoom {α : Type} (n v : Nat) (l : List α) : List α := if l.length < n then l else dropNth l (v % l.length)

/-- A translation enters a TLB of `n` entries. -/
def addPage (n v : Nat) (p : Page) (l : List Page) : List Page := if l.contains p then l else p :: makeRoom n v l

/-- A translation enters the 64-entry and the 1,024-entry TLB of a core and the 4,096-entry TLB of its quad. -/
def State.fillTlb (s : State) (c : CoreId) (p : Page) : State :=
  let k := s.core c
  let q := s.slice (sliceOf c)
  let v := Config.victim s.steps
  (s.setCore c { k with tlb := addPage 64 v p k.tlb, tlb2 := addPage 1024 v p k.tlb2 }).setSlice (sliceOf c)
    { q with tlb := addPage 4096 v p q.tlb }

/-- What an access to a page is (R226). -/
inductive Use where
  | read | write | cloche | fetch
  deriving DecidableEq, Repr

/-- The fault that a page gives to an access (R226); none where it lets the access through. Of several the first in this order, which the
spec does not give. DESIGN CHOICE, log entry 112. -/
def Page.fault (keys : BitVec 128) (u : Use) (p : Page) : Option Byte :=
  if p.fill && p.kind == kCL then some cPROT
  else if u == .cloche && p.kind != kCL then some cCLOCHE
  else if u != .cloche && p.kind == kCL then some cPROT
  else if u == .write && (p.ro || p.fill) then some cPROT
  else if u == .fetch && p.fill then some cPROT
  else if !keys.getLsbD p.key.val then some cPROT
  else none

/-- The physical address of a byte of a page. -/
def Page.pa (p : Page) (va : Nat) : Nat := p.frame + (va - p.base)

/-- The place of an access in a page that passes its checks; XLATE where the frame has no backing (R222), after them.
DESIGN CHOICE, log entry 112. -/
def State.placeIn (s : State) (u : Use) (p : Page) (va : Nat) : Except Byte Place :=
  match p.fault s.keys u with
  | some c => .error c
  | none =>
    if p.fill then .ok (.fill (BitVec.ofNat 32 p.frame) (va - p.base))
    else if s.paOk (p.pa va) then .ok (.phys (p.pa va) p)
    else .error cXLATE

/-! ### The slice window (R223, R239, R241) -/

/-- The ways of one use outside the reserve, ascending. -/
def waysOfUse (resv : Fin 5) (ways : BitVec 32) (use : Nat) : List Nat :=
  (List.range (16 - resv.val)).filter fun i => getBits ways (2 * i) 2 == use

/-- The place of a window address for a gang: a byte of a scratch way, or SCRX (R241). -/
def State.scratchAt (s : State) (g : Gang) (va : Nat) : Except Byte Place :=
  let off := va - 0x00FFFF8000000000
  let q := off / 2 ^ 24
  let z := sliceAt (g.qx + q % g.launch.w) (g.qy + q / g.launch.w)
  if g.launch.w * g.launch.h ≤ q then .error cSCRX
  else match (waysOfUse (s.resvAt z) g.ways 1)[off % 2 ^ 24 / 2 ^ 20]? with
    | none => .error cSCRX
    | some w => .ok (.scratch z (w * 2 ^ 20 + off % 2 ^ 20))

/-! ### Reading and writing at a place -/

/-- The `n` bytes at a place, as they were stored: a reserved field of a structure in memory reads here as its bytes stand (R5, R245,
R274). DEDUCED, log entry 91. -/
def State.readAt (s : State) (pl : Place) (n : Nat) : Nat :=
  match pl with
  | .phys pa p => s.physRead p.key pa n
  | .fill pat off => (List.range n).foldr (fun i acc => getBits pat (8 * ((off + i) % 4)) 8 + 256 * acc) 0
  | .scratch q a => memReadN (s.slice q).way a n
  | .remote t a => memReadN (s.core t).ls a n

/-- Writing the low `n` bytes of a number at a place. A fill page is never written (R226). -/
def State.writeAt (s : State) (pl : Place) (n x : Nat) : State :=
  match pl with
  | .phys pa p => s.physWrite p.key pa n x
  | .fill _ _ => s
  | .scratch q a => let z := s.slice q; s.setSlice q { z with way := memWriteN z.way a x n }
  | .remote t a => let k := s.core t; s.setCore t { k with ls := memWriteN k.ls a x n }

/-- The places of the words that an access at a place touches. -/
def Place.sites (pl : Place) (n : Nat) : List Site :=
  match pl with
  | .phys pa _ => (wordsOf pa n).map .mem
  | .scratch q a => (wordsOf a n).map (.way q)
  | _ => []

/-- The words of other bytes that an access at a place meets, by the key slot of its lines (R238). -/
def State.takenAt (s : State) (u : Use) (pl : Place) (n : Nat) : List Site :=
  match pl with
  | .phys pa p => if u == .write then s.taken p.key pa n else s.retaken p.key pa n
  | _ => []

/-- The words that an access at a place meets. -/
def State.placeSites (s : State) (u : Use) (pl : Place) (n : Nat) : List Site := pl.sites n ++ s.takenAt u pl n

/-! ### Paths over the fabric (R387, R393) -/

/-- The rail of a line. -/
def railOf (a : Nat) : Nat := bitsN a 10 7 ^^^ bitsN a 14 11
/-- The spine of a line within its rail. -/
def spineOf (a : Nat) : Nat := bitsN a 20 15

/-- Does the path between two packages over a rail and a spine use a link? -/
def linkUsed (l : FabricLink) (p q : Nat) (way : Nat × Nat) : Bool :=
  p != q && (match l with
    | .port x r => r.val == way.1 && (x == p || x == q)
    | .up r leaf spine => r.val == way.1 && spine == way.2 && p / 64 != q / 64 && (leaf == p / 64 || leaf == q / 64))

/-- Does the path between two packages over a rail and a spine use a switch? -/
def switchUsed (x : FabricSwitch) (p q : Nat) (way : Nat × Nat) : Bool :=
  p != q && (match x with
    | .leaf r l => r.val == way.1 && (l == p / 64 || l == q / 64)
    | .spine r y => r.val == way.1 && y == way.2 && p / 64 != q / 64)

/-- Has a part of a path failed? -/
def State.pathDown (s : State) (p q : Nat) (way : Nat × Nat) : Bool :=
  s.linksDown.any (linkUsed · p q way) || s.deadSw.any (switchUsed · p q way)

/-- Every rail with every spine. -/
def allWays : List (Nat × Nat) := (List.range 16).flatMap fun r => (List.range 64).map fun x => (r, x)

/-- The rail and the spine of a line's path between two packages: its own (R387), or, where a part of that has failed, one that
Gauntlet has chosen around the failures, the spec not saying which (R393). DESIGN CHOICE, log entry 59. -/
def State.wayOf (s : State) (p q a : Nat) : Nat × Nat :=
  let own := (railOf a, spineOf a)
  if s.pathDown p q own then
    let l := allWays.filter fun w => !s.pathDown p q w
    (l[Config.reroute (a / 128) p q % l.length]?).getD own
  else own

/-! ### Homes (R233, R234) -/

/-- XOR of the chunks of `w` bits of a physical address from bit 9 on. -/
def xorChunks (w pa : Nat) : Nat :=
  (List.range 7).foldl (fun acc k => acc ^^^ (pa % 2 ^ 52 / 2 ^ (9 + w * k) % 2 ^ w)) 0

/-- The hashed slice of a physical address (R233): the 7-bit chunks, or for a page with `local` the 5-bit chunks
within the die that owns the frame. -/
def hashedSlice (pkg : BitVec 12) (near : Bool) (pa : Nat) : SliceId :=
  if near && paGddr pa && paPkg pa == pkg.toNat then
    let d := paOff pa / 0x600000000
    let h := (List.range 9).foldl (fun acc k => acc ^^^ (pa % 2 ^ 52 / 2 ^ (9 + 5 * k) % 32)) 0
    Fin.ofNat 128 ((4 * (d / 2) + h / 8) * 16 + 8 * (d % 2) + h % 8)
  else Fin.ofNat 128 (xorChunks 7 pa)

/-- The home of a physical address: the hashed slice, unless its superblock has migrated (R234). -/
def State.home (s : State) (near : Bool) (pa : Nat) : SliceId :=
  match s.moved.find? (·.1 == pa / 512) with
  | some x => x.2.1
  | none => hashedSlice s.pkg near pa

/-- The slice of this package at which an access at a place is performed: none for a place in another package (R381), a fill page,
which no access reads from memory, and another core's local store. -/
def State.homeOf (s : State) (pl : Place) : Option SliceId :=
  match pl with
  | .phys pa p => if paPkg pa = s.pkg.toNat then some (s.home p.near pa) else none
  | .scratch q _ => some q
  | _ => none

/-- The slice of this package that keeps the line of a physical address: by the page through which the line was accessed last,
where the agent that asks goes through none. DESIGN CHOICE, log entry 90. -/
def State.memHome (s : State) (pa : Nat) : Option SliceId :=
  if paPkg pa = s.pkg.toNat then some (s.home (s.near.contains (pa / 512)) pa) else none

/-- The single-bit errors in some words of memory are corrected, each at its home (R236). -/
def State.correctWords (s : State) (l : List Site) : State :=
  if s.upsets.isEmpty then s else l.foldl (fun s u => s.correct (s.memHome u.pa) [u]) s

/-- Those that a read of memory under a key slot meets. -/
def State.correctMem (s : State) (key : Fin 128) (pa n : Nat) : State := s.correctWords (s.readSites key pa n)

/-- Those that a write to memory under a key slot meets. -/
def State.correctWrite (s : State) (key : Fin 128) (pa n : Nat) : State := s.correctWords (s.writeSites key pa n)

/-- The port at which the answer of a home enters the mesh: its slice's, or for one in another package that of the link of the rail
on which its path runs (R219, R387). -/
def State.homePort (s : State) (pkg : Nat) (q : SliceId) (pa : Nat) : Nat :=
  if pkg = s.pkg.toNat then slicePort q else railPort (s.wayOf s.pkg.toNat pkg pa).1

/-- Have the ports at which the homes of the `n` bytes of memory from `pa` on send their answers credit (R220)?
DESIGN CHOICE, log entry 13. -/
def State.memOpen (s : State) (pa n : Nat) : Bool :=
  s.buckets.isEmpty || (wordsOf pa n).all fun w =>
    s.portOpen (s.homePort (paPkg (8 * w)) (s.home (s.near.contains (8 * w / 512)) (8 * w)) (8 * w))

/-- Has the port at which the answer of a place enters the mesh credit (R220)? -/
def State.placeOpen (s : State) (pl : Place) : Bool :=
  match pl with
  | .phys pa p => s.portOpen (s.homePort (paPkg pa) (s.home p.near pa) pa)
  | .scratch q _ => s.portOpen (slicePort q)
  | .remote t _ => s.portOpen (corePort t)
  | .fill _ _ => true

/-- The ways register that governs a slice: that of the gang that holds its quad (R239). -/
def State.waysAt (s : State) (q : SliceId) : BitVec 32 := match s.gangs.find? fun g => g.onQuads && g.slices.contains q with
  | some g => g.ways
  | none => 0

/-- The ways of a slice in one use. -/
def State.waysIn (s : State) (q : SliceId) (use : Nat) : List Nat := waysOfUse (s.resvAt q) (s.waysAt q) use

/-- Is a superblock one that a slice of this package keeps a line of: in its own memory, by a cacheable page (R233, R234,
R381)? -/
def State.mayMigrate (s : State) (pa : Nat) (p : Page) : Bool := p.cache && paPkg pa == s.pkg.toNat

/-- A superblock of this package has been accessed through a page: whether that page's local bit chose its home (R233).
DESIGN CHOICE, log entry 90. -/
def State.noteNear (s : State) (pa : Nat) (p : Page) : State :=
  if paPkg pa != s.pkg.toNat || s.near.contains (pa / 512) == p.near then s
  else { s with near := if p.near then pa / 512 :: s.near else s.near.filter (· != pa / 512) }

/-- Can a superblock migrate to a slice: has the slice a cache way to hold it, and stands it in one at its home (R234)? -/
def State.canMove (s : State) (sb : Nat) (q : SliceId) : Bool :=
  !(s.waysIn q 0).isEmpty && (s.memHome (512 * sb)).any fun z => !(s.waysIn z 0).isEmpty

/-- Is a migration due: has one quad counted four accesses to a superblock that can move there (R234)? -/
def State.dueCount (s : State) (x : Nat × SliceId × Nat) : Bool := decide (4 ≤ x.2.2) && s.canMove x.1 x.2.1

/-- The counts of R234 after an access from the quad of a slice to a superblock: that of another quad is broken, unless its
migration is due. -/
def State.brokenBy (s : State) (q : SliceId) (sb : Nat) : List (Nat × SliceId × Nat) :=
  s.movCount.filter fun x => x.1 != sb || x.2.1 == q || s.dueCount x

/-- An access of an engine, a Mitten command or a dispatcher is no demand access: one from another quad than the one that
counts breaks its count (R234). -/
def State.breakCount (s : State) (c : CoreId) (pl : Place) : State :=
  match pl with
  | .phys pa p => ({ s with movCount := s.brokenBy (sliceOf c) (pa / 512) } : State).noteNear pa p
  | _ => s

/-- The entries of a page table that a walk of an address reads, from a table downward through the levels that are left. -/
def State.pathFrom (s : State) (va : Nat) : List (Nat × Nat) → Nat → List Nat
  | [], _ => []
  | (hi, lo) :: l, table =>
    let pa := table + 8 * bitsN va hi lo
    pa :: (match s.entry pa with
      | .ok e => if entryLeaf e then (if lo = 12 then [table + 8 * (bitsN va 20 12 / 16 * 16 + Config.pageEntry s.steps % 16)] else [])
        else s.pathFrom va l (entryPfn e)
      | .error _ => [])

/-- The entries that the walk of an address reads (R224, R228). -/
def State.walkReads (s : State) (asid : BitVec 16) (va : Nat) : List Nat :=
  let a := s.ptroot.toNat + 8 * asid.toNat
  a :: (match s.entry a with
    | .ok e => s.pathFrom va [(55, 39), (38, 30), (29, 21), (20, 12)] (bitsN e 51 20 * 2 ^ 20)
    | .error _ => [])

/-- A walk corrects the single-bit errors that it meets, each at the home of its entry (R229, R236). -/
def State.walked (s : State) (asid : BitVec 16) (va : Nat) : State :=
  if s.upsets.isEmpty then s else (s.walkReads asid va).foldl (fun s pa => s.correctMem 0 pa 8) s

/-- The walk of a core's quad breaks the counts of the superblocks that it reads (R234). -/
def State.walkedBy (s : State) (c : CoreId) (asid : BitVec 16) (va : Nat) : State :=
  let t := s.walked asid va
  if t.movCount.isEmpty then t
  else { t with movCount := t.movCount.filter fun x =>
    x.2.1 == sliceOf c || t.dueCount x || !(s.walkReads asid va).any fun pa => pa / 512 == x.1 }

/-- Must a walk wait: has a home of the entries that it reads no credit for its answer (R220)? -/
def State.walkShut (s : State) (asid : BitVec 16) (va : Nat) : Bool :=
  !s.buckets.isEmpty && decide (va < 2 ^ 56) && !(s.walkReads asid va).all fun pa => s.memOpen pa 8

/-- Must the translation of an agent wait for the walk, where no TLB of a core holds it? -/
def State.xlateShut (s : State) (c : CoreId) (asid : BitVec 16) (va : Nat) : Bool :=
  (s.tlbFind c asid va).isNone && s.walkShut asid va

/-- What a translation does where no TLB holds it: the walk. -/
def State.walkedFor (s : State) (c : CoreId) (asid : BitVec 16) (va : Nat) : State :=
  if 2 ^ 56 ≤ va ∨ (s.tlbFind c asid va).isSome then s else s.walkedBy c asid va

/-- A demand access from a quad to a superblock moves the count of R234: four in a row from one other quad make its migration
due, which later accesses leave as it is. One through a page that keeps no line in a slice counts nothing, and breaks the count of
another quad. DESIGN CHOICE, log entry 90. -/
def State.countAccess (s : State) (c : CoreId) (pl : Place) : State :=
  match pl with
  | .phys pa p =>
    let sb := pa / 512
    let q := sliceOf c
    let rest := s.movCount.filter (·.1 != sb)
    if !s.mayMigrate pa p || s.movCount.any (fun x => x.1 == sb && s.dueCount x) then s.breakCount c pl
    else if q = s.home p.near pa then ({ s with movCount := rest } : State).noteNear pa p
    else
      let n := match s.movCount.find? (·.1 == sb) with
        | some x => if x.2.1 = q then x.2.2 + 1 else 1
        | none => 1
      ({ s with movCount := (sb, q, min n 4) :: rest } : State).noteNear pa p
  | _ => s

/-! ### Accesses of engines, Mitten commands and dispatchers -/

/-- No fault: what an agent needs finds no credit at its home's port, so that the step waits (R220). No cause has this code. -/
def waits : WalkErr := ⟨0, none⟩

/-- Why an access of an agent ends: its fault, the address that is reported, and the state with all that the step has done up to it:
the parts before it, and the single-bit errors that it has met (R236). DESIGN CHOICE, log entry 110. -/
structure AgentErr where
  e  : WalkErr
  va : Word
  s  : State

/-- What an access of an agent gives. -/
abbrev AgentR (α : Type) := Except AgentErr α

/-- The place of the `n` bytes at `va` for an agent that translates through the TLBs of core `c` (R229, R319): its
fault, or the place, with the translation in the TLBs and single-bit errors corrected. It waits for the credit of the homes that
answer it (R220). -/
def State.agentPlace (s : State) (g : Gang) (c : CoreId) (u : Use) (va n : Nat) : AgentR (State × Place) :=
  let no := fun (e : WalkErr) (t : State) => (.error ⟨e, BitVec.ofNat 64 va, t⟩ : AgentR (State × Place))
  if inWindow va then
    match s.scratchAt g va with
    | .error e => no ⟨e, none⟩ s
    | .ok pl =>
      let t := s.correct (s.homeOf pl) (pl.sites n)
      if !s.placeOpen pl then no waits s
      else if s.hardAt (pl.sites n) then no ⟨cECCU, none⟩ t else .ok (t, pl)
  else if s.xlateShut c g.launch.asid va then no waits s
  else
    let w := s.walkedFor c g.launch.asid va
    match s.pageOf c g.launch.asid va with
    | .error e => no e w
    | .ok p => match s.placeIn u p va with
      | .error e => no ⟨e, none⟩ w
      | .ok pl =>
        let l := s.placeSites u pl n
        let t := ((w.fillTlb c p).correct (s.homeOf pl) l).breakCount c pl
        if !s.placeOpen pl then no waits s
        else if s.hardAt l then no ⟨cECCU, none⟩ t else .ok (t, pl)

/-- A read of `n` bytes that lie in one page. -/
def State.agentRead (s : State) (g : Gang) (c : CoreId) (va n : Nat) : AgentR (State × Nat) :=
  (s.agentPlace g c .read va n).map fun x => (x.1, x.1.readAt x.2 n)

/-- A read of `n` bytes, byte by byte, each in its own page. -/
def State.agentBytes (s : State) (g : Gang) (c : CoreId) (va : Word) : Nat → AgentR (State × Nat)
  | 0 => .ok (s, 0)
  | n + 1 => match s.agentRead g c va.toNat 1 with
    | .error e => .error e
    | .ok (t, x) => (t.agentBytes g c (va + 1) n).map fun y => (y.1, x + 256 * y.2)

/-- A read of at most a page's bytes, which may lie in two pages. -/
def State.agentReadAcross (s : State) (g : Gang) (c : CoreId) (va : Word) (n : Nat) : AgentR (State × Nat) :=
  if 4096 < va.toNat % 4096 + n then s.agentBytes g c va n else s.agentRead g c va.toNat n

/-- A write of `n` bytes that lie in one page. -/
def State.agentWrite (s : State) (g : Gang) (c : CoreId) (va n x : Nat) : AgentR State :=
  (s.agentPlace g c .write va n).map fun y => y.1.writeAt y.2 n x

/-- A write of `n` bytes, byte by byte, each in its own page. -/
def State.agentWriteBytes (s : State) (g : Gang) (c : CoreId) (va : Word) (x : Nat) : Nat → AgentR State
  | 0 => .ok s
  | n + 1 => match s.agentWrite g c va.toNat 1 (x % 256) with
    | .error e => .error e
    | .ok t => t.agentWriteBytes g c (va + 1) (x / 256) n

/-- A write of at most a page's bytes, which may lie in two pages. -/
def State.agentWriteAcross (s : State) (g : Gang) (c : CoreId) (va : Word) (n x : Nat) : AgentR State :=
  if 4096 < va.toNat % 4096 + n then s.agentWriteBytes g c va x n else s.agentWrite g c va.toNat n x

/-- An access of an agent to `n` bytes of a core's local store: single-bit errors are corrected, an uncorrectable one ends the
gang with ECCU (R236, R237). -/
def State.agentLs (s : State) (c : CoreId) (a n : Nat) : AgentR State :=
  match s.lsHard c a n with
  | some w => .error ⟨⟨cECCU, none⟩, w, s.lsCorrect c a n⟩
  | none => .ok (s.lsCorrect c a n)

/-- A fatal fault of a command (R362): fpc is its instruction, faddr the address, save for an error that a walk met. A step that
waits changes nothing. DESIGN CHOICE, log entry 110. -/
def State.agentFault (s : State) (gid : Nat) (c : CoreId) (ipc : Word) (x : AgentErr) : State :=
  if x.e = waits then s
  else match x.e.pa with
  | some pa => x.s.doom gid ⟨stFault, x.e.cause, 0, BitVec.ofNat 64 pa, BitVec.ofNat 32 (coreIdVal c), 0, 0⟩
  | none => x.s.fatal gid x.e.cause ipc x.va c

end Sys2Proof.Machine
end

