-- ==== Sys2Proof/Machine/Access.lean ====
section
/-!
DEFINITION. Sys2Proof/Machine/Access.lean: the shared operations over global accesses: the L1 (R231, R232), an access
from its issue to its translation (R378, R226), who waits for whom (R256, R259), what an access does at its home (R245 to
R249), and its end (R248, R259).
-/

namespace Sys2Proof.Machine

open Sys2Proof

/-! ### The L1 (R231, R232) -/

/-- The line of an L1 that holds an address. -/
def Core.l1Find (k : Core) (asid : BitVec 16) (va : Nat) : Option Line :=
  k.l1.find? fun l => l.asid == asid && l.va == va / 128 * 128

/-- The L1 without the line of an address. -/
def Core.l1Remove (k : Core) (asid : BitVec 16) (va : Nat) : Core :=
  { k with l1 := k.l1.filter fun x => !(x.asid == asid && x.va == va / 128 * 128) }

/-- A line enters the L1 in the place of one for the same address; the 128 KiB hold 1,024 lines (R231), and a full L1 gives
one up. -/
def Core.l1Put (k : Core) (victim : Nat) (l : Line) : Core :=
  { k with l1 := l :: makeRoom 1024 victim (k.l1Remove l.asid l.va).l1 }

/-- Replacing `n` bytes of a line from its byte `off` on. -/
def lineBytes (d : BitVec 1024) (off n x : Nat) : BitVec 1024 := putBits d (8 * off) (8 * n) x

/-- A store updates a line that is present and ordinary; it allocates none (R231). -/
def Core.l1Store (k : Core) (asid : BitVec 16) (va n x : Nat) : Core :=
  { k with l1 := k.l1.map fun l =>
      if l.asid == asid && l.va == va / 128 * 128 && !l.ro then { l with data := lineBytes l.data (va % 128) n x } else l }

/-- Does a line overlap `[lo, hi)`? -/
def Line.meets (l : Line) (lo hi : Nat) : Bool := decide (lo < hi) && decide (l.va < hi) && decide (lo < l.va + 128)

/-- ATOM, RED and REDV drop the ordinary lines that they touch; a line filled by LDRO stays (R231, R232).
DEDUCED, log entry 26. -/
def Core.l1Drop (k : Core) (asid : BitVec 16) (va n : Nat) : Core :=
  { k with l1 := k.l1.filter fun l => !(l.asid == asid && l.meets va (va + n)) || l.ro }

/-- An acquire drops every line that LDRO did not fill (R231). DEDUCED, log entry 26. -/
def Core.l1Acquire (k : Core) : Core := { k with l1 := k.l1.filter (·.ro) }

/-- May a page's lines enter an L1 (R231)? -/
def Page.inL1 (p : Page) : Bool := p.cache && !p.fill && (p.kind == kRC || p.kind == kUN)

/-! ### Reduction windows at the issuing package (R388, R389) -/

/-- How many packages are members of a window slot: the field, of which 0 stands for 4,096 (R388).
DEDUCED, log entry 68. -/
def Win.memberCount (w : Win) : Nat := if getBits w.mem 16 12 = 0 then 4096 else getBits w.mem 16 12

/-- Is the package a member of a window slot: one of first to first + count − 1 (R388)? DEDUCED, log entry 68. -/
def Win.member (w : Win) (pkg : BitVec 12) : Bool :=
  let first := getBits w.mem 0 12
  decide (first ≤ pkg.toNat) && decide (pkg.toNat < first + w.memberCount)

/-- The window slots in which a package takes part. -/
def State.liveWins (s : State) : List (Fin 4) :=
  ((List.range 4).map (Fin.ofNat 4)).filter fun w => s.wins[w].en && s.wins[w].member s.pkg

/-- The type code and the operation code that a window merges (R388, R389). -/
def Win.takes (w : Win) (op : Nat) (t : Ty) : Bool :=
  match w.op with
  | 0 => op == 8 && t == .f32
  | 1 => op == 0 && (t == .s64 || t == .n64)
  | 2 => op == 0 && (t == .s32 || t == .n32)
  | _ => false

/-- Does a physical address lie in a window? -/
def Win.holds (w : Win) (pa : Nat) : Bool :=
  let base := getBits w.range 30 10
  paPkg pa == w.homePkg && decide (base ≤ paOff pa / 2 ^ 30) && decide (paOff pa / 2 ^ 30 ≤ base + getBits w.range 40 6)

/-- The window that a RED element enters (R389). -/
def State.windowFor (s : State) (a : Access) (pl : Place) : Option (Fin 4) :=
  match a.req, pl with
  | .red op t _, .phys pa _ => s.liveWins.find? fun w => s.wins[w].holds pa && s.wins[w].takes op t
  | _, _ => none

/-! ### Kinds of access -/

/-- How an access uses its page (R226). -/
def Req.use : Req → Use
  | .store _ _ | .atom _ _ _ _ _ | .red _ _ _ => .write
  | .cloche _ _ _ => .cloche
  | _ => .read

/-- Does the access read or write data at its address: is it no PREF, CFLUSH, remote access or Cloche request?
DEDUCED, log entry 29. -/
def Req.isData : Req → Bool
  | .load _ _ _ | .store _ _ | .atom _ _ _ _ _ | .red _ _ _ => true
  | _ => false

/-- Does it take part in the order of R256 and R259 as an access to a location? PREF, CFLUSH and remote accesses do not. -/
def Req.ordered : Req → Bool
  | .pref _ | .flush _ _ => false
  | r => !r.isRemote

/-- Does the access write its location with no value returned? -/
def Req.isStore : Req → Bool
  | .store _ _ => true
  | _ => false

/-- Does a page give its accesses the order of SO? A fill page is constant and gives none (R256, R270). -/
def Page.so (p : Page) : Bool := p.kind == kSO && !p.fill

/-- Has an access the order of SO? -/
def Access.so (a : Access) : Bool := a.page.any Page.so

/-- Is its page UN? -/
def Access.un (a : Access) : Bool := match a.page with
  | some p => p.kind == kUN
  | none => false

/-- Has it been performed, or merged into a window? -/
def Access.performed (a : Access) : Bool := a.window.isSome || (match a.phase with
  | .done _ _ | .found _ => true
  | _ => false)

/-- Does it wait for its page walk? -/
def Access.walking (a : Access) : Bool := match a.phase with
  | .new | .walk _ _ | .bad _ => true
  | _ => false

/-- The place that an access goes to, as far as it has been translated. -/
def Access.place (a : Access) : Option Place := match a.phase with
  | .walk p _ | .sent p => some p
  | _ => none

/-- Is it an element of a reduction window: one that has entered its window, or is on its way there (R389)? -/
def State.merges (s : State) (a : Access) : Bool :=
  a.window.isSome || a.place.any fun p => (s.windowFor a p).isSome

/-- Do two accesses of one address space touch a common byte? -/
def Access.meets (a b : Access) : Bool :=
  a.asid == b.asid && decide (a.va.toNat < b.va.toNat + b.n) && decide (b.va.toNat < a.va.toNat + a.n)

/-! ### Who waits for whom (R256, R259) -/

/-- Is the request a TAKE or CPY, which may turn out an acquire (R284)? -/
def Req.mayAcquire : Req → Bool
  | .cloche _ (.take _ _) _ | .cloche _ (.cpy _ _) _ => true
  | _ => false

/-- Does an access hold the later global accesses of its firing: an acquire or an SO access that has not returned, or a TAKE
or CPY, which may turn out an acquire (R256, R259, R284)? DESIGN CHOICE, log entry 27. -/
def Access.blocks (a : Access) : Bool := a.req.ordered && (a.acq.isSome || a.so || a.req.mayAcquire)

/-- Must a global access of the running firing wait at issue: behind an acquire or an SO access, or for the credit of its
core's port? DESIGN CHOICE, log entry 27. -/
def State.globalHeld (s : State) : Bool := (s.ofFiring s.me.fid).any (·.blocks) || s.portShut

/-- Is the request an LDRO? Its reads of a location never go back in coherence order, whatever its page (R266). -/
def Req.isRo : Req → Bool
  | .load _ _ true => true
  | _ => false

/-- Is the access a release of its firing's earlier accesses at some scope: as its instruction says, or an SO access, at .sys
(R258)? -/
def Access.release (a : Access) : Option (Fin 5) := if a.so then some 4 else a.rel

/-- Is `x` an access of the same core as `a` to a common byte that has not been performed? -/
def Access.stands (x a : Access) : Bool := x.core == a.core && x.req.isData && a.req.isData && x.meets a && !x.performed

/-- Does a request write its location and return nothing? -/
def Req.silent : Req → Bool
  | .store _ _ | .red _ _ _ => true
  | _ => false

/-- Does the earlier access `x` let `a` be performed? In one firing an SO access stands in order with every other; a release
follows all that it completes, below .sys without the elements of reduction windows (R256, R259, R269). On one core accesses to
a common byte are performed in order. On a UN page one may pass an earlier write that returns nothing and has no FENCE behind it
(R256), but for an LDRO, which never goes back (R266); none passes a read there, which never returns a later write (R260).
DESIGN CHOICE, log entry 28. -/
def State.lets (s : State) (x a : Access) : Bool :=
  x.grp == a.grp || (
    (!(x.fire.fid == a.fire.fid && x.req.ordered) || !(a.so || x.so)) &&
    (match a.release with
      | some sc => !(x.fire.fid == a.fire.fid && x.req.drains) || (sc != 4 && s.merges x)
      | none => true) &&
    (!x.stands a || (a.un && x.req.silent && !x.fenced && !a.req.isRo)))

/-- May an access be performed, as the earlier ones stand? -/
def State.mayPerform (s : State) (a : Access) : Bool := (s.flight.takeWhile (·.id != a.id)).all fun x => s.lets x a

/-! ### An access from issue to translation -/

/-- An access of the running firing, before its translation. -/
def State.mkAccess (s : State) (va : Word) (n : Nat) (req : Req) (acq rel : Option (Fin 5)) : Access where
  id     := s.nextId
  grp    := s.nextId
  core   := s.cur
  fire   := s.me.fire.getD ⟨0, .normal, 0⟩
  gang   := s.me.gang.getD 0
  ipc    := s.me.pc
  va     := va
  n      := n
  asid   := match s.gangAt s.me with
    | some g => g.launch.asid
    | none => 0
  req    := req
  acq    := acq
  rel    := rel
  phase  := .new
  page   := none
  fenced := false
  window := none
  stream := false
  pre    := false
  atL1   := false

/-- The access of a number. -/
def State.access (s : State) (id : Nat) : Option Access := s.flight.find? (·.id == id)

/-- Replacing an access. -/
def State.setAccess (s : State) (a : Access) : State :=
  { s with flight := s.flight.map fun x => if x.id = a.id then a else x }

/-- An access leaves the list: it has completed or is dropped. -/
def State.dropAccess (s : State) (id : Nat) : State := { s with flight := s.flight.filter (·.id != id) }

/-- The place of an access and the page that it uses, or its fault (R221 to R226, R241). -/
def State.target (s : State) (a : Access) : Except WalkErr (Place × Option Page) :=
  if inWindow a.va.toNat then
    match a.req.use, s.gangOf a.gang with
    | .cloche, _ => .error ⟨cCLOCHE, none⟩
    | _, none => .error ⟨cSCRX, none⟩
    | _, some g => match s.scratchAt g a.va.toNat with
      | .ok p => .ok (p, none)
      | .error c => .error ⟨c, none⟩
  else match s.pageOf a.core a.asid a.va.toNat with
    | .error e => .error e
    | .ok p => match s.placeIn a.req.use p a.va.toNat with
      | .ok pl => .ok (pl, some p)
      | .error c => .error ⟨c, none⟩

/-- A fault found on an access (R244, R362): a PREF is ignored; any other access ends its gang, and is dropped without
an acknowledgement (R379). -/
def State.accessFault (s : State) (a : Access) (e : WalkErr) : State :=
  let t := s.dropAccess a.id
  match a.req, e.pa with
  | .pref _, _ => t
  | _, some pa => t.doom a.gang ⟨stFault, e.cause, 0, BitVec.ofNat 64 pa, BitVec.ofNat 32 (coreIdVal a.core), 0, 0⟩
  | _, none => t.fatal a.gang e.cause a.ipc a.va a.core

/-- The physical address of an access that goes through a page. -/
def Access.pa (a : Access) : Option Nat := a.page.map fun p => p.pa a.va.toNat

/-- Is a reduction of a core to the line of a physical address merged in a window, by whatever address the core named it (R260,
R264, R389)? -/
def State.mergesInto (s : State) (c : CoreId) (pa : Nat) : Bool :=
  s.flight.any fun x => x.core == c && x.window.isSome && x.pa.any fun y => y / 128 == pa / 128

/-- The bytes of a line as the L1 of `a`'s core takes them: memory, and the core's own stores that are under way. None
where an atomic of the core to the line is under way, or a reduction that the home of its window has not performed.
DESIGN CHOICE, log entry 28. -/
def State.lineFor (s : State) (a : Access) (p : Page) : Option (BitVec 1024) :=
  let lo := a.va.toNat / 128 * 128
  let own := s.flight.filter fun x => x.core == a.core && x.asid == a.asid && x.req.isData && !x.performed &&
    decide (lo ≤ x.va.toNat) && decide (x.va.toNat < lo + 128)
  if s.mergesInto a.core (p.pa lo) || own.any fun x => match x.req with
    | .atom _ _ _ _ _ | .red _ _ _ => true
    | _ => false then none
  else some (own.foldl (fun d x => match x.req with
      | .store n v => lineBytes d (x.va.toNat - lo) n v
      | _ => d) (BitVec.ofNat 1024 (s.physRead p.key (p.pa lo) 128)))

/-- A load or a PREF.l1 brings its line into the L1 (R231, R232), but for one with the hint stream (R62). Behind such a load, which
has read the home, and where the bytes that the core would see there cannot be known yet, no line of the address stays.
DESIGN CHOICE, log entry 28. -/
def State.fillL1 (s : State) (a : Access) (ro : Bool) : State :=
  match a.page with
  | none => s
  | some p =>
    if !p.inL1 then s
    else match (if a.stream then none else s.lineFor a p) with
      | none => s.setCore a.core ((s.core a.core).l1Remove a.asid a.va.toNat)
      | some d => s.setCore a.core ((s.core a.core).l1Put (Config.victim s.steps) ⟨a.asid, a.va.toNat / 128 * 128, ro, d⟩)

/-- The value that a load delivers: integers by their type, floats as bits (R245). -/
def loadVal (t : Ty) (x : Nat) : Nat := wrapI 64 (t.val x)

/-- May a load be served from the L1, and with what value (R231, R232, R257)? An ordinary line serves LD and LDRO; a
line filled by LDRO serves LDRO alone; an acquire at .quad or wider reads at the home. So does a load behind an access of its
core to the same bytes that returns a value, behind a write of another firing, which may release others (R260), behind any on a UN
page, where writes change places (R254, R256), and one before a store of its core there. DESIGN CHOICE, log entry 28. -/
def State.l1Hit (s : State) (a : Access) : Option Nat :=
  match a.req with
  | .load _ t ro =>
    let wide := match a.acq with
      | some sc => sc != 0
      | none => false
    let earlier := (s.flight.takeWhile (·.id != a.id)).any fun x =>
      x.stands a && (!x.req.isStore || x.fire.fid != a.fire.fid || a.un)
    let later := ((s.flight.dropWhile (·.id != a.id)).drop 1).any fun x => x.stands a && x.req.isStore
    if wide || earlier || later then none
    else match (s.core a.core).l1Find a.asid a.va.toNat with
      | some l => if l.ro && !ro then none else some (loadVal t (getBits l.data (8 * (a.va.toNat % 128)) (8 * a.n)))
      | none => none
  | _ => none

/-! ### Region descriptors (R271 to R273) -/

/-- The match order of a region: 0 FIFO, 1 PRIORITY, 2 LIFO. -/
def dscOrder (d : BitVec 512) : Nat := getBits d 16 2
/-- The scope of a region. -/
def dscScope (d : BitVec 512) : Fin 5 := Fin.ofNat 5 (getBits d 19 3)
/-- The capacity of a region at each home. -/
def dscCap (d : BitVec 512) : Nat := getBits d 32 32
/-- The package that holds a region's slices. -/
def dscPkg (d : BitVec 512) : Nat := getBits d 64 12

/-- The slices of a region, ascending. -/
def dscSlices (d : BitVec 512) : List SliceId :=
  ((List.range 128).filter fun i => d.getLsbD (128 + i)).map (Fin.ofNat 128)

/-- Is a descriptor well-formed (R272)? -/
def State.dscOk (s : State) (d : BitVec 512) : Bool :=
  getBits d 0 16 == 0xC10C && dscOrder d != 3 && decide (getBits d 19 3 < 5) &&
  decide (1 ≤ dscCap d) && decide (dscCap d ≤ 65536) && !(dscSlices d).isEmpty &&
  (dscPkg d == s.pkg.toNat || s.pod.contains (dscPkg d))

/-- The descriptor that a list of cached ones holds for an address; zero, which is none, where it holds none. -/
def descIn (l : List Desc) (asid : BitVec 16) (va : Nat) : BitVec 512 :=
  match l.find? fun d => d.asid == asid && d.va == va with
  | some d => d.data
  | none => 0

/-- A descriptor enters a core's descriptor cache. -/
def Core.cacheDesc (k : Core) (d : Desc) : Core := if k.cdesc.contains d then k else { k with cdesc := d :: k.cdesc }

/-- Is the request a deposit, which is a release at its region's scope (R284)? -/
def CReq.isDeposit : CReq → Bool
  | .dep _ | .depw _ _ => true
  | _ => false

/-- A Cloche request has its descriptor: it goes on to its home, or ends its gang with CLOCHE (R272). -/
def State.sendCloche (s : State) (a : Access) (d : Operand) (q : CReq) (pl : Place) (dsc : BitVec 512) : State :=
  if !s.dscOk dsc then s.accessFault a ⟨cCLOCHE, none⟩
  else
    s.setAccess { a with
      phase := .sent pl, req := .cloche d q dsc
      rel := if q.isDeposit then some (dscScope dsc) else none }

/-- A well-formed descriptor that a Cloche request has read enters its core's cache. -/
def State.keepRegion (s : State) (a : Access) (dsc : BitVec 512) : State :=
  if s.dscOk dsc then s.setCore a.core ((s.core a.core).cacheDesc ⟨a.asid, a.va.toNat, dsc⟩) else s

/-- A Cloche request uses the descriptor that its core held when it issued, or else the block in memory, which then enters the
core's cache (R237, R273), and for which it waits where its home has no credit (R220). -/
def State.bindDesc (s : State) (a : Access) (d : Operand) (q : CReq) (held : BitVec 512) (pl : Place) : State :=
  if held ≠ 0 then s.sendCloche a d q pl held
  else if !s.placeOpen pl then s.setAccess { a with phase := .walk pl false }
  else
    let l := s.placeSites .cloche pl 64
    let t := s.correct (s.homeOf pl) l
    if s.hardAt l then t.accessFault a ⟨cECCU, none⟩
    else
      let dsc := BitVec.ofNat 512 (s.readAt pl 64)
      ((t.countAccess a.core pl).keepRegion a dsc).sendCloche a d q pl dsc

/-- An access has its translation: a Cloche request takes its descriptor; a load is served by the L1 of its core (R231); any
other is sent to its place. -/
def State.arrive (s : State) (a : Access) (pl : Place) : State :=
  match a.req with
  | .cloche d q held => s.bindDesc a d q held pl
  | _ => match (if a.page.any (·.inL1) then s.l1Hit a else none) with
    | some v => s.setAccess { a with phase := .done v 0, atL1 := true }
    | none => s.setAccess { a with phase := .sent pl }

/-- The page of an access enters the TLBs. -/
def State.keepPage (s : State) (a : Access) : State := match a.page with
  | some p => s.fillTlb a.core p
  | none => s

/-- PAGE_WALK (R226, R229, R230): the walk of a translation ends; its page enters the TLBs, and the access goes on or
faults. It waits for the credit of the homes whose entries it reads (R220); a Cloche request that has only waited for its descriptor
walks no more. DEDUCED, log entry 69. -/
def State.walkStep (s : State) (id : Nat) : State :=
  match s.access id with
  | none => s
  | some a =>
    let shut := s.walkShut a.asid a.va.toNat
    let t := s.walkedBy a.core a.asid a.va.toNat
    match a.phase with
    | .bad e => if shut then s else t.accessFault a e
    | .walk pl fill =>
      if a.req.use == .cloche && (s.tlbFind a.core a.asid a.va.toNat).isSome then s.arrive a pl
      else if shut then s
      else (if fill then t.keepPage a else t).arrive a pl
    | _ => s

/-- Does the access need no walk: does a TLB of its core or its quad hold its page, or does it go to the slice window? -/
def State.tlbHit (s : State) (a : Access) : Bool :=
  inWindow a.va.toNat || decide (2 ^ 56 ≤ a.va.toNat) || (s.tlbFind a.core a.asid a.va.toNat).isSome

/-- An access takes its translation in the cycle in which it issues (R378); where no TLB holds it, the access then waits for
the walk. DEDUCED, log entry 69. -/
def State.translate (s : State) (a : Access) : State :=
  match s.target a with
  | .error e => if s.tlbHit a then s.accessFault a e else s.setAccess { a with phase := .bad e }
  | .ok (pl, p) =>
    let a := { a with page := p }
    if s.tlbHit a then (s.keepPage a).arrive a pl else s.setAccess { a with phase := .walk pl true }

/-- An access issues: it joins those under way and is translated. -/
def State.pushAccess (s : State) (a : Access) : State :=
  ({ s with flight := s.flight ++ [a], nextId := s.nextId + 1 } : State).translate a

/-! ### At the home (R245 to R249) -/

/-- The new value of an atomic update of code `op` (R196, R246, R248), with its flags. -/
def atomNew (t : Ty) (op old v cmp : Nat) : Nat × FpFlags :=
  let w := t.width
  let a := t.val old
  let b := t.val v
  match op with
  | 0 => (wrapI w (a + b), 0)
  | 1 => (old &&& v % 2 ^ w, 0)
  | 2 => (old ||| v % 2 ^ w, 0)
  | 3 => (old ^^^ v % 2 ^ w, 0)
  | 4 => (wrapI w (min a b), 0)
  | 5 => (wrapI w (max a b), 0)
  | 6 => (v % 2 ^ w, 0)
  | 7 => (if a = t.val cmp then v % 2 ^ w else old, 0)
  | _ =>
    let (x, f) := XVal.add false (Ty.f32.decodeF false old) (Ty.f32.decodeF false (v % 2 ^ 32))
    let (r, st) := roundTo ⟨.rne, false, false⟩ .f32 x ⟨1, f⟩
    (r, st.flags)

/-- An access at its place: the memory after it, the value it returns, and its flags. -/
def State.effect (s : State) (a : Access) (pl : Place) : State × Nat × FpFlags :=
  match a.req with
  | .load _ t _ => (s, loadVal t (s.readAt pl a.n), 0)
  | .rld _ t => (s, loadVal t (s.readAt pl a.n), 0)
  | .store n x => (s.writeAt pl n x, 0, 0)
  | .rst n x => (s.writeAt pl n x, 0, 0)
  | .atom op t v cmp _ =>
    let old := s.readAt pl a.n
    let (x, f) := atomNew t op old v.toNat cmp.toNat
    (s.writeAt pl a.n x, loadVal t old, f)
  | .ratom op t v cmp _ =>
    let old := s.readAt pl a.n
    let (x, f) := atomNew t op old v.toNat cmp.toNat
    (s.writeAt pl a.n x, loadVal t old, f)
  | .red op t v =>
    let (x, f) := atomNew t op (s.readAt pl a.n) v.toNat 0
    (s.writeAt pl a.n x, 0, f)
  | _ => (s, 0, 0)

/-! ### The end of an access -/

/-- An acquire at .quad or wider, and an SO access, which is one at .sys, drop the ordinary L1 lines of the core (R256,
R259). -/
def State.acquireEnd (s : State) (a : Access) : State :=
  let wide := a.so || a.acq.any (· != 0)
  if wide then s.setCore a.core (s.core a.core).l1Acquire else s

/-- The end of a write that returns nothing: the census falls when the last element of its instruction is acknowledged
(R204, R247), and the flags of a RED are held by the core (R248). -/
def State.ackEnd (s : State) (a : Access) (f : FpFlags) : State :=
  let t := (s.dropAccess a.id).acquireEnd a
  let k := t.core a.core
  let u := t.setCore a.core (match a.req with
    | .red _ _ _ => { k with heldFlags := k.heldFlags ||| f }
    | _ => k)
  if u.flight.any (·.grp == a.grp) then u else u.lower a.gang 1

end Sys2Proof.Machine
end

