-- ==== Sys2Proof/Machine/Actors.lean ====
section
/-!
DEFINITION. Sys2Proof/Machine/Actors.lean: the meanings of class 0xA (R189 to R192, R196 to R199) and the steps of
firings and tokens: FIRING_SELECT (R182 to R184), TRAP_ACTOR_START (R357) and TOKEN_VISIBLE (R186, R187, R193).
-/

namespace Sys2Proof.Machine

open Sys2Proof

/-! ### The check of step 3 (R72, R189, R192) -/

/-- CHAN with the number of an undeclared port. -/
def chan (port : Nat) : Option (Byte × Word) := some (cCHAN, BitVec.ofNat 64 port)

/-- An output port that the current actor must declare. -/
def needOut (x : Operand) (s : State) : Option (Byte × Word) :=
  if (s.outPort x.portNo.val).isSome then none else chan x.portNo.val

/-- An input port that the current actor must declare. -/
def needIn (x : Operand) (s : State) : Option (Byte × Word) :=
  if (s.inPort x.portNo.val).isSome then none else chan x.portNo.val

/-- The ports of STEER and MERGE: `n` from the first one on. -/
def portSet (x : Operand) (o : Ops) : List Nat := (List.range (o.mod 0 4 + 1)).map fun i => x.portNo.val + i

/-- The ports of STEER must all be outputs. -/
def steerPre (o : Ops) (s : State) : Option (Byte × Word) :=
  match (portSet o.o0 o).find? fun p => (s.outPort p).isNone with
  | some p => chan p
  | none => none

/-- The ports of MERGE must all be merge inputs. -/
def mergePre (o : Ops) (s : State) : Option (Byte × Word) :=
  match (portSet o.o2 o).find? fun p => decide (p < 8) || (s.inPort p).isNone with
  | some p => chan p
  | none => none

/-! ### Sending (R190) -/

/-- A token goes out on a port: the firing waits while its instance has no free slot or its core's port no credit; the token's release covers the
remote writes that are not acknowledged yet (R187). -/
def sendOn (port : Nat) (v : Word) (s : State) : Act :=
  match s.gangAt s.me, s.outPort port with
  | some g, some (r, ch) => if g.free r ch = 0 ∨ s.portShut then .wait else .go (s.enqueue g.gid r v s.remoteWrites)
  | _, _ => .wait

/-- SEND (R190). -/
def execSend (h : Hdr) (o : Ops) (s : State) : Out :=
  issue h o (needOut o.o0) (fun s => sendOn o.o0.portNo.val (s.me.word o.o1 o.sext) s) s

/-- STEER (R190): the port is chosen by op1 modulo n. -/
def execSteer (h : Hdr) (o : Ops) (s : State) : Out :=
  issue h o (steerPre o) (fun s =>
    sendOn (o.o0.portNo.val + (s.me.word o.o1 0).toNat % (o.mod 0 4 + 1)) (s.me.word o.o2 o.sext) s) s

/-! ### Receiving (R191) -/

/-- The head token of an input port. -/
def State.headOf (s : State) (port : Nat) : Option Word :=
  match s.gangAt s.me, s.inPort port with
  | some g, some (r, _) => g.headTok r
  | _, _ => none

/-- The head token of an input port leaves its instance. -/
def State.takeFrom (s : State) (port : Nat) : State :=
  match s.gangAt s.me, s.inPort port with
  | some g, some (r, _) => s.dequeue g.gid r
  | _, _ => s

/-- RECV: it waits for a token, and for the credit of its core's port (R220). DEDUCED, log entry 40. -/
def recvAct (o : Ops) (s : State) : Act :=
  if s.portShut then .wait
  else match s.headOf o.o1.portNo.val with
  | none => .wait
  | some v =>
    let t := s.takeFrom o.o1.portNo.val
    .go (t.setMe (t.me.setWord o.o0 v))

/-- RECV (R191). -/
def execRecv (h : Hdr) (o : Ops) (s : State) : Out := issue h o (needIn o.o1) (recvAct o) s

/-- PEEK: it neither waits for a token nor dequeues one; like every channel instruction it waits for the credit of its core's port
(R220). -/
def peekAct (o : Ops) (s : State) : Act :=
  let v := s.headOf o.o2.portNo.val
  if s.portShut then .wait else .go (s.setMe ((s.me.setWord o.o0 (v.getD 0)).setPred o.o1 v.isSome))

/-- PEEK (R191). -/
def execPeek (h : Hdr) (o : Ops) (s : State) : Out := issue h o (needIn o.o2) (peekAct o) s

/-- MERGE: the scan of R191 over the ports that hold a token, and the rotation point that it leaves; it waits for the credit of its
core's port (R220). DEDUCED, log entry 23. -/
def mergeAct (o : Ops) (s : State) : Act :=
  let slot := s.me.slot
  if s.portShut then .wait
  else match scanPorts s.me.rot[slot] ((portSet o.o2 o).filter fun p => (s.headOf p).isSome) with
  | none => .wait
  | some p =>
    let v := (s.headOf p).getD 0
    let t := s.takeFrom p
    .go (t.setMe (((t.me.setRot slot p).setWord o.o0 v).setWord o.o1 (BitVec.ofNat 64 p)))

/-- MERGE (R191). -/
def execMerge (h : Hdr) (o : Ops) (s : State) : Out := issue h o (mergePre o) (mergeAct o) s

/-! ### Remote local-store access (R195 to R198) -/

/-- The core that a selector names (R195). -/
def State.selected (s : State) (sel : Word) : CoreId :=
  match s.gangAt s.me with
  | some g => g.coreAt ((sel.toNat % 256) % (2 * g.launch.w)) ((sel.toNat / 256 % 256) % (2 * g.launch.h))
  | none => s.cur

/-- A remote access: its type, its alignment and range, the wait for the credit of its core's port (R220), then its issue. -/
def remoteAct (tyOk : Bool) (t : Ty) (sel addr : Word) (req : Req) (counted : Bool) (s : State) : Act :=
  let n := t.width / 8
  if !tyOk then illfmt 5
  else if !lsOk addr.toNat n then .trap cALIGN addr
  else if s.portShut then .wait
  else
    let a := { s.mkAccess addr n req none none with phase := .sent (.remote (s.selected sel) addr.toNat) }
    let u : State := { s with flight := s.flight ++ [a], nextId := s.nextId + 1 }
    .go (if counted then u.raise a.gang 1 else u)

/-- RLD (R197). -/
def execRld (h : Hdr) (o : Ops) (s : State) : Out :=
  issue h o noPre (fun s =>
    let t := o.ty 0
    remoteAct t.isScalar t (s.me.word o.o1 0) (addOff (s.me.word o.o2 0) o.imm) (.rld o.o0 t) false s) s

/-- RST (R197): counted until it is acknowledged (R204). -/
def execRst (h : Hdr) (o : Ops) (s : State) : Out :=
  issue h o noPre (fun s =>
    let t := o.ty 0
    remoteAct t.isScalar t (s.me.word o.o0 0) (addOff (s.me.word o.o1 0) o.imm)
      (.rst (t.width / 8) ((s.me.word o.o2 0).toNat % 2 ^ t.width)) true s) s

/-- RATOM (R197). -/
def execRatom (h : Hdr) (o : Ops) (s : State) : Out :=
  issue h o noPre (fun s =>
    let t := o.ty 0
    let ok := t == .s32 || t == .n32 || t == .s64 || t == .n64
    remoteAct ok t (s.me.word o.o1 0) (addOff (s.me.word o.o2 0) o.imm)
      (.ratom (o.mod 5 4) t (s.me.word o.o3 0) (s.me.word o.o4 0) o.o0) false s) s

/-! ### The barrier (R199) -/

/-- The participant count of a BARG, clamped. -/
def Gang.participants (g : Gang) (p : Word) : Nat := max 1 (min p.toNat (4 * g.launch.w * g.launch.h))

/-- Every waiting core of a filled generation continues, and the next generation begins empty. -/
def State.barRelease (s : State) (g : Gang) : State :=
  let t := s.setGang { g with barCount := none, barIn := [] }
  g.barIn.foldl (fun s x =>
    let c := g.coreAt x.1 x.2
    s.setCore c { s.core c with hold := none }) t

/-- The arrival of the core whose turn it is. -/
def State.barArrive (s : State) (g : Gang) (p : Nat) : State :=
  let p := g.barCount.getD p
  let g := { g with barCount := some p, barIn := g.barIn ++ [(s.me.gx, s.me.gy)] }
  let t := (s.setGang g).setMe { s.me with hold := some .barrier }
  if p ≤ g.barIn.length then t.barRelease g else t

/-- BARG: it issues and arrives once the firing's remote writes are acknowledged, and while its core's port has credit (R199, R220). -/
def bargAct (o : Ops) (s : State) : Act :=
  match s.gangAt s.me with
  | none => .wait
  | some g =>
    if s.remoteWrites.isEmpty && !s.portShut then .go (s.barArrive g (g.participants (s.me.word o.o0 o.sext))) else .wait

/-- BARG (R199). -/
def execBarg (h : Hdr) (o : Ops) (s : State) : Out := issue h o noPre (bargAct o) s

/-! ### FIRING_SELECT (R182 to R184) -/

/-- The slots in the order of the search at a priority: from the one after the slot that last fired at it (R183). -/
def slotOrder (last : Fin 8) : List (Fin 8) := (List.range 8).map fun i => Fin.ofNat 8 (last.val + 1 + i)

/-- The actor that the selector picks: of the ready ones the highest priority, and in it the first slot of the search. -/
def Gang.pick (g : Gang) (k : Core) : Option (Nat × Actor) :=
  let at_ := fun (p : Fin 4) =>
    ((slotOrder k.last[p]).filterMap (g.readyIn k)).find? fun x => x.2.prio == p
  [3, 2, 1, 0].findSome? at_

/-- The port whose token enters s0: the first declared input, or the merge input that the rotation of R191 chooses. -/
def Gang.entryPort (g : Gang) (k : Core) (i : Nat) (a : Actor) : Option Nat :=
  match a.firstIn with
  | none => none
  | some p =>
    if p.val < 8 then some p.val
    else scanPorts k.rot[a.slot] ((List.range 16).filter fun p => decide (8 ≤ p) && (match g.inOf i k.gx k.gy p with
      | some x => g.fed x
      | none => false))

/-- The firing of an actor begins on a core (R25). -/
def Core.enter (k : Core) (image : Word) (a : Actor) (fid : Nat) (s0 : Word) (tick : Nat) : Core :=
  { k.setS 0 s0 with
    fire := some ⟨a.slot, .normal, fid⟩
    pc := image + BitVec.ofNat 64 a.entry
    last := k.last.set a.prio a.slot
    issueMark := tick }

/-- The entry of R184: the first firing of actor 0 takes the argument address; every other firing takes a token, where
its actor declares an input. DEDUCED, log entry 40. -/
def State.enter (s : State) (c : CoreId) (g : Gang) (i : Nat) (a : Actor) : State :=
  let k := s.core c
  let next (s : State) (f : Core → Core) (s0 : Word) : State :=
    ({ s.setCore c ((f (s.core c)).enter g.launch.image a s.nextId s0 s.tick) with
        nextId := s.nextId + 1 } : State).stampCore c
  if i = 0 ∧ k.first0 then next s (fun k => { k with first0 := false }) g.launch.arg
  else match g.entryPort k i a with
    | none => next s id 0
    | some p =>
      match g.inOf i k.gx k.gy p with
      | none => next s id 0
      | some (r, _) =>
        next (s.dequeue g.gid r) (fun k => if 8 ≤ p then k.setRot a.slot p else k) ((g.headTok r).getD 0)

/-- FIRING_SELECT (R182 to R184): on a core where no firing runs. An engine fault that waits goes first (R357); a value still
on its way to s0 is of no effect (R7, R25). DEDUCED, log entry 63. -/
def selectStep (c : CoreId) (s : State) : State :=
  let k := s.core c
  match k.fire, s.gangAt k with
  | none, some g =>
    if g.phase != .resident || !g.active || k.engFault then s
    else match g.pick k with
      | some (i, a) => (s.dropS0 c).enter c g i a
      | none => s
  | _, _ => s

/-- FIRING_SELECT (R183). -/
def execFiringSelect (c : CoreId) (s : State) : Out := .next (selectStep c s)

/-- TRAP_ACTOR_START (R357): the trap actor's first instruction may issue. -/
def execTrapActorStart (c : CoreId) (s : State) : Out := .next (s.setCore c { s.core c with starting := false })

/-! ### TOKEN_VISIBLE (R186, R187, R193) -/

/-- The instance that holds a token. -/
def Gang.instOf (g : Gang) (id : Nat) : Option Inst := g.insts.find? fun x => x.toks.any (·.id == id)

/-- May a token become visible: are those before it visible, and the writes that its release waits for acknowledged? -/
def State.tokenFree (s : State) (x : Inst) (id : Nat) : Bool :=
  (x.toks.takeWhile (·.id != id)).all (·.visible) &&
  (x.toks.filter (·.id == id)).all fun t => t.after.all fun a => (s.access a).isNone

/-- A token becomes visible to its consumer. -/
def Gang.reveal (g : Gang) (id : Nat) : Gang :=
  { g with insts := g.insts.map fun x =>
      { x with toks := x.toks.map fun t => if t.id = id then { t with visible := true } else t } }

/-- TOKEN_VISIBLE (R186). -/
def tokenStep (id : Nat) (s : State) : State :=
  match s.gangs.findSome? fun g => (g.instOf id).map fun x => (g, x) with
  | none => s
  | some (g, x) => if s.tokenFree x id && g.onQuads then (s.setGang (g.reveal id)).stampInst g.gid x.ref else s

/-- TOKEN_VISIBLE (R186). -/
def execTokenVisible (id : Nat) (s : State) : Out := .next (tokenStep id s)

end Sys2Proof.Machine
end

