-- ==== Sys2Proof/Machine/Ways.lean ====
section
/-!
DEFINITION. Sys2Proof/Machine/Ways.lean: what leaves the ways of a slice: tuples on their way to the backing area (R277), lines that
are written back (R234, R236, R237), and the change of a gang's partition, WAYS_WRITE (R240).
-/

namespace Sys2Proof.Machine

open Sys2Proof

/-- Does a way of a slice change its use? -/
def wayChanges (resv : Fin 5) (old new : BitVec 32) (i : Nat) : Bool := decide (i < 16 - resv.val) && wayUse old i != wayUse new i

/-- Some errors enter the error log of a slice (R236, R237). -/
def State.logErrors (s : State) (q : SliceId) (n : Nat) : State := s.setSlice q { s.slice q with errors := (s.slice q).errors + n }

/-- Tuples of a slice of this package leave some places of its Cloche ways for the backing area: the single-bit errors there are
corrected and counted, and an uncorrectable one, which no access waits on, enters the error log and is counted for its package error
(R236, R237, R277). DEDUCED, log entry 57. -/
def State.spill (s : State) (q : SliceId) (l : List (Fin 262144)) : State :=
  if s.upsets.isEmpty then s
  else
    let sites := l.flatMap (chipSites q)
    let t := s.correct (some q) sites
    let n := (t.upsets.filter fun u => u.hard && sites.contains u.site).length
    { t.logErrors q n with storeErrs := t.storeErrs + n }

/-- The words of a superblock (R233). -/
def superWords (sb : Nat) : List Site := (wordsOf (512 * sb) 512).map .mem

/-- A slice writes some words back: the single-bit errors in them are corrected and counted, and the uncorrectable ones stand over until
the next step reports them (R236, R237, R240). DEDUCED, log entry 57. -/
def State.writeWords (s : State) (q : SliceId) (l : List Site) : State :=
  if s.upsets.isEmpty then s
  else
    let t := s.correct (some q) l
    { t with backErrs := t.backErrs ++ t.upsets.filterMap fun u => match u.site with
      | .mem w => if u.hard && l.contains u.site then some (q, w) else none
      | _ => none }

/-- It writes a superblock back. -/
def State.writeBack (s : State) (q : SliceId) (sb : Nat) : State := s.writeWords q (superWords sb)

/-- The words with errors of the lines that stand dirty in a slice that is their hashed home. DESIGN CHOICE, log entry 108. -/
def State.dirtyWords (s : State) (q : SliceId) : List Site :=
  (s.upsets.map (·.site)).filter fun u => match u with
    | .mem w => Config.dirty s.steps (w / 16) && !s.moved.any (·.1 == w / 64) && s.memHome (8 * w) == some q
    | _ => false

/-- A slice writes back the dirty lines of the ways that it gives up, which stand at their hashed home (R236, R237, R240, R369).
DESIGN CHOICE, log entry 108. -/
def State.dropLines (s : State) (q : SliceId) : State := s.writeWords q (s.dirtyWords q)

/-- The places of tuples that one list of stored tuples has and another, of the same slice, has not. -/
def chipsLeft (old new : List Stored) : List (Fin 262144) :=
  (old.filter fun x => !new.any fun y => y.seq == x.seq && y.chip == x.chip).filterMap (·.chip)

/-- The superblocks that have migrated for which `p` holds are written back, each by the slice that keeps it, and have their hashed
homes again (R234, R236, R237). -/
def State.sendHome (s : State) (p : Nat × SliceId × Nat → Bool) : State :=
  let t := (s.moved.filter p).foldl (fun (s : State) x => s.writeBack x.2.1 x.1) s
  { t with moved := t.moved.filter fun x => !p x }

/-- Does a way of a slice leave cache use? -/
def wayLeaves (resv : Fin 5) (old new : BitVec 32) (i : Nat) : Bool := wayUse old i == 0 && wayChanges resv old new i

/-- What the change of a partition leaves at a slice: no error in a way whose contents it drops, and no line in a way that leaves
cache use: its dirty lines are written back, the superblocks that have migrated there too (R234, R236, R237, R240). -/
def State.leaveWays (s : State) (q : SliceId) (resv : Fin 5) (old new : BitVec 32) : State :=
  let t := s.sendHome fun x => x.2.1 == q && wayLeaves resv old new x.2.2
  let t := if (waysLive resv).any (wayLeaves resv old new) then t.dropLines q else t
  { t with
    upsets := t.upsets.filter fun u => match u.site with
      | .way x word => !(x == q && wayChanges resv old new (8 * word / 2 ^ 20))
      | _ => true }

/-- A change of the gang's partition in every one of its slices (R240): the tuples of a way that leaves Cloche use go to the
backing area. -/
def State.repart (s : State) (g : Gang) (new : BitVec 32) : State :=
  let t := g.slices.foldl (fun s q =>
    let s := s.spill q (chipsLeft (s.slice q).tuples ((s.slice q).repart (s.resvAt q) g.ways new).tuples)
    (s.setSlice q ((s.slice q).repart (s.resvAt q) g.ways new)).leaveWays q (s.resvAt q) g.ways new) s
  match t.gangOf g.gid with
  | some x => t.setGang { x with ways := new }
  | none => t

/-- Does a Mitten command run in a slice of the gang, or stand there from the firing that writes ways (R240, R299)? One whose work is
done and whose token waits for a free slot has not completed yet (R204). DEDUCED, log entry 44. -/
def State.mittenRuns (s : State) (g : Gang) (fid : Nat) : Bool :=
  g.slices.any fun q => (s.slice q).mcmds.any fun c => c.began.isSome || c.fire.fid == fid

/-- Has an access of a core to the slice window not been performed yet? Such an access comes before the change; those of
other cores meet the new partition (R240). DEDUCED, log entry 44. -/
def State.windowOpen (s : State) (c : CoreId) : Bool :=
  s.flight.any fun a => a.core == c && inWindow a.va.toNat && (match a.phase with
    | .sent _ => true
    | _ => false)

/-- WAYS_WRITE (R240): the slices change once no Mitten command runs in them and no access of the core to the slice window
is open, and the firing goes on. -/
def execWaysWrite (c : CoreId) (s : State) : Out :=
  let k := s.core c
  match k.hold, s.gangAt k with
  | some (.ways v), some g =>
    if s.mittenRuns g k.fid || s.windowOpen c || !g.active then .next s
    else .next ((s.repart g v).setCore c { k with hold := none })
  | _, _ => .next s

end Sys2Proof.Machine
end

