-- ==== Sys2Proof/Machine/Memory.lean ====
section
/-!
DEFINITION. Sys2Proof/Machine/Memory.lean: the meanings of class 0xB (R243 to R250, R261, R262, R265) and of TLBI (R251,
R252), and the steps that end what they begin: FENCE_COMPLETE, DSCINV_ACK and TLBI_ACK.
-/

namespace Sys2Proof.Machine

open Sys2Proof

/-! ### Modifier fields of class 0xB (R243) -/

/-- The scope of the modifier. -/
def Ops.scope (o : Ops) : Fin 5 := Fin.ofNat 5 (o.mod 0 3)
/-- The acquire scope of an instruction, where it is an acquire. -/
def Ops.acq (o : Ops) : Option (Fin 5) := if o.bit 3 then some (Ops.scope o) else none
/-- The release scope of an instruction, where it is a release. -/
def Ops.rel (o : Ops) : Option (Fin 5) := if o.bit 4 then some (Ops.scope o) else none
/-- The type of a class 0xB instruction. -/
def Ops.memTy (o : Ops) : Ty := o.ty 5
/-- The operation of ATOM, RED and REDV. -/
def Ops.atomOp (o : Ops) : Nat := o.mod 10 4

/-- The types of ATOM, RED and REDV: 32- and 64-bit integers, and FP32 with .fadd alone (R244). -/
def atomTyOk (op : Nat) (t : Ty) : Bool :=
  if op = 8 then t == .f32 else t == .s32 || t == .n32 || t == .s64 || t == .n64

/-- A global access of one location: its type, its alignment, the wait behind an acquire (R259), then its issue. -/
def globalAccess (tyOk : Bool) (va : Word) (n : Nat) (f : State → State) (s : State) : Act :=
  if !tyOk then illfmt 5
  else if va.toNat % n != 0 then .trap cALIGN va
  else if s.globalHeld then .wait
  else .go (f s)

/-! ### Loads and stores (R245) -/

/-- Does the hint keep a line out of the L1 (R62)? -/
def Hdr.streams (h : Hdr) : Bool := h.hint == .stream

/-- LD and LDRO. -/
def loadAct (ro : Bool) (h : Hdr) (o : Ops) (s : State) : Act :=
  let t := Ops.memTy o
  let va := addOff (s.me.word o.o1 0) o.imm
  let n := t.width / 8
  globalAccess t.isScalar va n (fun s => s.pushAccess { s.mkAccess va n (.load o.o0 t ro) (Ops.acq o) none with
    stream := Hdr.streams h }) s

/-- LD (R245). -/
def execLd (h : Hdr) (o : Ops) (s : State) : Out := issue h o noPre (loadAct false h o) s
/-- LDRO (R232, R245). -/
def execLdro (h : Hdr) (o : Ops) (s : State) : Out := issue h o noPre (loadAct true h o) s

/-- An access that writes and is counted until it is acknowledged (R204). -/
def State.pushWrite (s : State) (a : Access) : State := (s.raise a.gang 1).pushAccess a

/-- ST: it updates the core's own line, and is counted until the home acknowledges it (R231, R245). -/
def storeAct (o : Ops) (s : State) : Act :=
  let t := Ops.memTy o
  let va := addOff (s.me.word o.o0 0) o.imm
  let n := t.width / 8
  let x := (s.me.word o.o1 0).toNat % 2 ^ t.width
  globalAccess t.isScalar va n (fun s =>
    let a := s.mkAccess va n (.store n x) none (Ops.rel o)
    (s.setMe (s.me.l1Store a.asid va.toNat n x)).pushWrite a) s

/-- ST (R245). -/
def execSt (h : Hdr) (o : Ops) (s : State) : Out := issue h o noPre (storeAct o) s

/-! ### Atomics (R246 to R248) -/

/-- The address of ATOM and RED: the base alone with an immediate operand (R243). -/
def Core.atomVa (k : Core) (o : Ops) (base opnd : Operand) : Word :=
  if opnd = .imm then k.word base 0 else addOff (k.word base 0) o.imm

/-- ATOM. -/
def atomAct (o : Ops) (s : State) : Act :=
  let t := Ops.memTy o
  let n := t.width / 8
  let va := s.me.atomVa o o.o1 o.o2
  globalAccess (atomTyOk (Ops.atomOp o) t) va n (fun s =>
    let a := s.mkAccess va n (.atom (Ops.atomOp o) t (s.me.word o.o2 o.sext) (s.me.word o.o3 0) o.o0)
      (Ops.acq o) (Ops.rel o)
    (s.setMe (s.me.l1Drop a.asid va.toNat n)).pushAccess a) s

/-- ATOM (R246). -/
def execAtom (h : Hdr) (o : Ops) (s : State) : Out := issue h o noPre (atomAct o) s

/-- RED. -/
def redAct (o : Ops) (s : State) : Act :=
  let t := Ops.memTy o
  let n := t.width / 8
  let va := s.me.atomVa o o.o0 o.o1
  globalAccess (atomTyOk (Ops.atomOp o) t) va n (fun s =>
    let a := s.mkAccess va n (.red (Ops.atomOp o) t (s.me.word o.o1 o.sext)) none (Ops.rel o)
    (s.setMe (s.me.l1Drop a.asid va.toNat n)).pushWrite a) s

/-- RED (R247). -/
def execRed (h : Hdr) (o : Ops) (s : State) : Out := issue h o noPre (redAct o) s

/-- The elements of a REDV: the address and the value of each active one (R247). -/
def Core.redvElems (k : Core) (o : Ops) : List (Word × Word) :=
  let t := Ops.memTy o
  let h := k.shapeO o.o1
  let base := addOff (k.word o.o0 0) o.imm
  let st := k.word o.o2 0
  (active (k.mask o.o3) h.n).map fun i =>
    let r := i / h.cols
    let off := if o.bit 14 then BitVec.ofInt 64 (k.elemI o.o4.planeNo (k.shapeO o.o4) r) else BitVec.ofNat 64 r
    (base + off * st + BitVec.ofNat 64 (i % h.cols * (t.width / 8)),
      BitVec.ofNat 64 (k.elem o.o1.planeNo t.width i))

/-- The elements of a REDV issue, all under the number of the first (R247). -/
def State.pushElems (s : State) (o : Ops) (grp : Nat) : List (Word × Word) → State
  | [] => s
  | (va, x) :: l =>
    let t := Ops.memTy o
    let n := t.width / 8
    let a := { s.mkAccess va n (.red (Ops.atomOp o) t x) none (Ops.rel o) with grp := grp }
    ((s.setMe (s.me.l1Drop a.asid va.toNat n)).pushAccess a).pushElems o grp l

/-- May a plane hold the indices of a REDV.idx (R247)? -/
def Shape.indexOk (h : Shape) (rows : Nat) : Bool :=
  (h.ty == .s32 || h.ty == .n32 || h.ty == .s64 || h.ty == .n64) && (!h.scaled) && h.cols == 1 && h.rows == rows

/-- REDV. A REDV with no active element issues and is counted not at all. -/
def redvAct (o : Ops) (s : State) : Act :=
  let t := Ops.memTy o
  let k := s.me
  let h := k.shapeO o.o1
  let n := t.width / 8
  let base := addOff (k.word o.o0 0) o.imm
  if !atomTyOk (Ops.atomOp o) t then illfmt 5
  else if h.ty != t || h.scaled then illfmt 1
  else if o.bit 14 && !(k.shapeO o.o4).indexOk h.rows then illfmt 4
  else if base.toNat % n != 0 || (k.word o.o2 0).toNat % n != 0 then .trap cALIGN base
  else if s.globalHeld then .wait
  else match k.redvElems o with
    | [] => .go s
    | l => .go ((s.raise (k.gang.getD 0) 1).pushElems o s.nextId l)

/-- REDV (R247). -/
def execRedv (h : Hdr) (o : Ops) (s : State) : Out := issue h o noPre (redvAct o) s

/-! ### Maintenance (R250) -/

/-- PREF: ignored in the slice window (R241). -/
def prefAct (h : Hdr) (o : Ops) (s : State) : Act :=
  let va := addOff (s.me.word o.o0 0) o.imm
  if inWindow va.toNat then .go s
  else if s.globalHeld then .wait
  else .go (s.pushAccess { s.mkAccess va 1 (.pref (o.bit 10)) none none with stream := Hdr.streams h })

/-- PREF (R250). -/
def execPref (h : Hdr) (o : Ops) (s : State) : Out := issue h o noPre (prefAct h o) s

/-- The end of a range, at most 2^56. -/
def rangeEnd (va len : Word) : Nat := min (va.toNat + len.toNat) (2 ^ 56)

/-- CINV: the lines of a range, every line, or those filled by LDRO (R250). -/
def Core.cinv (k : Core) (o : Ops) (asid : BitVec 16) : Core :=
  let va := addOff (k.word o.o0 0) o.imm
  let hi := rangeEnd va (k.word o.o1 0)
  { k with l1 := k.l1.filter fun l =>
      match o.mod 10 2 with
      | 0 => !(l.asid == asid && l.meets va.toNat hi)
      | 1 => false
      | _ => !l.ro }

/-- The ASID of the running firing's gang. -/
def State.asid (s : State) : BitVec 16 := match s.gangAt s.me with
  | some g => g.launch.asid
  | none => 0

/-- CINV (R250). -/
def execCinv (h : Hdr) (o : Ops) (s : State) : Out :=
  issue h o noPre (fun s => .go (s.setMe (s.me.cinv o s.asid))) s

/-- How many lines the `len` bytes from an address on touch, up to 2^56. -/
def flushSpan (va len : Nat) : Nat := if len = 0 then 0 else (min (va + len) (2 ^ 56) - va / 128 * 128 + 127) / 128

/-- A CFLUSH comes to the line at `va`: its walk, and the slice that writes the line back where it is dirty, correct the single-bit
errors that they meet; an uncorrectable one ends the gang (R236, R237, R250). It ignores the slice window, which has no translation
(R223, R241). DESIGN CHOICE, log entry 108. -/
def State.flushLine (s : State) (a : Access) (va : Nat) : State :=
  if inWindow va then s
  else
    let at_ := { a with va := BitVec.ofNat 64 va }
    let t := if (s.tlbFind a.core a.asid va).isSome then s else s.walked a.asid va
    match s.pageOf a.core a.asid va with
    | .error e => if e.pa.isSome then t.accessFault at_ e else t
    | .ok p =>
      let words := (wordsOf (p.pa va) 128).map Site.mem
      if p.fill || !s.mayMigrate (p.pa va) p || !Config.dirty s.steps (p.pa va / 128) then t
      else
        let t := t.correct (some (s.home p.near (p.pa va))) words
        if s.hardAt words then t.accessFault at_ ⟨cECCU, none⟩ else t

/-- The lines of a CFLUSH, one after the other. -/
def State.flushLines (s : State) (a : Access) : Nat → Nat → State
  | 0, _ => s
  | n + 1, va => (s.flushLine a va).flushLines a n (va + 128)

/-- CFLUSH: the slices hold no data of their own here, so that every line is written back as it stands, with the errors that stand in
it; it is counted until the slices acknowledge (R204, R236, R250). -/
def cflushAct (o : Ops) (s : State) : Act :=
  let va := addOff (s.me.word o.o0 0) o.imm
  let len := (s.me.word o.o1 0).toNat
  let a := s.mkAccess va 0 (.flush len (o.bit 10)) none none
  if s.globalHeld then .wait
  else
    let t := ({ s with flight := s.flight ++ [{ a with phase := .done 0 0 }], nextId := s.nextId + 1 } : State).raise a.gang 1
    .go (if s.upsets.isEmpty then t else t.flushLines a (flushSpan va.toNat len) (va.toNat / 128 * 128))

/-- CFLUSH (R250). -/
def execCflush (h : Hdr) (o : Ops) (s : State) : Out := issue h o noPre (cflushAct o) s

/-! ### Scopes (R255) -/

/-- Every core of the package. -/
def allCores : List CoreId := (List.range 512).map (Fin.ofNat 512)

/-- The cores within a scope of a core. -/
def State.scopeCores (s : State) (c : CoreId) (sc : Fin 5) : List CoreId :=
  match sc with
  | 0 => [c]
  | 1 => allCores.filter fun x => sliceOf x == sliceOf c
  | 2 => allCores.filter fun x => (s.core x).gang == (s.core c).gang && (s.core x).gang.isSome
  | _ => allCores

/-- Changing some cores. -/
def State.mapCores (s : State) (l : List CoreId) (f : Core → Core) : State :=
  l.foldl (fun s c => s.setCore c (f (s.core c))) s

/-! ### DSCINV (R250, R273) -/

/-- Does a cached descriptor overlap `[lo, hi)`? -/
def Desc.meets (d : Desc) (lo hi : Nat) : Bool := decide (lo < hi) && decide (d.va < hi) && decide (lo < d.va + 64)

/-- Does a DSCINV of `[lo, hi)` drop a cached descriptor: one of the issuer's ASID that overlaps the range, or any of another ASID,
whose addresses do not tell whether the range covers its block (R250, R273)? DESIGN CHOICE, log entry 100. -/
def Desc.hitBy (d : Desc) (asid : BitVec 16) (lo hi : Nat) : Bool := decide (lo < hi) && (d.asid != asid || d.meets lo hi)

/-- The cached descriptors that a DSCINV drops leave a core's caches (R250, R273). DESIGN CHOICE, log entry 100. -/
def Core.dropDescs (k : Core) (asid : BitVec 16) (lo hi : Nat) : Core :=
  let keep (d : Desc) : Bool := !d.hitBy asid lo hi
  { k with cdesc := k.cdesc.filter keep, edesc := k.edesc.filter keep }

/-- The descriptor caches of the render engines under .gang and .pkg lose a range, and under .pkg those of the dispatchers and of
the host side of the Glarik link, which name descriptors by physical addresses, lose every entry, unless the range is empty
(R250, R273).
DESIGN CHOICE, log entry 46. -/
def State.dropShared (s : State) (sc : Fin 5) (asid : BitVec 16) (lo hi : Nat) : State :=
  { s with
    rdescs := if sc = 0 then s.rdescs else mapVec (fun l => l.filter fun (d : Desc) => !d.hitBy asid lo hi) s.rdescs
    ddescs := if sc = 3 ∧ lo < hi then .replicate 4 [] else s.ddescs
    hdescs := if sc = 3 ∧ lo < hi then [] else s.hdescs }

/-- DSCINV: the caches in scope drop the range, and the firing is held until they have acknowledged. It waits for the credit of its
core's port where its scope is wider than the core (R220). -/
def dscinvAct (o : Ops) (s : State) : Act :=
  let lo := (addOff (s.me.word o.o0 0) o.imm).toNat
  let hi := lo + (s.me.word o.o1 0).toNat
  let t := (s.mapCores (s.scopeCores s.cur (Ops.scope o)) fun k => k.dropDescs s.asid lo hi).dropShared (Ops.scope o) s.asid lo hi
  if Ops.scope o ≠ 0 ∧ s.portShut then .wait else .go (t.setMe { t.me with hold := some .dscinv })

/-- DSCINV (R250). -/
def execDscinv (h : Hdr) (o : Ops) (s : State) : Out := issue h o noPre (dscinvAct o) s

/-- Releasing a held firing. -/
def State.unhold (s : State) (c : CoreId) : State := s.setCore c { s.core c with hold := none }

/-- DSCINV_ACK (R250): every cache in scope has acknowledged, and the firing goes on. -/
def execDscinvAck (c : CoreId) (s : State) : Out :=
  match (s.core c).hold with
  | some .dscinv => .next (s.unhold c)
  | _ => .next s

/-! ### FENCE and AFENCE (R261, R262, R265) -/

/-- The accesses of the running firing stand before a FENCE (R256). -/
def State.markFenced (s : State) : State :=
  let fid := s.me.fid
  { s with flight := s.flight.map fun a => if a.fire.fid = fid then { a with fenced := true } else a }

/-- A FENCE issues: it holds the firing until FENCE_COMPLETE. -/
def fenceAct (acq rel : Bool) (sc : Fin 5) (s : State) : Act :=
  let t := s.markFenced
  .go (t.setMe { t.me with hold := some (.fence acq rel sc []) })

/-- FENCE (R262). -/
def execFence (h : Hdr) (o : Ops) (s : State) : Out :=
  issue h o noPre (fenceAct (o.bit 3) (o.bit 4) (Ops.scope o)) s

/-- AFENCE (R265): the full effect of fence.ar.pkg. -/
def execAfence (h : Hdr) (o : Ops) (s : State) : Out := issue h o noPre (fenceAct true true 3) s

/-- Does a FENCE wait for the access (R262, R269)? Below .sys not for an element of a reduction window. -/
def State.fenceWaits (s : State) (acq rel : Bool) (sc : Fin 5) (a : Access) : Bool :=
  (rel && a.req.drains && !(sc != 4 && s.merges a)) || (acq && (match a.req with
    | .load _ _ _ | .atom _ _ _ _ _ => true
    | _ => false))

/-- The epoch closes when its participations have been counted, and the next one begins; not while elements of it stand
in the image of a saved gang (R390, R391). -/
def State.closeEpoch (s : State) (w : Fin 4) : State :=
  let x := s.wins[w]
  if x.count = 0 ∨ x.count < x.parts.toNat ∨ s.gangs.any (fun g => g.resends.any fun e => e.1 == w && e.2.epoch == x.epoch) then s
  else { s with wins := s.wins.set w { x with count := 0, epoch := x.epoch + 1, closed := x.closed ++ [x.epoch] } }

/-- The epochs in which a FENCE.rel.sys counts now: one in every enabled window of the package (R390). -/
def State.openEpochs (s : State) : List (Fin 4 × Nat) := s.liveWins.map fun w => (w, s.wins[w].epoch)

/-- One participation in every enabled window of the package. -/
def State.participate (s : State) : State :=
  s.liveWins.foldl (fun (s : State) (w : Fin 4) =>
    ({ s with wins := s.wins.set w { s.wins[w] with count := s.wins[w].count + 1 } } : State).closeEpoch w) s

/-- Is an epoch done (R390)? -/
def State.epochDone (s : State) (x : Fin 4 × Nat) : Bool := decide (x.2 < s.wins[x.1].doneTo)

/-- May an access, as far as it has been translated, turn out an element of a reduction window that has not left the package (R389)? -/
def State.mayEnter (s : State) (a : Access) : Bool := a.window.isNone && (match a.req, a.phase with
  | .red _ _ _, .new => true
  | .red _ _ _, _ => s.merges a
  | _, _ => false)

/-- Have the window elements of a firing left the package (R390)? No other access of it is waited for here. -/
def State.elemsLeft (s : State) (fid : Nat) : Bool := !(s.ofFiring fid).any s.mayEnter

/-- The effects of a completed FENCE: the held flags enter fpflags, and the ordinary lines leave the L1 (R262). -/
def Core.fenceEnd (k : Core) (acq rel : Bool) (sc : Fin 5) : Core :=
  let k := if rel then k.takeHeld else k
  let k := if acq && sc != 0 then k.l1Acquire else k
  { k with hold := none }

/-- FENCE_COMPLETE (R262, R390): a FENCE.rel.sys first counts its participations once its elements have left, then
completes with their epochs; every other FENCE completes when what it waits for has ended. -/
def fenceStep (c : CoreId) (s : State) : State :=
  let k := s.core c
  match k.hold with
  | some (.fence acq rel sc epochs) =>
    if rel && sc == 4 && epochs.isEmpty && !s.openEpochs.isEmpty then
      if s.elemsLeft k.fid then
        s.participate.setCore c { k with hold := some (.fence acq rel sc s.openEpochs) }
      else s
    else if (s.ofFiring k.fid).any (s.fenceWaits acq rel sc) || !epochs.all s.epochDone then s
    else s.setCore c (k.fenceEnd acq rel sc)
  | _ => s

/-- FENCE_COMPLETE (R262). -/
def execFenceComplete (c : CoreId) (s : State) : Out := .next (fenceStep c s)

/-! ### TLBI (R251, R252) -/

/-- TLBI in a user gang takes PRIV with its opcode (R71, R72). -/
def tlbiPre (s : State) : Option (Byte × Word) := if s.right (·.sys) then none else some (cPRIV, 0x380)

/-- Does a translation fall under a TLBI? -/
def Page.hit (p : Page) (o : Ops) (asid : BitVec 16) (lo hi : Nat) : Bool :=
  (o.bit 4 || p.asid == asid) && (o.bit 3 || (decide (p.base < hi) && decide (lo < p.base + p.size)))

/-- The TLBs of a core without some translations. -/
def Core.tlbDrop (hit : Page → Bool) (k : Core) : Core :=
  { k with tlb := k.tlb.filter fun p => !hit p, tlb2 := k.tlb2.filter fun p => !hit p }

/-- The TLB of a quad without some translations. DEDUCED, log entry 45. -/
def Slice.tlbDrop (hit : Page → Bool) (z : Slice) : Slice := { z with tlb := z.tlb.filter fun p => !hit p }

/-- Changing some slices. -/
def State.mapSlices (s : State) (l : List SliceId) (f : Slice → Slice) : State :=
  l.foldl (fun s q => s.setSlice q (f (s.slice q))) s

/-- An access whose page walk is under way keeps the translation that it took; no TLB does (R230, R252). -/
def Access.noFill (a : Access) : Access := match a.phase with
  | .walk p _ => { a with phase := .walk p false }
  | _ => a

/-- TLBI: every TLB in scope drops what the range covers, and the firing is held until every access that used it has
drained. The TLB of a core's quad stands in scope with the core, so that the core's next access walks again. It waits for the credit
of its core's port (R220). -/
def tlbiAct (o : Ops) (s : State) : Act :=
  let asid := (s.me.word o.o0 0).truncate 16
  let lo := (s.me.word o.o1 0).toNat
  let hi := rangeEnd (s.me.word o.o1 0) (s.me.word o.o2 0)
  let hit (p : Page) : Bool := p.hit o asid lo hi && (o.bit 3 || decide (lo < hi))
  let cs := s.scopeCores s.cur (Ops.scope o)
  let uses (a : Access) : Bool := cs.contains a.core && a.page.any hit
  let t := (s.mapCores cs (Core.tlbDrop hit)).mapSlices (cs.map sliceOf) (Slice.tlbDrop hit)
  let u := { t with flight := t.flight.map fun a => if uses a then a.noFill else a }
  if s.portShut then .wait else .go (u.setMe { u.me with hold := some (.tlbi ((s.flight.filter uses).map (·.id))) })

/-- TLBI (R252). DEDUCED, log entry 45. -/
def execTlbi (h : Hdr) (o : Ops) (s : State) : Out := issue h o tlbiPre (tlbiAct o) s

/-- TLBI_ACK (R252): every access that used an invalidated entry has ended, and the firing goes on. -/
def execTlbiAck (c : CoreId) (s : State) : Out :=
  match (s.core c).hold with
  | some (.tlbi ids) => if s.flight.any (ids.contains ·.id) then .next s else .next (s.unhold c)
  | _ => .next s

end Sys2Proof.Machine
end

