-- ==== Sys2Proof/Machine/MemorySteps.lean ====
section
/-!
DEFINITION. Sys2Proof/Machine/MemorySteps.lean: the steps that carry an access on: PAGE_WALK, SLICE_ACCESS,
REMOTE_LS_ACCESS, LOAD_RETURN, WRITE_ACK and SUPERBLOCK_MIGRATION.
-/

namespace Sys2Proof.Machine

open Sys2Proof

/-- PAGE_WALK (R226, R229, R230): an access without a translation takes one. -/
def execPageWalk (id : Nat) (s : State) : Out := .next (s.walkStep id)

/-- A RED element leaves the package with the current epoch (R390). -/
def State.enterWindow (s : State) (a : Access) (w : Fin 4) (pl : Place) : State :=
  match a.req, pl with
  | .red _ _ v, .phys pa p =>
    let x := s.wins[w]
    let t : State := { s with wins := s.wins.set w { x with elems := x.elems ++ [⟨⟨pa, p.key, v⟩, a.gang, x.epoch⟩] } }
    t.setAccess { a with window := some (w, x.epoch) }
  | _, _ => s

/-! ### At the home -/

/-- Has the gang of an access been killed? Its loads are then discarded when they return (R364). -/
def State.gone (s : State) (g : Nat) : Bool := match s.gangOf g with
  | some x => x.doom.isSome
  | none => true

/-- Is a gang saved? Its accesses rest until it is restored. -/
def State.asleep (s : State) (g : Nat) : Bool := match s.gangOf g with
  | some x => x.phase == .saved
  | none => false

/-- The place of an access as the way partition stands now (R240, R241). -/
def State.placeNow (s : State) (a : Access) (pl : Place) : Except Byte Place :=
  match pl with
  | .scratch _ _ => match s.gangOf a.gang with
    | some g => s.scratchAt g a.va.toNat
    | none => .error cSCRX
  | pl => .ok pl

/-- Does an access bring its line into the L1 (R62, R231)? -/
def Access.brings (a : Access) : Bool := a.page.any (·.inL1) && !a.stream && (match a.req with
  | .load _ _ _ | .pref true => true
  | _ => false)

/-- The words that an access at a place reads or writes: those of the whole line where it brings the line. -/
def Access.sites (a : Access) (pl : Place) : List Site :=
  match pl, a.brings with
  | .phys pa _, true => (wordsOf (pa / 128 * 128) 128).map .mem
  | pl, _ => pl.sites a.n

/-- The words that an access at a place meets. -/
def State.sitesOf (s : State) (a : Access) (pl : Place) : List Site := a.sites pl ++ s.takenAt a.req.use pl a.n

/-- An access that passes an earlier write of its core to a common byte, as it may on a UN page, leaves no line there, which would
hold the writes in their order of issue (R254, R256, R266). DESIGN CHOICE, log entry 28. -/
def State.passLine (s : State) (a : Access) : State :=
  if (s.flight.takeWhile (·.id != a.id)).any fun x => x.stands a then s.setCore a.core ((s.core a.core).l1Remove a.asid a.va.toNat)
  else s

/-- An access is performed at its home: its effect, the correction of single-bit errors, the count of R234, and the
line that a load brings. A PREF.l1 brings its line anew where the L1 holds one, and as an ordinary one (R250).
DESIGN CHOICE, log entry 99. -/
def State.performAt (s : State) (a : Access) (pl : Place) : State :=
  let t := ((s.passLine a).correct (s.homeOf pl) (s.sitesOf a pl)).countAccess a.core pl
  match a.req with
  | .pref l1 => (if l1 && !a.stream then t.fillL1 a false else t).dropAccess a.id
  | .load _ _ ro =>
    let (t, v, f) := t.effect a pl
    (t.setAccess { a with phase := .done v f }).fillL1 a ro
  | _ =>
    let (t, v, f) := t.effect a pl
    t.setAccess { a with phase := .done v f }

/-- Is the access one that SLICE_ACCESS performs? -/
def Req.atSlice : Req → Bool
  | .pref _ => true
  | r => r.isData

/-- SLICE_ACCESS (R233, R241, R249, R254, R256): an access that its earlier ones let pass is performed. A release of a
gang that has been killed is dropped, because a write that it waited for may have been (R263). An element of a reduction window goes
there and to no home (R389). A home whose answer finds no credit at its port of the mesh waits (R220). DEDUCED, log entry 29. -/
def sliceStep (id : Nat) (s : State) : State :=
  match s.access id with
  | none => s
  | some a =>
    match a.phase with
    | .sent pl =>
      if !a.req.atSlice || a.window.isSome || !s.mayPerform a then s
      else if s.gone a.gang && a.release.isSome then s.dropAccess id
      else match s.windowFor a pl with
        | some w => s.enterWindow a w pl
        | none =>
          if !s.placeOpen pl then s
          else match s.placeNow a pl with
            | .error c => s.accessFault a ⟨c, none⟩
            | .ok pl =>
              if s.hardAt (s.sitesOf a pl) then (s.correct (s.homeOf pl) (s.sitesOf a pl)).accessFault a ⟨cECCU, none⟩
              else s.performAt a pl
    | _ => s

/-- SLICE_ACCESS (R254). -/
def execSliceAccess (id : Nat) (s : State) : Out := .next (sliceStep id s)

/-- Does an access to a core's local store wait for an engine-owned tile (R21)? Not one that issued before the OWN of its tile
(R267). -/
def State.tileWait (s : State) (a : Access) (t : CoreId) (addr : Nat) : Bool := (s.core t).owned addr a.n && !a.pre

/-- An error that an access meets in the local store of a core ends its gang (R237). -/
def State.lsFault (s : State) (a : Access) (w : Word) : State := (s.dropAccess a.id).fatal a.gang cECCU a.ipc w a.core

/-- REMOTE_LS_ACCESS (R197, R198): the accesses of one core to another in the order sent (R380), each waiting for an
engine-owned tile of its target, and its answer for the credit of the target's port (R220). -/
def remoteStep (id : Nat) (s : State) : State :=
  match s.access id with
  | none => s
  | some a =>
    match a.phase with
    | .sent (.remote t addr) =>
      let earlier := s.flight.takeWhile (·.id != id)
      if earlier.any (fun x => x.core == a.core && (match x.phase with
          | .sent (.remote u _) => u == t
          | _ => false)) || s.tileWait a t addr || s.asleep a.gang || !s.placeOpen (.remote t addr) then s
      else match s.lsHard t addr a.n with
        | some w => (s.lsCorrect t addr a.n).lsFault a w
        | none =>
          let (u, v, f) := (s.lsCorrect t addr a.n).effect a (.remote t addr)
          u.setAccess { a with phase := .done v f }
    | _ => s

/-- REMOTE_LS_ACCESS (R198). -/
def execRemoteLsAccess (id : Nat) (s : State) : Out := .next (remoteStep id s)

/-! ### Returns and acknowledgements -/

/-- Does the access return a value to a register? -/
def Req.returns : Req → Bool
  | .load _ _ _ | .atom _ _ _ _ _ | .rld _ _ | .ratom _ _ _ _ _ | .cloche _ _ _ => true
  | _ => false

/-- The register write of a returned value: into the bank of the firing that asked (R18), with the flags of ATOM.fadd
(R248). -/
def Core.returnVal (k : Core) (a : Access) (v : Nat) (f : FpFlags) : Core :=
  (k.raise f).setWordAt a.fire.slot a.req.dest (BitVec.ofNat 64 v)

/-- LOAD_RETURN: a value, or the tuple of a TAKE or CPY, reaches its core (R8, R245, R246, R285, R288). The tuple waits
for an engine-owned tile (R21), and all its words are written in one step. DEDUCED, log entry 103. -/
def returnStep (id : Nat) (s : State) : State :=
  match s.access id with
  | none => s
  | some a =>
    if !a.req.returns || s.asleep a.gang then s
    else match a.phase with
      | .done v f =>
        if s.gone a.gang then s.dropAccess id
        else
          let t := (s.dropAccess id).acquireEnd a
          t.setCore a.core ((t.core a.core).returnVal a v f)
      | .found tuple =>
        match a.req.lsDest with
        | none => s.dropAccess id
        | some d =>
          if s.gone a.gang then s.dropAccess id
          else if (s.core a.core).owned d 64 && !a.pre then s
          else
            let t := ((s.dropAccess id).acquireEnd a).lsRewrite a.core d 64
            t.setCore a.core (((t.core a.core).lsWrite d 64 tuple.toNat).returnVal a 1 0)
      | _ => s

/-- LOAD_RETURN (R8). -/
def execLoadReturn (id : Nat) (s : State) : Out := .next (returnStep id s)

/-- WRITE_ACK: the home has performed a write that returns nothing (R204, R248, R269). -/
def ackStep (id : Nat) (s : State) : State :=
  match s.access id with
  | none => s
  | some a =>
    match a.req.returns || s.asleep a.gang, a.phase with
    | false, .done _ f => if s.gone a.gang then s.dropAccess id else s.ackEnd a f
    | _, _ => s

/-- WRITE_ACK (R204). -/
def execWriteAck (id : Nat) (s : State) : Out := .next (ackStep id s)

/-! ### Migration (R234) -/

/-- The cache way in which a superblock comes to stand. DESIGN CHOICE, log entry 67. -/
def State.cacheWay (s : State) (q : SliceId) : Nat :=
  let l := s.waysIn q 0
  (l[Config.victim s.steps % l.length]?).getD 0

/-- The slice that keeps a superblock of this package reads it. -/
def State.handOver (s : State) (sb : Nat) : State := match s.memHome (512 * sb) with
  | some q => s.writeBack q sb
  | none => s

/-- SUPERBLOCK_MIGRATION: after four consecutive accesses from one other quad, the superblock's home is that quad's slice, where the
superblock stands in a cache way and that has one to hold it. Its old holder reads it (R236, R237), and it moves once the port of that
has credit (R220). -/
def execSuperblockMigration (sb : Nat) (dst : SliceId) (s : State) : Out :=
  match s.movCount.find? (·.1 == sb) with
  | some x =>
    if x.2.1 = dst ∧ s.dueCount x = true ∧ s.memOpen (512 * sb) 512 = true then
      let t := s.handOver sb
      .next { t with
        moved := (sb, dst, s.cacheWay dst) :: t.moved.filter (·.1 != sb)
        movCount := t.movCount.filter (·.1 != sb) }
    else .next s
  | none => .next s

end Sys2Proof.Machine
end

