-- ==== Sys2Proof/Machine/Cloche.lean ====
section
/-!
DEFINITION. Sys2Proof/Machine/Cloche.lean: tuples, patterns and homes (R274 to R280), what a home does (R281 to R283),
the eight Cloche instructions (R286 to R288), and the steps of their requests: the four arrivals and CLOCHE_DELIVERY (R284,
R285, R289).
-/

namespace Sys2Proof.Machine

open Sys2Proof

/-! ### Tuples and patterns (R274, R275) -/

/-- Word `i` of a tuple or pattern. -/
def tupWord (t : BitVec 512) (i : Nat) : Nat := getBits t (64 * i) 64
/-- The tag. -/
def tupTag (t : BitVec 512) : Nat := tupWord t 0
/-- The priority of a tuple: byte 7 of f1. -/
def tupPri (t : BitVec 512) : Nat := getBits t 120 8

/-- Does a tuple match a pattern (R275)? -/
def tupMatches (t q : BitVec 512) : Bool :=
  tupTag t == tupTag q &&
  [1, 2, 3].all (fun i => tupWord t i &&& tupWord q (i + 3) == tupWord q i &&& tupWord q (i + 3)) &&
  decide (getBits q 448 8 ≤ tupPri t)

/-- The home of a tag in a region (R276). -/
def tagHome (d : BitVec 512) (tag : Nat) : SliceId :=
  let h := bitsN tag 15 0 ^^^ bitsN tag 31 16 ^^^ bitsN tag 47 32 ^^^ bitsN tag 63 48
  let l := dscSlices d
  (l[h % l.length]?).getD 0

/-! ### Slices of this package and of others -/

/-- A slice of a package of the pod. -/
def State.home2 (s : State) (pkg : Nat) (q : SliceId) : Slice :=
  if pkg = s.pkg.toNat then s.slice q
  else match s.far.find? fun x => x.pkg == pkg && x.q == q with
    | some x => x.sl
    | none => Slice.reset

/-- Replacing a slice of a package of the pod. -/
def State.setHome2 (s : State) (pkg : Nat) (q : SliceId) (z : Slice) : State :=
  if pkg = s.pkg.toNat then s.setSlice q z
  else { s with far := ⟨pkg, q, z⟩ :: s.far.filter fun x => !(x.pkg == pkg && x.q == q) }

/-! ### What a home does (R278 to R283) -/

/-- Is the home full for a region (R278)? -/
def Slice.full (z : Slice) (region cap : Nat) : Bool :=
  decide (cap ≤ (z.tuples.filter (·.region == region)).length) || decide (65536 ≤ z.tuples.length)

/-- Has the parked-request table an entry left (R280)? -/
def Slice.tableFree (z : Slice) : Bool := decide ((z.parked.filter fun p => !p.direct).length < 1024)

/-- Is a parked request one of a kind that a tuple of a region satisfies? -/
def Park.wants (p : Park) (kind : PKind) (region : Nat) (t : BitVec 512) : Bool :=
  p.kind == kind && p.got.isNone && p.region == region && tupMatches t p.body

/-- The oldest parked take that a tuple satisfies. -/
def Slice.taker (z : Slice) (region : Nat) (t : BitVec 512) : Option Park := z.parked.find? (·.wants .take region t)

/-- A deposit that is accepted: copies for the parked copies, oldest first, then the oldest parked take, or the store (R281). The
requests that it satisfies come to stand behind the others of the table, in the order in which they are delivered. -/
def Slice.accept (z : Slice) (region : Nat) (t : BitVec 512) (tick stamp : Nat) : Slice :=
  let copies := z.parked.filter (·.wants .copy region t)
  let rest := z.parked.filter fun p => !p.wants .copy region t
  match z.taker region t with
  | some x => { z with parked := rest.filter (·.id != x.id) ++ (copies ++ [x]).map fun p => { p with got := some t } }
  | none => { z with
      parked := rest ++ copies.map fun p => { p with got := some t }
      tuples := z.tuples ++ [⟨region, t, z.seq, tick, none, stamp⟩], seq := z.seq + 1 }

/-- A deposit arrives: accepted, or none where the home is full and no parked take matches (R281). -/
def Slice.deposit (z : Slice) (region cap : Nat) (t : BitVec 512) (tick stamp : Nat) : Option Slice :=
  if (z.taker region t).isNone && z.full region cap then none else some (z.accept region t tick stamp)

/-- The priority steps gained by waiting since a tick (R215). -/
def State.stepsSince (s : State) (since : Nat) : Nat := if s.sched.aging = 0 then 0 else (s.tick - since) / s.sched.aging

/-- The effective priority of something that has waited since a tick (R215). -/
def State.effPri (s : State) (pri since : Nat) : Nat := max pri (min s.sched.cap.toNat (pri + s.stepsSince since))

/-- The regions of launch tuples, by the physical addresses of their descriptors: the system region first. -/
def State.launchRegions (s : State) : List Nat := match s.boot with
  | some b => [b.sysLaunch.toNat, b.launch.toNat]
  | none => []

/-- The priority by which a home matches a stored tuple: the effective one of a waiting launch tuple (R215, R279). -/
def State.storedPri (s : State) (x : Stored) : Nat :=
  if s.launchRegions.contains x.region && tupTag x.tuple == 1 then s.effPri (tupPri x.tuple) x.since else tupPri x.tuple

/-- Does the region's order put `x` before `y` (R279)? -/
def storedBefore (order : Nat) (pri : Stored → Nat) (x y : Stored) : Bool :=
  match order with
  | 1 => decide (pri y < pri x) || (pri x == pri y && decide (x.seq < y.seq))
  | 2 => decide (y.seq < x.seq)
  | _ => decide (x.seq < y.seq)

/-- The stored tuple that a request selects (R279). -/
def Slice.select (z : Slice) (region order : Nat) (pri : Stored → Nat) (q : BitVec 512) : Option Stored :=
  (z.tuples.filter fun x => x.region == region && tupMatches x.tuple q).foldl (fun best x =>
    match best with
    | none => some x
    | some y => if storedBefore order pri x y then some x else some y) none

/-- Parked deposits are handled again as if they arrived now, the oldest first of those whose region is not full at the home,
until none is left (R283); a removal from a full store makes room for every region, and the oldest of all of them goes first.
Answers the slice and the askers whose deposits were accepted. DESIGN CHOICE, log entry 114. -/
def Slice.retry (z : Slice) (tick stamp : Nat) : Nat → Slice × List Asker
  | 0 => (z, [])
  | n + 1 =>
    match z.parked.find? fun p => p.kind == .dep && !z.full p.region (dscCap p.desc) with
    | none => (z, [])
    | some p =>
      let (y, l) := (({ z with parked := z.parked.filter (·.id != p.id) } : Slice).accept p.region p.body tick stamp).retry
        tick stamp n
      (y, p.asker :: l)

/-- The census of the gang of an asker falls (R289); host and dispatcher requests are counted in none. -/
def State.lowerAsker (s : State) (a : Asker) : State :=
  match a with
  | .core g _ _ _ _ => (s.lower g 1).stampIdle g
  | _ => s

/-- The Cloche ways of a slice (R277). Of a slice of another package nothing is known, and nothing depends on it. -/
def State.clocheWaysAt (s : State) (pkg : Nat) (q : SliceId) : List (Fin 16) :=
  if pkg = s.pkg.toNat then clocheWays (s.resvAt q) (s.waysAt q) else []

/-- The gangs of the parked requests of a table that stand satisfied in the table after it: they park no more (R365). -/
def servedGangs (old new : List Park) : List Nat :=
  (new.filter fun p => p.got.isSome && old.any fun x => x.id == p.id && x.got.isNone).filterMap fun p => match p.asker with
    | .core g _ _ _ _ => some g
    | _ => none

/-- A home's store after a step that touched tuples, which come to stand in its Cloche ways: those that give way go to the backing
area, and a place that is written whole holds no error (R236, R237, R277); the idle counts of the gangs whose parked requests it
satisfied begin anew (R365). -/
def State.settleAt (s : State) (pkg : Nat) (q : SliceId) (z : Slice) : State :=
  let y := z.settle (s.clocheWaysAt pkg q) s.steps
  (servedGangs (s.home2 pkg q).parked z.parked).foldl State.stampIdle (
    if s.upsets.isEmpty || pkg != s.pkg.toNat then s.setHome2 pkg q y
    else
      let t := (s.setSlice q z).spill q (chipsLeft z.tuples y.tuples)
      let came := (chipsLeft y.tuples z.tuples).flatMap (chipSites q)
      ({ t with upsets := t.upsets.filter fun u => !came.contains u.site } : State).setSlice q { t.slice q with tuples := y.tuples })

/-- A stored tuple leaves its home, and room is made for parked deposits (R283). -/
def State.removeStored (s : State) (pkg : Nat) (q : SliceId) (seq : Nat) : State :=
  let z := s.home2 pkg q
  let (z, l) := ({ z with tuples := z.tuples.filter (·.seq != seq) } : Slice).retry s.tick s.steps z.parked.length
  l.foldl (fun s a => s.lowerAsker a) (s.settleAt pkg q z)

/-- A request enters a table of parked requests. -/
def State.park (s : State) (pkg : Nat) (q : SliceId) (p : Park) : State :=
  let z := s.home2 pkg q
  ({ s with nextId := s.nextId + 1 } : State).setHome2 pkg q { z with parked := z.parked ++ [{ p with id := s.nextId }] }

/-- A region's store at a home, as requests of several kinds reach it. -/
structure HomeReq where
  pkg    : Nat
  q      : SliceId
  region : Nat
  desc   : BitVec 512
  deriving DecidableEq, Repr

/-- The home that a request with a tag goes to (R276). -/
def homeReq (region : Nat) (d : BitVec 512) (tag : Nat) : HomeReq := ⟨dscPkg d, tagHome d tag, region, d⟩

/-- A deposit is offered to its home. -/
def State.offer (s : State) (r : HomeReq) (t : BitVec 512) : Option State :=
  ((s.home2 r.pkg r.q).deposit r.region (dscCap r.desc) t s.tick s.steps).map (s.settleAt r.pkg r.q)

/-- A match examines the tuples of its region and tag at the home, which touches them (R277, R292). DEDUCED, log entry 86. -/
def Slice.examine (z : Slice) (region tag stamp : Nat) : Slice :=
  { z with tuples := z.tuples.map fun x => if x.region = region ∧ tupTag x.tuple = tag then { x with touch := stamp } else x }

/-- The words of the Cloche ways that a match of a region and a tag reads at a slice of this package. A tuple in the backing area has no
place in memory here, and no error is met there (R277). DESIGN CHOICE, log entry 86. -/
def State.examines (s : State) (r : HomeReq) (tag : Nat) : List Site :=
  if s.upsets.isEmpty || r.pkg != s.pkg.toNat then []
  else ((s.slice r.q).tuples.filter fun x => x.region == r.region && tupTag x.tuple == tag).flatMap fun x =>
    (x.chip.map (chipSites r.q)).getD []

/-- Does a match meet an uncorrectable error in a Cloche way (R237)? -/
def State.matchHard (s : State) (r : HomeReq) (tag : Nat) : Bool := s.hardAt (s.examines r tag)

/-- A match corrects the single-bit errors that it meets in the Cloche ways (R236). -/
def State.matchMeets (s : State) (r : HomeReq) (tag : Nat) : State := s.correct (some r.q) (s.examines r tag)

/-- A request examines its home: single-bit errors are corrected (R236), and the tuples come to stand in the Cloche ways. -/
def State.examineAt (s : State) (r : HomeReq) (tag : Nat) : State :=
  let t := s.matchMeets r tag
  t.settleAt r.pkg r.q ((t.home2 r.pkg r.q).examine r.region tag t.steps)

/-- The stored tuple that a request selects at its home. -/
def State.selectAt (s : State) (r : HomeReq) (pat : BitVec 512) : Option Stored :=
  (s.home2 r.pkg r.q).select r.region (dscOrder r.desc) s.storedPri pat

/-- A parked request leaves its table. -/
def State.unpark (s : State) (pkg : Nat) (q : SliceId) (id : Nat) : State :=
  let z := s.home2 pkg q
  s.setHome2 pkg q { z with parked := z.parked.filter (·.id != id) }

/-! ### The instructions (R286 to R288) -/

/-- Is a local-store address one of a 64-byte block (R287)? -/
def blockOk (a : Word) : Bool := a.toNat % 64 == 0 && decide (a.toNat ≤ 0x7FFC0)

/-- The 64 bytes at a local-store address. -/
def Core.block (k : Core) (a : Word) : BitVec 512 := BitVec.ofNat 512 (k.lsRead a.toNat 64)

/-- A Cloche instruction: the region VA and the local-store addresses in order (R287), the waits for an acquire, for bytes of
its destination that are pending (R7) and for the block that it reads, then the request, with the version of the descriptor
that its core holds (R273); `dests` is its destination, `counted` says that it raises the census (R289). -/
def clocheAct (o : Ops) (d : Operand) (src : Word) (addrs dests : List Word) (counted : Bool) (q : State → CReq) (s : State) :
    Act :=
  let va := addOff (s.me.word o.o1 0) o.imm
  if va.toNat % 64 != 0 then .trap cALIGN va
  else match addrs.find? fun a => !blockOk a with
    | some a => .trap cALIGN a
    | none =>
      if s.globalHeld || dests.any (fun a => s.lsPending a.toNat 64) then .wait
      else s.lsThen [(src.toNat, 64)] fun s =>
        let a := s.mkAccess va 64 (.cloche d (q s) (descIn s.me.cdesc s.asid va.toNat)) none none
        .go ((if counted then s.raise a.gang 1 else s).pushAccess a)

/-- DEP (R288). -/
def execDep (h : Hdr) (o : Ops) (s : State) : Out :=
  issue h o noPre (fun s =>
    let t := s.me.word o.o2 0
    clocheAct o o.o0 t [t] [] false (fun s => .dep (s.me.block t)) s) s

/-- DEPW (R288). -/
def execDepw (h : Hdr) (o : Ops) (s : State) : Out :=
  issue h o noPre (fun s =>
    let t := s.me.word o.o2 0
    clocheAct o o.o0 t [t] [] true (fun s => .depw (s.me.block t) t.toNat) s) s

/-- TAKE (R288). -/
def execTake (h : Hdr) (o : Ops) (s : State) : Out :=
  issue h o noPre (fun s =>
    let p := s.me.word o.o2 0
    let d := s.me.word o.o3 0
    clocheAct o o.o0 p [p, d] [d] false (fun s => .take (s.me.block p) d.toNat) s) s

/-- CPY (R288). -/
def execCpy (h : Hdr) (o : Ops) (s : State) : Out :=
  issue h o noPre (fun s =>
    let p := s.me.word o.o2 0
    let d := s.me.word o.o3 0
    clocheAct o o.o0 p [p, d] [d] false (fun s => .cpy (s.me.block p) d.toNat) s) s

/-- The instance that an output port names on the current core. -/
def State.portRef (s : State) (x : Operand) : ChanRef := match s.outPort x.portNo.val with
  | some y => y.1
  | none => ⟨0, 0, 0⟩

/-- TAKEP (R288). -/
def execTakep (h : Hdr) (o : Ops) (s : State) : Out :=
  issue h o (needOut o.o4) (fun s =>
    let p := s.me.word o.o2 0
    let d := s.me.word o.o3 0
    clocheAct o o.o0 p [p, d] [d] true (fun s => .takep (s.me.block p) d.toNat (s.portRef o.o4)) s) s

/-- CPYP (R288). -/
def execCpyp (h : Hdr) (o : Ops) (s : State) : Out :=
  issue h o (needOut o.o4) (fun s =>
    let p := s.me.word o.o2 0
    let d := s.me.word o.o3 0
    clocheAct o o.o0 p [p, d] [d] true (fun s => .cpyp (s.me.block p) d.toNat (s.portRef o.o4)) s) s

/-- PCANCEL (R288): word 0 of the block at op3 is the tag. -/
def execPcancel (h : Hdr) (o : Ops) (s : State) : Out :=
  issue h o noPre (fun s =>
    let d := s.me.word o.o2 0
    let t := s.me.word o.o3 0
    clocheAct o o.o0 t [d, t] [] false (fun s => .cancel d.toNat (BitVec.ofNat 64 (tupTag (s.me.block t)))) s) s

/-- CLCOUNT (R288). -/
def execClcount (h : Hdr) (o : Ops) (s : State) : Out :=
  issue h o noPre (fun s =>
    let p := s.me.word o.o2 0
    clocheAct o o.o0 p [p] [] false (fun s => .count (s.me.block p)) s) s

/-! ### Arrivals (R279 to R283, R288, R289) -/

/-- The tag that a request carries. -/
def CReq.tag : CReq → Nat
  | .dep t | .depw t _ | .take t _ | .takep t _ _ | .cpy t _ | .cpyp t _ _ | .count t => tupTag t
  | .cancel _ tag => tag.toNat

/-- The home of a Cloche access that has its descriptor. -/
def Access.homeReq (a : Access) : Option HomeReq :=
  match a.req, a.phase with
  | .cloche _ q d, .sent (.phys pa _) => some (Machine.homeReq pa d q.tag)
  | _, _ => none

/-- Is a Cloche request one that has not gone to its home yet, so that its home may be any? -/
def Access.unbound (a : Access) : Bool := a.walking && (match a.req with
  | .cloche _ _ _ => true
  | _ => false)

/-- May a request arrive: has its release what it waits for, did the earlier requests of its firing to the same home arrive, and
has each of those gone to its home (R279, R284); and has the home's answer credit at its port of the mesh (R220)? -/
def State.mayArrive (s : State) (a : Access) (r : HomeReq) : Bool :=
  s.mayPerform a && s.portOpen (s.homePort r.pkg r.q r.region) &&
  !(s.flight.takeWhile (·.id != a.id)).any fun x => x.fire.fid == a.fire.fid && (match x.homeReq with
    | some y => y.pkg == r.pkg && y.q == r.q
    | none => x.unbound)

/-- A request and its home, where it may arrive. A request of a gang that has been killed is dropped by GANG_KILL. -/
def State.arriving (s : State) (id : Nat) : Option (Access × CReq × HomeReq) :=
  match s.access id with
  | none => none
  | some a =>
    match a.req, a.homeReq with
    | .cloche _ q _, some r => if s.mayArrive a r && !s.gone a.gang then some (a, q, r) else none
    | _, _ => none

/-- The home answers a request with a value for its register. -/
def State.answer (s : State) (a : Access) (v : Nat) : State := s.setAccess { a with phase := .done v 0 }

/-- The asker of a core's request. -/
def Access.asker (s : State) (a : Access) (port : Option ChanRef) : Asker :=
  let k := s.core a.core
  .core a.gang k.gx k.gy port a.ipc

/-- A request that parks, or is answered "busy"; both end its answer (R280, R289). -/
def State.parkOrBusy (s : State) (a : Access) (r : HomeReq) (kind : PKind) (body : BitVec 512) (dest : Nat)
    (port : Option ChanRef) : State :=
  if (s.home2 r.pkg r.q).tableFree then
    (s.park r.pkg r.q ⟨0, r.region, kind, body, dest, r.desc, a.asker s port, none, false⟩).answer a 1
  else (s.lower a.gang 1).answer a 0

/-- CLOCHE_DEPOSIT_ARRIVAL (R281). -/
def depositStep (id : Nat) (s : State) : State :=
  match s.arriving id with
  | some (a, .dep t, r) => match s.offer r t with
    | some u => u.answer a 1
    | none => s.answer a 0
  | some (a, .depw t d, r) => match s.offer r t with
    | some u => (u.lower a.gang 1).answer a 1
    | none => s.parkOrBusy a r .dep t d none
  | _ => s

/-- CLOCHE_DEPOSIT_ARRIVAL (R281). -/
def execClocheDepositArrival (id : Nat) (s : State) : Out := .next (depositStep id s)

/-- A TAKE or CPY finds a tuple: it is an acquire at the region's scope (R284). -/
def State.found (s : State) (a : Access) (r : HomeReq) (t : BitVec 512) : State :=
  s.setAccess { a with phase := .found t, acq := some (dscScope r.desc) }

/-- A TAKEP or CPYP finds a tuple at once: it is delivered as one that had parked (R282, R285).
DESIGN CHOICE, log entry 113. -/
def State.foundNow (s : State) (a : Access) (r : HomeReq) (kind : PKind) (body : BitVec 512) (dest : Nat)
    (port : ChanRef) (t : BitVec 512) : State :=
  (s.park r.pkg r.q ⟨0, r.region, kind, body, dest, r.desc, a.asker s (some port), some t, true⟩).answer a 1

/-- What a TAKE, CPY, TAKEP or CPYP finds at its home: it answers, then removes (R282). -/
def State.matchAt (s : State) (x : Option (Access × CReq × HomeReq)) : State :=
  match x with
  | some (a, .take p _, r) => match s.selectAt r p with
    | some x => (s.removeStored r.pkg r.q x.seq).found a r x.tuple
    | none => s.answer a 0
  | some (a, .cpy p _, r) => match s.selectAt r p with
    | some x => s.found a r x.tuple
    | none => s.answer a 0
  | some (a, .takep p d port, r) => match s.selectAt r p with
    | some x => (s.foundNow a r .take p d port x.tuple).removeStored r.pkg r.q x.seq
    | none => s.parkOrBusy a r .take p d (some port)
  | some (a, .cpyp p d port, r) => match s.selectAt r p with
    | some x => s.foundNow a r .copy p d port x.tuple
    | none => s.parkOrBusy a r .copy p d (some port)
  | _ => s

/-- CLOCHE_MATCH_ARRIVAL (R282): the home examines its tuples, then answers. An uncorrectable error in one ends the gang (R237). -/
def matchStep (id : Nat) (s : State) : State :=
  match s.arriving id with
  | some (a, q, r) =>
    if s.matchHard r q.tag then (s.matchMeets r q.tag).accessFault a ⟨cECCU, none⟩ else (s.examineAt r q.tag).matchAt (some (a, q, r))
  | none => s

/-- CLOCHE_MATCH_ARRIVAL (R282). -/
def execClocheMatchArrival (id : Nat) (s : State) : Out := .next (matchStep id s)

/-- Is a parked request one of a core that PCANCEL removes (R288)? -/
def Park.cancels (p : Park) (gang gx gy region dest tag : Nat) : Bool :=
  p.got.isNone && p.region == region && p.dest == dest && tupTag p.body == tag && (match p.asker with
    | .core g x y _ _ => g == gang && x == gx && y == gy
    | _ => false)

/-- CLOCHE_CANCEL_ARRIVAL (R288). -/
def cancelStep (id : Nat) (s : State) : State :=
  match s.arriving id with
  | some (a, .cancel d tag, r) =>
    let k := s.core a.core
    match (s.home2 r.pkg r.q).parked.find? (·.cancels a.gang k.gx k.gy r.region d tag.toNat) with
    | some p => (((s.unpark r.pkg r.q p.id).lower a.gang 1).stampIdle a.gang).answer a 1
    | none => s.answer a 0
  | _ => s

/-- CLOCHE_CANCEL_ARRIVAL (R288). -/
def execClocheCancelArrival (id : Nat) (s : State) : Out := .next (cancelStep id s)

/-- CLOCHE_COUNT_ARRIVAL (R288). -/
def countStep (id : Nat) (s : State) : State :=
  match s.arriving id with
  | some (a, .count p, r) =>
    if s.matchHard r (tupTag p) then (s.matchMeets r (tupTag p)).accessFault a ⟨cECCU, none⟩
    else (s.examineAt r (tupTag p)).answer a
      ((s.home2 r.pkg r.q).tuples.filter fun x => x.region == r.region && tupMatches x.tuple p).length
  | _ => s

/-- CLOCHE_COUNT_ARRIVAL (R288). -/
def execClocheCountArrival (id : Nat) (s : State) : Out := .next (countStep id s)

/-! ### CLOCHE_DELIVERY (R284, R285, R290, R291) -/

/-- The parked request of a number, with its slice. -/
def State.parkOf (s : State) (id : Nat) : Option (Nat × SliceId × Park) :=
  match ((List.range 128).map (Fin.ofNat 128)).findSome? fun q =>
      ((s.slice q).parked.find? (·.id == id)).map fun p => (s.pkg.toNat, q, p) with
  | some x => some x
  | none => s.far.findSome? fun x => (x.sl.parked.find? (·.id == id)).map fun p => (x.pkg, x.q, p)

/-- The address of a host physical address within the package's host range (R222, R382).
DESIGN CHOICE, log entry 42. -/
def State.hostPa (s : State) (a : Nat) : Nat := s.pkg.toNat * 2 ^ 40 + 0x8000000000 + a % 2 ^ 39

/-- A delivery to the host: the tuple is written at dest, then a link interrupt is raised (R291, R385).
DESIGN CHOICE, log entry 42. -/
def State.deliverHost (s : State) (dest : Nat) (t : BitVec 512) (vector : BitVec 16) (reqid : BitVec 32) : State :=
  let u := s.physWrite 0 (s.hostPa dest) 64 t.toNat
  { u with hostOut := u.hostOut ++ [.interrupt vector reqid] }

/-- A delivery to a core: the L1 invalidation of the region's scope, the tuple in the local store, then the token
(R284). It waits for an engine-owned tile and for a free slot (R285). All eight words are written in one step, the one that sends the
token. DEDUCED, log entry 103. -/
def State.deliverCore (s : State) (g : Gang) (c : CoreId) (p : Park) (t : BitVec 512) (ref : ChanRef) (ch : Chan) :
    Option State :=
  if (s.core c).owned p.dest 64 || g.free ref ch == 0 then none
  else
    let k := if dscScope p.desc = 0 then s.core c else (s.core c).l1Acquire
    some ((((s.lsRewrite c p.dest 64).setCore c (k.lsWrite p.dest 64 t.toNat)).enqueue g.gid ref (BitVec.ofNat 64 p.dest) []).lower g.gid 1)

/-- Do two satisfied requests go to one receiver: an instance of a gang, or the host? -/
def Park.sameTo (x y : Park) : Bool :=
  match x.asker, y.asker with
  | .core g _ _ r _, .core h _ _ t _ => g == h && r == t
  | .host _ _, .host _ _ => true
  | _, _ => false

/-- Must a satisfied request wait for one of its home that goes to the same receiver and was satisfied before it (R281)? -/
def State.deliveryHeld (s : State) (pkg : Nat) (q : SliceId) (p : Park) : Bool :=
  ((s.home2 pkg q).parked.takeWhile (·.id != p.id)).any fun x => x.got.isSome && x.sameTo p

/-- CLOCHE_DELIVERY: a satisfied request of a gang that is saved or ends keeps its tuple (R290); the deliveries to one receiver come
in order (R281), each for the credit of its home's port (R220). -/
def deliveryStep (id : Nat) (s : State) : State :=
  match s.parkOf id with
  | some (pkg, q, p) =>
    if s.deliveryHeld pkg q p || !s.portOpen (s.homePort pkg q p.region) then s
    else match p.got, p.asker with
    | some t, .host v r => (s.deliverHost p.dest t v r).unpark pkg q id
    | some t, .core gid gx gy (some ref) _ =>
      match s.gangOf gid with
      | none => s
      | some g =>
        if !g.active then s
        else match g.img.chans[ref.chan]? with
          | none => s
          | some ch => match s.deliverCore g (g.coreAt gx gy) p t ref ch with
            | some u => u.unpark pkg q id
            | none => s
    | _, _ => s
  | none => s

/-- CLOCHE_DELIVERY (R285). -/
def execClocheDelivery (id : Nat) (s : State) : Out := .next (deliveryStep id s)

end Sys2Proof.Machine
end

