-- ==== Sys2Proof/Machine/Control.lean ====
section
/-!
DEFINITION. Sys2Proof/Machine/Control.lean: the meanings of class 0x0 (R117 to R121, R359 to R361): NOP, the transfers,
LOOP, FIN, BRK, and the trap actor's ERET and KILL.
-/

namespace Sys2Proof.Machine

open Sys2Proof

/-- NOP (R121). -/
def execNop (h : Hdr) (o : Ops) (s : State) : Out := issue h o noPre (fun s => .go s) s

/-! ### Transfers (R118) -/

/-- The relative target of imm32: words from the instruction itself (R59, R118). -/
def State.relTarget (s : State) (o : Ops) : Word := s.me.pc + 16 * o.sext

/-- A transfer to a target held in a register: ALIGN when it is not a multiple of 16. -/
def jumpTo (s : State) (tgt : Word) : Act := if tgt.toNat % 16 = 0 then .jump s tgt else .trap cALIGN tgt

/-- BR (R118). -/
def execBr (h : Hdr) (o : Ops) (s : State) : Out := issue h o noPre (fun s => .jump s (s.relTarget o)) s

/-- JMP (R118). -/
def execJmp (h : Hdr) (o : Ops) (s : State) : Out := issue h o noPre (fun s => jumpTo s (s.me.word o.o0 0)) s

/-- The target of a CALL: relative where op1 is the immediate. -/
def State.callTarget (s : State) (o : Ops) : Word := if o.o1 = .imm then s.relTarget o else s.me.word o.o1 0

/-- CALL (R118): the target is read before the link is written. -/
def execCall (h : Hdr) (o : Ops) (s : State) : Out :=
  issue h o noPre (fun s => jumpTo (s.setMe (s.me.setWord o.o0 s.nextPc)) (s.callTarget o)) s

/-- RET (R118): the effect of JMP. -/
def execRet (h : Hdr) (o : Ops) (s : State) : Out := issue h o noPre (fun s => jumpTo s (s.me.word o.o0 0)) s

/-- The number of a loop-counter operand. -/
def Operand.lcNo (o : Operand) : Fin 4 :=
  match o with
  | .lc i => i
  | _ => 0

/-- LOOP (R119). -/
def loopAct (o : Ops) (s : State) : Act :=
  let n := Operand.lcNo o.o0
  let k := s.me
  if k.lc[n].toNat ≤ 1 then .go (s.setMe { k with lc := k.lc.set n k.lcl[n] })
  else .jump (s.setMe { k with lc := k.lc.set n (k.lc[n] - 1) }) (s.relTarget o)

/-- LOOP (R119). -/
def execLoop (h : Hdr) (o : Ops) (s : State) : Out := issue h o noPre (loopAct o) s

/-! ### The end of a firing -/

/-- The kill of a gang by its trap actor (R361): status KILL, with the cause, trappc and trapval of the trap. -/
def State.killByTrap (s : State) : State :=
  match s.me.gang with
  | none => s
  | some g => s.doom g ⟨stKill, s.me.trapcause.truncate 8, s.me.trappc, s.me.trapval,
      BitVec.ofNat 32 (coreIdVal s.cur), 0, 0⟩

/-- Is the running firing's actor a source (R45)? -/
def State.isSource (s : State) : Bool :=
  match s.gangAt s.me with
  | none => false
  | some g => match g.actorIn s.me.gx s.me.gy s.me.slot with
    | some (_, a) => a.source
    | none => false

/-- FIN and FIN.x (R120): the firing ends, a source that executes FIN.x is exhausted; in the trap actor both end the
gang as KILL does (R358). -/
def finAct (o : Ops) (s : State) : Act :=
  let k := s.me
  if k.inTrap then .fin s.killByTrap
  else
    let ex := if o.bit 0 && s.isSource then k.exhausted.set k.slot true else k.exhausted
    .fin ((s.setMe { k with fire := none, exhausted := ex }).stampCore s.cur)

/-- FIN (R120). -/
def execFin (h : Hdr) (o : Ops) (s : State) : Out := issue h o noPre (finAct o) s

/-- BRK (R121). -/
def execBrk (h : Hdr) (o : Ops) (s : State) : Out := issue h o noPre (fun _ => .trap cBRK o.zext) s

/-! ### The trap actor's returns (R360, R361) -/

/-- ERET and KILL in a firing other than a trap actor's take ILLOP at step 1. DEDUCED, log entry 48. -/
def trapOnly (s : State) : Option (Byte × Word) := if s.me.inTrap then none else some (cILLOP, 0)

/-- Re-accepting a halted command (R327): the slot waits for acceptance, and takes every tile that is pending then. -/
def EngSlot.retry (e : EngSlot) : EngSlot :=
  { e with state := .issued, fault := none, cmd := e.cmd.map fun c => { c with snap := none } }

/-- Cancelling a command (R327): its held set returns, and no token is sent. -/
def EngSlot.cancel (e : EngSlot) : EngSlot := { e with state := .free, held := 0, fault := none, cmd := none, rslot := false }

/-- A render slot of a die becomes free again (R330). -/
def State.freeRslot (s : State) (c : CoreId) (e : EngSlot) : State :=
  if e.rslot then { s with rslots := s.rslots.set (coreDie c) (s.rslots[coreDie c] - 1) } else s

/-- Cancelling the command of a slot: the census falls (R327). -/
def State.cancelCmd (s : State) (c : CoreId) (slot : Fin 8) : State :=
  let k := s.core c
  let e := k.eng[slot]
  let t := (s.setCore c { k with eng := k.eng.set slot e.cancel }).freeRslot c e
  match k.gang, e.cmd with
  | some g, some _ => (t.lower g 1).stampIdle g
  | _, _ => t

/-- ERET (R360): after a precise trap the firing continues at trappc or after it; after an engine fault the halted
command is accepted again or cancelled, and the suspended firing, if there is one, continues at trappc. -/
def eretAct (o : Ops) (s : State) : Act :=
  let skip := o.bit 0
  let k := s.me
  if k.trapcause.getLsbD 11 then
    let slot := Fin.ofNat 8 (k.trapcause.extractLsb' 8 3).toNat
    let t := if skip then s.cancelCmd s.cur slot
      else s.setMe { k with eng := k.eng.set slot k.eng[slot].retry }
    .fin ((t.setCore s.cur ((t.core s.cur).resume k.trappc)).stampCore s.cur)
  else .fin (s.setMe (k.resume (if skip then k.trappc + 16 else k.trappc)))

/-- ERET (R360). -/
def execEret (h : Hdr) (o : Ops) (s : State) : Out := issue h o trapOnly (eretAct o) s

/-- KILL (R361). -/
def execKill (h : Hdr) (o : Ops) (s : State) : Out := issue h o trapOnly (fun s => .fin s.killByTrap) s

end Sys2Proof.Machine
end

