-- ==== Sys2Proof/Machine/Image.lean ====
section
/-!
DEFINITION. Sys2Proof/Machine/Image.lean: the launch tuple (R209, R210) and the image that it names: reading the header
and the tables (R51, R53, R54), and the checks that the dispatcher makes on them (R44 to R46, R50, R52, R188).
-/

namespace Sys2Proof.Machine

open Sys2Proof

/-! ### The launch tuple (R209, R210) -/

/-- The fields of a launch tuple. Its reserved fields are ignored. -/
def launchOf (t : BitVec 512) : Launch where
  w      := getBits t 64 8
  h      := getBits t 72 8
  part   := t.getLsbD 80
  sys    := t.getLsbD 81
  asid   := t.extractLsb' 96 16
  pri    := t.extractLsb' 120 8
  image  := t.extractLsb' 128 64
  arg    := t.extractLsb' 192 64
  creg   := t.extractLsb' 256 64
  ctag   := t.extractLsb' 320 64
  live   := getBits t 384 32
  cookie := t.extractLsb' 448 64

/-- Are the fields of a launch tuple in range? A tuple that fails is completed with BADLAUNCH. -/
def Launch.inRange (l : Launch) : Bool :=
  decide (1 ≤ l.w) && decide (l.w ≤ 16) && decide (1 ≤ l.h) && decide (l.h ≤ 8) &&
  decide (l.image.toNat < 2 ^ 56) && decide (l.arg.toNat < 2 ^ 56) && l.image.toNat % 4096 == 0 &&
  l.live % 4096 == 0 && decide (l.live ≤ 524288) && l.asid != 0

/-! ### Header and tables (R50 to R54) -/

/-- Rounding up to a multiple. -/
def upTo (x a : Nat) : Nat := (x + a - 1) / a * a

/-- The code offset and the code size. -/
def hdrCode (h : BitVec 512) : Nat × Nat := (getBits h 192 32, getBits h 224 32)

/-- Does every section lie where the layout puts it (R50)? -/
def hdrLayout (h : BitVec 512) : Bool :=
  let code := upTo (64 + 16 * getBits h 112 8 + 16 * getBits h 128 32) 256
  let data := upTo (code + getBits h 224 32) 4096
  let ls := upTo (data + getBits h 288 32) 256
  let rel := upTo (ls + getBits h 352 32) 256
  let sym := upTo (rel + 8 * getBits h 416 32) 256
  getBits h 192 32 == code && getBits h 256 32 == data && getBits h 320 32 == ls && getBits h 384 32 == rel &&
  getBits h 448 32 == sym

/-- An actor index of the header; 0xFF is none. -/
def hdrActor (h : BitVec 512) (lo : Nat) : Option Nat := if getBits h lo 8 = 0xFF then none else some (getBits h lo 8)

/-- Is a header sound, and does it agree with its launch (R44, R50 to R52, R210)? -/
def hdrOk (h : BitVec 512) (l : Launch) : Bool :=
  let n := getBits h 112 8
  getBits h 0 32 == 0x39464C46 && getBits h 32 8 == 3 &&
  getBits h 60 4 == 0 && getBits h 120 8 == 0 && getBits h 160 32 == 0 &&
  getBits h 40 8 == l.w && getBits h 48 8 == l.h && decide (getBits h 56 4 ≤ 8) && getBits h 64 32 == l.live &&
  decide (1 ≤ n) && (hdrActor h 96).all (fun i => decide (i < n)) && (hdrActor h 104).all (fun i => decide (i < n)) &&
  (hdrCode h).2 % 16 == 0 && hdrLayout h && decide (getBits h 352 32 ≤ l.live)

/-- An actor-table entry (R53). -/
def actorOf (e : BitVec 128) : Actor where
  slot    := Fin.ofNat 8 (getBits e 0 3)
  prio    := Fin.ofNat 4 (getBits e 8 2)
  source  := e.getLsbD 10
  firstIn := if e.getLsbD 11 then some (Fin.ofNat 16 (getBits e 12 4)) else none
  x0      := getBits e 16 8
  y0      := getBits e 24 8
  w       := getBits e 32 8
  h       := getBits e 40 8
  entry   := getBits e 64 32

/-- Are the reserved fields of an actor-table entry zero, and its firstin where it declares no input? -/
def actorRsvOk (e : BitVec 128) : Bool :=
  getBits e 3 5 == 0 && getBits e 48 16 == 0 && getBits e 96 32 == 0 && (e.getLsbD 11 || getBits e 12 4 == 0)

/-- A channel-table entry (R54). -/
def chanOf (e : BitVec 128) : Chan where
  prodAct   := getBits e 0 8
  prodPort  := Fin.ofNat 16 (getBits e 8 4)
  consPort  := Fin.ofNat 16 (getBits e 12 4)
  consAct   := getBits e 16 8
  slots     := getBits e 32 7
  prodCount := getBits e 40 7
  consCount := getBits e 48 7
  payload   := getBits e 56 6
  dx        := signedOf 8 (getBits e 64 8)
  dy        := signedOf 8 (getBits e 72 8)

/-- Are the reserved fields of a channel-table entry zero? -/
def chanRsvOk (e : BitVec 128) : Bool :=
  getBits e 24 8 == 0 && !e.getLsbD 39 && !e.getLsbD 47 && !e.getLsbD 55 && getBits e 62 2 == 0 && getBits e 80 48 == 0

/-! ### The checks on the tables (R44 to R46, R53, R54, R188) -/

/-- The channels that an actor consumes. -/
def Image.insOf (m : Image) (i : Nat) : List Chan := m.chans.filter (·.consAct == i)

/-- Does an actor lie inside the gang, enter its code, and name one of its inputs as the first (R44, R53)? A rectangle that is empty
or reaches beyond the gang makes a bad image. DEDUCED, log entry 81. -/
def Image.actorOk (m : Image) (l : Launch) (code : Nat × Nat) (i : Nat) (a : Actor) : Bool :=
  decide (1 ≤ a.w) && decide (1 ≤ a.h) && decide (a.x0 + a.w ≤ 2 * l.w) && decide (a.y0 + a.h ≤ 2 * l.h) &&
  a.entry % 16 == 0 && decide (code.1 ≤ a.entry) && decide (a.entry + 16 ≤ code.1 + code.2) &&
  (match a.firstIn with
    | none => (m.insOf i).isEmpty
    | some p => (m.insOf i).any (·.consPort == p))

/-- Do the instances of a channel join its producer's rectangle to its consumer's, core by core (R46)? -/
def chanJoins (c : Chan) (p q : Actor) : Bool :=
  (q.x0 : Int) == p.x0 + c.dx && (q.y0 : Int) == p.y0 + c.dy && q.w == p.w && q.h == p.h

/-- Is a channel in range, between two actors of the table (R44, R46, R54)? -/
def Image.chanOk (m : Image) (c : Chan) : Bool :=
  decide (1 ≤ c.slots) && decide (c.slots ≤ 64) && decide (1 ≤ c.prodCount) && decide (c.prodCount ≤ c.slots) &&
  decide (1 ≤ c.consCount) && decide (c.consCount ≤ c.slots) && decide (c.payload ≤ 32) &&
  (match m.actors[c.prodAct]?, m.actors[c.consAct]? with
    | some p, some q => chanJoins c p q
    | _, _ => false)

/-- The ports that the channels bind, as actor and port (R44). DEDUCED, log entry 51. -/
def Image.bound (m : Image) : List (Nat × Fin 16) :=
  m.chans.flatMap fun c => [(c.prodAct, c.prodPort), (c.consAct, c.consPort)]

/-- Has a list no repeats? -/
def distinct {α : Type} [BEq α] : List α → Bool
  | [] => true
  | x :: l => !l.contains x && distinct l

/-- Do two rectangles of cores share a core? -/
def Actor.meets (a b : Actor) : Bool :=
  decide (a.x0 < b.x0 + b.w) && decide (b.x0 < a.x0 + a.w) && decide (a.y0 < b.y0 + b.h) && decide (b.y0 < a.y0 + a.h)

/-- Do no two actors share a slot on a core (R45)? -/
def slotsApart : List Actor → Bool
  | [] => true
  | a :: l => l.all (fun b => a.slot != b.slot || !a.meets b) && slotsApart l

/-- Does one rectangle contain another? -/
def Actor.contains (a b : Actor) : Bool :=
  decide (a.x0 ≤ b.x0) && decide (b.x0 + b.w ≤ a.x0 + a.w) && decide (a.y0 ≤ b.y0) && decide (b.y0 + b.h ≤ a.y0 + a.h)

/-- Is an actor the trap actor or the Dusk actor? -/
def Image.special (m : Image) (i : Nat) : Bool := m.trap == some i || m.dusk == some i

/-- The rules of trap, Dusk and source actors (R45), and no idle actor (R188). -/
def Image.rolesOk (m : Image) : Bool :=
  let l := m.actors.zipIdx
  l.any (fun x => x.1.source && !m.special x.2) &&
  l.all (fun x =>
    if m.special x.2 then !x.1.source && !m.bound.any (·.1 == x.2) else x.1.source || !(m.insOf x.2).isEmpty) &&
  (match m.trap.bind (m.actors[·]?) with
    | some t => l.all fun x => m.trap == some x.2 || t.contains x.1
    | none => true)

/-- Have the merge inputs of each actor one consumption count (R188)? -/
def Image.mergesOk (m : Image) : Bool :=
  m.chans.all fun c => m.chans.all fun d =>
    c.consAct != d.consAct || decide (c.consPort.val < 8) || decide (d.consPort.val < 8) || c.consCount == d.consCount

/-- The channels whose token their consumer cannot do without: bound to a required input, or its only merge input. -/
def Image.needed (m : Image) : List Chan :=
  m.chans.filter fun c => decide (c.consPort.val < 8) ||
    ((m.insOf c.consAct).filter fun d => decide (8 ≤ d.consPort.val)).length == 1

/-- Removing, `n` times, the actors that no needed channel enters from an actor that is left. -/
def peel (l : List Chan) : Nat → List Nat → List Nat
  | 0, left => left
  | n + 1, left => peel l n (left.filter fun v => l.any fun c => c.consAct == v && left.contains c.prodAct)

/-- Is there no dead loop (R188)? The rectangles of a channel match (R46), so that a cycle of actors closes on
instances. -/
def Image.noDeadLoop (m : Image) : Bool :=
  (peel m.needed m.actors.length (List.range m.actors.length)).isEmpty

/-- Are the tables of an image sound? DEDUCED, log entry 51. -/
def Image.ok (m : Image) (l : Launch) (code : Nat × Nat) : Bool :=
  m.actors.zipIdx.all (fun x => m.actorOk l code x.2 x.1) && m.chans.all m.chanOk && distinct m.bound &&
  slotsApart m.actors && m.rolesOk && m.mergesOk && m.noDeadLoop

/-! ### Reading as a dispatcher (R210) -/

/-- Why a read of a dispatcher fails: a fault, with its address, or an uncorrectable error, with the read and its place;
or that it waits for the credit of a home that answers it (R220). -/
inductive DispErr where
  | wait
  | fault (cause : Byte) (va : Word)
  | hard (va : Word) (n pa : Nat)
  deriving DecidableEq, Repr

/-- The place of an access of a dispatcher to `n` bytes, 0 where it only translates, through a walk of its own that no TLB keeps.
DEDUCED, log entry 49. -/
def State.dispPlace (s : State) (asid : BitVec 16) (u : Use) (va n : Nat) : Except DispErr Place :=
  if inWindow va then .error (.fault cSCRX (BitVec.ofNat 64 va))
  else if 2 ^ 56 ≤ va then .error (.fault cXLATE (BitVec.ofNat 64 va))
  else if s.walkShut asid va then .error .wait
  else match s.walk asid va with
    | .error ⟨c, none⟩ => .error (.fault c (BitVec.ofNat 64 va))
    | .error ⟨_, some pa⟩ => .error (.hard (BitVec.ofNat 64 va) n pa)
    | .ok p => match s.placeIn u p va with
      | .error c => .error (.fault c (BitVec.ofNat 64 va))
      | .ok pl =>
        if n != 0 && !s.placeOpen pl then .error .wait
        else if s.hardAt (s.placeSites u pl n) then .error (.hard (BitVec.ofNat 64 va) n (p.pa va)) else .ok pl

/-- The walk of a dispatcher corrects the single-bit errors that it meets (R236). -/
def State.dispWalk (s : State) (asid : BitVec 16) (va : Nat) : State :=
  if inWindow va || decide (2 ^ 56 ≤ va) then s else s.walked asid va

/-- The single-bit errors that a read of a dispatcher meets are corrected: those of its walk, and where that gives a page those of the
place, an uncorrectable error there or not (R236). -/
def State.dispMeet (s : State) (asid : BitVec 16) (va n : Nat) : State :=
  let t := s.dispWalk asid va
  match s.dispPlace asid .read va 0 with
  | .ok pl => t.correct (s.homeOf pl) (s.placeSites .read pl n)
  | .error _ => t

/-- Those that the reads of a dispatcher meet, 16 bytes at a time. -/
def State.dispMeets (s : State) (asid : BitVec 16) (va n : Nat) : State :=
  if s.upsets.isEmpty then s
  else (List.range ((n + 15) / 16)).foldl (fun (s : State) i => s.dispMeet asid (va + 16 * i) 16) s

/-- A read of a dispatcher inside one page. -/
def State.dispRead (s : State) (asid : BitVec 16) (va n : Nat) : Except DispErr Nat :=
  (s.dispPlace asid .read va n).map fun pl => s.readAt pl n

/-- `n` entries of 16 bytes from `va` on. -/
def State.dispTable (s : State) (asid : BitVec 16) (va : Nat) : Nat → Except DispErr (List (BitVec 128))
  | 0 => .ok []
  | n + 1 => do
    let x ← s.dispRead asid va 16
    let l ← s.dispTable asid (va + 16) n
    .ok (BitVec.ofNat 128 x :: l)

/-- `n` blocks of 64 bytes from `va` on, as their bytes. -/
def State.dispBytes (s : State) (asid : BitVec 16) (va : Nat) : Nat → Except DispErr (List Byte)
  | 0 => .ok []
  | n + 1 => do
    let x ← s.dispRead asid va 64
    let l ← s.dispBytes asid (va + 64) n
    .ok (bytesOf 64 x ++ l)

/-- The image of a launch: none where it breaks a rule. DEDUCED, log entry 49. -/
def State.loadImage (s : State) (l : Launch) : Except DispErr (Option Image) := do
  let va := l.image.toNat
  let h := BitVec.ofNat 512 (← s.dispRead l.asid va 64)
  if !hdrOk h l then .ok none
  else
    let n := getBits h 112 8
    let acts ← s.dispTable l.asid (va + 64) n
    let chs ← s.dispTable l.asid (va + 64 + 16 * n) (getBits h 128 32)
    let m : Image := {
      rdepth := getBits h 56 4, lsize := l.live, trap := hdrActor h 96, dusk := hdrActor h 104
      actors := acts.map actorOf, chans := chs.map chanOf, lsoff := getBits h 320 32, lssize := getBits h 352 32 }
    .ok (if acts.all actorRsvOk && chs.all chanRsvOk && m.ok l (hdrCode h) then some m else none)

end Sys2Proof.Machine
end

