-- ==== Sys2Proof/Machine/Mitten.lean ====
section
/-!
DEFINITION. Sys2Proof/Machine/Mitten.lean: Mitten mode (R294 to R309): the array, MXPOSE, MXOUT and MSEQ, and the steps
MITTEN_COMMAND_START and MITTEN_COMMAND_COMPLETE.
-/

namespace Sys2Proof.Machine

open Sys2Proof

/-! ### The array (R294, R295) -/

/-- The address, within a slice's ways, of the byte of a row that holds a lane. -/
def laneByte (mit : List Nat) (row lane : Nat) : Nat := mit.getD (lane / 8192) 0 * 2 ^ 20 + row * 1024 + lane % 8192 / 8

/-- One bit of the array. -/
def Slice.laneBit (z : Slice) (mit : List Nat) (row lane : Nat) : Bool :=
  (memRead z.way (laneByte mit row lane)).getLsbD (lane % 8)

/-- The `w`-bit value that stands at a row of a lane. -/
def Slice.laneVal (z : Slice) (mit : List Nat) (row lane : Nat) : Nat → Nat
  | 0 => 0
  | w + 1 => (z.laneBit mit row lane).toNat + 2 * z.laneVal mit (row + 1) lane w

/-- Writing one bit of the array. -/
def Slice.setBit (z : Slice) (mit : List Nat) (row lane : Nat) (b : Bool) : Slice :=
  let a := laneByte mit row lane
  let bit : Byte := 1 <<< (lane % 8)
  let old := memRead z.way a
  { z with way := memWrite z.way a (if b then old ||| bit else old &&& ~~~bit) }

/-- Writing the low `w` bits of a number at a row of a lane. -/
def Slice.setLane (z : Slice) (mit : List Nat) (row lane x : Nat) : Nat → Slice
  | 0 => z
  | w + 1 => (z.setBit mit row lane (x.testBit 0)).setLane mit (row + 1) lane (x / 2) w

/-- A `w`-bit value read as signed or unsigned. -/
def asInt (signed : Bool) (w x : Nat) : Int := if signed then signedOf w x else x

/-- The quad of a Mitten address. -/
def maQuad (a : Word) : Nat := getBits a 0 16
/-- Its first row. -/
def maRow (a : Word) : Nat := getBits a 16 10
/-- Its first lane. -/
def maLane (a : Word) : Nat := getBits a 32 18

/-- The slice beneath a quad of a gang. -/
def Gang.quadSlice (g : Gang) (q : Nat) : SliceId := sliceAt (g.qx + q % g.launch.w) (g.qy + q / g.launch.w)

/-- The Mitten ways of a gang, ascending (R239). -/
def Gang.mitten (g : Gang) (resv : Fin 5) : List Nat := waysOfUse resv g.ways 2

/-- A row of Mitten ways in which an error stands: of several the first in the list of errors (R308). DESIGN CHOICE, log entry 104. -/
def State.badRow (s : State) (q : SliceId) (mit : List Nat) (lo n : Nat) : Option Nat :=
  (s.upsets.find? fun u => match u.site with
    | .way z w => z == q && mit.contains (w * 8 / 2 ^ 20) && decide (lo ≤ w * 8 % 2 ^ 20 / 1024) &&
        decide (w * 8 % 2 ^ 20 / 1024 < lo + n)
    | _ => false).bind fun u => match u.site with
    | .way _ w => some (w * 8 % 2 ^ 20 / 1024)
    | _ => none

/-- The number of a slice's quad within a gang. -/
def Gang.quadNo (g : Gang) (q : SliceId) : Nat := (q.val / 16 - g.qy) * g.launch.w + (q.val % 16 - g.qx)

/-- A row whose parity fails as no command reads it: the error log of the slice counts it, and the gang that holds the quad ends, with
the quad and the row (R308). -/
def State.rowFault (s : State) (g : Gang) (q : SliceId) (row : Nat) : State :=
  (s.setSlice q { s.slice q with errors := (s.slice q).errors + 1 }).doom g.gid
    ⟨stFault, cECCU, 0, BitVec.ofNat 64 (g.quadNo q + row * 2 ^ 16), 0, 0, 0⟩

/-! ### Issue (R296, R300, R302) -/

/-- The Mitten commands of a core that have not completed. -/
def State.mittenOf (s : State) (c : CoreId) : Nat :=
  (s.slices.toList.map fun z => (z.mcmds.filter (·.core == c)).length).sum

/-- The writes of the running firing that are not acknowledged (R267, R268). -/
def State.openWrites (s : State) : List Nat :=
  ((s.ofFiring s.me.fid).filter fun a => match a.req with
    | .store _ _ | .atom _ _ _ _ _ | .red _ _ _ => true
    | _ => false).map (·.id)

/-- The port check of a command: an output of the current actor, where it names one. -/
def cmdPre (x : Operand) (s : State) : Option (Byte × Word) :=
  match x with
  | .c _ => needOut x s
  | _ => none

/-- The instance of the port that a command names. -/
def State.cmdPort (s : State) (x : Operand) : Option ChanRef :=
  match x with
  | .c _ => (s.outPort x.portNo.val).map (·.1)
  | _ => none

/-- A Mitten command issues (R296): a fifth one waits; a quad outside the gang ends the gang with SCRX (R298). Commands reach a slice
in the order in which they issue, those of different cores too. Of an MSEQ the descriptor's VA is reported. DESIGN CHOICE, log entry 87.
DESIGN CHOICE, log entry 101. -/
def mittenAct (op : MOp) (maddr va cnt : Word) (o : Ops) (port : Operand) (token : Word) (align : Nat) (s : State) :
    Act :=
  if va.toNat % align != 0 then .trap cALIGN va
  else match s.gangAt s.me with
    | none => .wait
    | some g =>
      if 4 ≤ s.mittenOf s.cur ∨ s.portShut then .wait
      else
        let t := s.raise g.gid 1
        if g.launch.w * g.launch.h ≤ maQuad maddr then .go (t.fatal g.gid cSCRX s.me.pc (if op = .mseq then va else maddr) s.cur)
        else
          let q := g.quadSlice (maQuad maddr)
          let z := t.slice q
          let c : MCmd := ⟨s.nextId, op, s.cur, s.me.fire.getD ⟨0, .normal, 0⟩, g.gid, s.me.pc, maddr, va, cnt, o.md,
            s.cmdPort port, token, s.openWrites, none, 0, false, []⟩
          .go (({ t with nextId := s.nextId + 1 } : State).setSlice q { z with mcmds := z.mcmds ++ [c] })

/-- The element width of MXPOSE and MXOUT. -/
def mxWidth (md : BitVec 24) : Nat := mdBits md 0 5 + 1
/-- The element size in memory (R301). -/
def mxSize (w : Nat) : Nat := if w ≤ 8 then 1 else if w ≤ 16 then 2 else 4

/-- MXPOSE (R300). -/
def execMxpose (h : Hdr) (o : Ops) (s : State) : Out :=
  issue h o (cmdPre o.o3) (fun s =>
    mittenAct .mxpose (s.me.word o.o0 0) (addOff (s.me.word o.o1 0) o.imm) (s.me.word o.o2 0) o o.o3
      (s.me.word o.o4 0) (mxSize (mxWidth o.md)) s) s

/-- MXOUT (R300). -/
def execMxout (h : Hdr) (o : Ops) (s : State) : Out :=
  issue h o (cmdPre o.o3) (fun s =>
    mittenAct .mxout (s.me.word o.o1 0) (addOff (s.me.word o.o0 0) o.imm) (s.me.word o.o2 0) o o.o3
      (s.me.word o.o4 0) (mxSize (mxWidth o.md)) s) s

/-- MSEQ (R302). -/
def execMseq (h : Hdr) (o : Ops) (s : State) : Out :=
  issue h o (cmdPre o.o2) (fun s =>
    mittenAct .mseq (s.me.word o.o1 0) (addOff (s.me.word o.o0 0) o.imm) 0 o o.o2 (s.me.word o.o3 0) 64 s) s

/-! ### The work of MXPOSE and MXOUT (R301) -/

/-- Transposing `n` elements from memory into lanes, from element `j` on. -/
def State.mxposeFrom (s : State) (g : Gang) (c : MCmd) (q : SliceId) (mit : List Nat) (w j : Nat) :
    Nat → AgentR State
  | 0 => .ok s
  | n + 1 =>
    let va := (c.va + BitVec.ofNat 64 (j * mxSize w))
    match s.agentRead g c.core va.toNat (mxSize w) with
    | .error e => .error e
    | .ok (t, x) =>
      (t.setSlice q ((t.slice q).setLane mit (maRow c.maddr) (maLane c.maddr + j) x w)).mxposeFrom g c q mit w (j + 1) n

/-- Transposing `n` elements out of lanes to memory, from element `j` on. -/
def State.mxoutFrom (s : State) (g : Gang) (c : MCmd) (q : SliceId) (mit : List Nat) (w j : Nat) :
    Nat → AgentR State
  | 0 => .ok s
  | n + 1 =>
    let va := (c.va + BitVec.ofNat 64 (j * mxSize w))
    let y := asInt (c.md.getLsbD 5) w ((s.slice q).laneVal mit (maRow c.maddr) (maLane c.maddr + j) w)
    match s.agentWrite g c.core va.toNat (mxSize w) (wrapI (8 * mxSize w) y) with
    | .error e => .error e
    | .ok t => t.mxoutFrom g c q mit w (j + 1) n

/-- Does a range of a command touch the slice window (R298)? -/
def MCmd.inWindow (c : MCmd) (s : Nat) : Bool :=
  decide (0 < c.cnt.toNat) && decide (c.va.toNat < 2 ^ 56) &&
  decide (0x00FFFF8000000000 < c.va.toNat + c.cnt.toNat * s)

/-- Errors leave the rows that a command writes: their parity is made anew (R308). A lane that is not written keeps the value that it held
before the error. DESIGN CHOICE, log entry 115. -/
def State.clearRows (s : State) (q : SliceId) (mit : List Nat) (lo n : Nat) : State :=
  { s with upsets := s.upsets.filter fun u => match u.site with
      | .way z w => !(z == q && mit.contains (w * 8 / 2 ^ 20) && decide (lo ≤ w * 8 % 2 ^ 20 / 1024) &&
          decide (w * 8 % 2 ^ 20 / 1024 < lo + n))
      | _ => true }

/-- A parity error of a row of a slice: the error log of the slice counts it, and the gang ends with ECCU, with the quad and the row
(R308). -/
def State.parityErr (s : State) (c : MCmd) (q : SliceId) (row : Nat) : AgentErr :=
  ⟨⟨cECCU, none⟩, BitVec.ofNat 64 (maQuad c.maddr + row * 2 ^ 16),
    s.setSlice q { s.slice q with errors := (s.slice q).errors + 1 }⟩

/-- The elements that an MXPOSE or MXOUT moves next: those that are left, up to the end of a 512-byte granule of its memory
side (R307). -/
def MCmd.granule (c : MCmd) (s : Nat) : Nat :=
  min (c.cnt.toNat - c.cursor) ((512 - (c.va.toNat + c.cursor * s) % 512) / s)

/-- The Mitten ways of a command at its slice: those that it started with, which no later change of the slice takes from it
(R299, R305, R307). DEDUCED, log entry 105. -/
def State.cmdWays (s : State) (g : Gang) (c : MCmd) (q : SliceId) : List Nat :=
  if c.began.isNone then g.mitten (s.resvAt q) else c.ways

/-- MXPOSE and MXOUT: at the start the ranges (R298, R301), then the elements in order, one granule a step (R307).
DEDUCED, log entry 105. -/
def State.mxRun (s : State) (g : Gang) (c : MCmd) (q : SliceId) : AgentR (State × MCmd) :=
  let mit := s.cmdWays g c q
  let w := mxWidth c.md
  if c.began.isNone && (mit.isEmpty || decide (1024 < maRow c.maddr + w) ||
      decide (8192 * mit.length < maLane c.maddr + c.cnt.toNat) || c.inWindow (mxSize w)) then
    .error ⟨⟨cSCRX, none⟩, c.maddr, s⟩
  else
    let n := c.granule (mxSize w)
    let d : MCmd := { c with
      began := some 0, cursor := c.cursor + n, ended := decide (c.cnt.toNat ≤ c.cursor + n), ways := mit }
    if n = 0 then .ok (s, d)
    else if c.op = .mxpose then
      (s.mxposeFrom g c q mit w c.cursor n).map fun t => (t.clearRows q mit (maRow c.maddr) w, d)
    else match s.badRow q mit (maRow c.maddr) w with
      | some r => .error (s.parityErr c q r)
      | none => (s.mxoutFrom g c q mit w c.cursor n).map fun t => (t, d)

/-! ### The sequencer (R303 to R305) -/

/-- A signed field. -/
def sBits (d : BitVec 512) (lo w : Nat) : Int := signedOf w (getBits d lo w)

/-- One level of the sequencer. -/
structure Level where
  trip : Nat
  ca   : Int
  aa   : Int
  ba   : Int
  lo   : Nat
  pad  : Nat
  deriving DecidableEq, Repr

/-- The descriptor of an MSEQ (R303). -/
structure SeqDesc where
  op     : Nat
  wacc   : Nat
  wa     : Nat
  wb     : Nat
  sacc   : Bool
  sa     : Bool
  sb     : Bool
  sat    : Bool
  bconst : Bool
  accrow : Nat
  arow   : Nat
  brow   : Nat
  bval   : Nat
  aoff   : Int
  levels : List Level
  deriving DecidableEq, Repr

/-- Level `k` of a descriptor. -/
def seqLevel (d : BitVec 512) (k : Nat) : Level where
  trip := getBits d (64 * k + 128) 16
  ca   := sBits d (64 * k + 144) 11
  aa   := sBits d (64 * k + 155) 11
  ba   := sBits d (64 * k + 166) 11
  lo   := getBits d (64 * k + 177) 2
  pad  := getBits d (64 * k + 179) 2

/-- The fields of a descriptor (R303). -/
def seqDesc (d : BitVec 512) : SeqDesc where
  op     := getBits d 0 4
  wacc   := getBits d 4 5 + 1
  wa     := getBits d 9 4 + 1
  wb     := getBits d 13 4 + 1
  sacc   := d.getLsbD 17
  sa     := d.getLsbD 18
  sb     := d.getLsbD 19
  sat    := d.getLsbD 20
  bconst := d.getLsbD 21
  accrow := getBits d 32 10
  arow   := getBits d 42 10
  brow   := getBits d 52 10
  bval   := getBits d 64 16
  aoff   := sBits d 80 8
  levels := (List.range 5).map (seqLevel d)

/-- The lane step of a level. -/
def Level.step (l : Level) : Int := match l.lo with
  | 1 => 1
  | 3 => -1
  | _ => 0

/-- The least and the greatest of a base plus the steps of the levels over all indices. -/
def seqBounds (ls : List Level) (f : Level → Int) (base : Int) : Int × Int :=
  ls.foldl (fun x l =>
    let e := f l * ((l.trip : Int) - 1)
    (x.1 + min 0 e, x.2 + max 0 e)) (base, base)

/-- Do the rows of an operand stay in the array (R304)? -/
def seqRows (ls : List Level) (f : Level → Int) (row w : Nat) : Bool :=
  let b := seqBounds ls f row
  decide (0 ≤ b.1) && decide (b.2 + w ≤ 1024)

/-- Is a descriptor well-formed (R303, R304)? -/
def SeqDesc.ok (d : SeqDesc) : Bool :=
  let b := seqBounds d.levels Level.step d.aoff
  decide (d.op < 10) && d.levels.all (fun l => l.trip != 0 && l.lo != 2 && l.pad != 3) &&
  decide (-8 ≤ b.1) && decide (b.2 ≤ 8) &&
  seqRows d.levels (·.ca) d.accrow d.wacc && seqRows d.levels (·.aa) d.arow d.wa &&
  (d.bconst || seqRows d.levels (·.ba) d.brow d.wb)

/-- The index of each level, L0 first, in the `n`-th body. -/
def seqIdx : List Level → Nat → List Nat
  | [], _ => []
  | l :: r, n => n % l.trip :: seqIdx r (n / l.trip)

/-- A base plus the steps of the levels at some indices. -/
def seqAt (ls : List Level) (f : Level → Int) (base : Int) (idx : List Nat) : Int :=
  (ls.zip idx).foldl (fun x y => x + f y.1 * y.2) base

/-- The padding that counts: that of the lowest level with a lane step (R305). -/
def SeqDesc.padOf (d : SeqDesc) : Nat := match d.levels.find? (·.lo != 0) with
  | some l => l.pad
  | none => 0

/-- The exact result of a body (R305). -/
def SeqDesc.result (d : SeqDesc) (a b c : Int) : Int :=
  let bitw := fun (f : Nat → Nat → Nat) => (f (wrapI d.wacc a) (wrapI d.wacc b) : Int)
  match d.op with
  | 0 => a + b
  | 1 => a - b
  | 2 => a * b
  | 3 => c + a * b
  | 4 => bitw (· &&& ·)
  | 5 => bitw (· ||| ·)
  | 6 => bitw (· ^^^ ·)
  | 7 => wrapI d.wacc (a - bitw (· &&& ·))
  | 8 => if b < a then 1 else 0
  | _ => if b ≠ 0 then a else c

/-- The bits that a body leaves in the accumulator: clamped for an arithmetic operation with sat, else wrapped. -/
def SeqDesc.narrow (d : SeqDesc) (x : Int) : Nat :=
  if d.sat ∧ d.op < 4 then
    let lo := if d.sacc then -(2 ^ (d.wacc - 1) : Int) else 0
    let hi := if d.sacc then (2 ^ (d.wacc - 1) : Int) - 1 else (2 ^ d.wacc : Int) - 1
    wrapI d.wacc (min (max x lo) hi)
  else wrapI d.wacc x

/-- What a body writes in a lane, none where the lane is skipped; every read is of the rows before the body. -/
def SeqDesc.lane (d : SeqDesc) (z : Slice) (mit : List Nat) (nl ra rb rc : Nat) (disp : Int) (lane : Nat) : Option Nat :=
  let la := (lane : Int) + disp
  let out := decide (la < 0) || decide ((nl : Int) ≤ la)
  if out && d.padOf == 2 then none
  else
    let a := if out && d.padOf == 0 then 0
      else asInt d.sa d.wa (z.laneVal mit ra (min (max la 0) (nl - 1)).toNat d.wa)
    let b := asInt d.sb d.wb (if d.bconst then d.bval % 2 ^ d.wb else z.laneVal mit rb lane d.wb)
    let c := asInt d.sacc d.wacc (z.laneVal mit rc lane d.wacc)
    some (d.narrow (d.result a b c))

/-- One body (R305): all reads before any write. -/
def SeqDesc.body (d : SeqDesc) (z : Slice) (mit : List Nat) (n : Nat) : Slice :=
  let nl := 8192 * mit.length
  let idx := seqIdx d.levels n
  let ra := (seqAt d.levels (·.aa) d.arow idx).toNat
  let rb := (seqAt d.levels (·.ba) d.brow idx).toNat
  let rc := (seqAt d.levels (·.ca) d.accrow idx).toNat
  let disp := seqAt d.levels Level.step d.aoff idx
  let xs := (List.range nl).filterMap fun l => (d.lane z mit nl ra rb rc disp l).map fun x => (l, x)
  xs.foldl (fun z x => z.setLane mit rc x.1 x.2 d.wacc) z

/-- A row with an error that a body reads: one of a, else of the accumulator, else of b (R308). DESIGN CHOICE, log entry 104. -/
def SeqDesc.bad (d : SeqDesc) (s : State) (q : SliceId) (mit : List Nat) (n : Nat) : Option Nat :=
  let idx := seqIdx d.levels n
  let rows := [(seqAt d.levels (·.aa) d.arow idx, d.wa), (seqAt d.levels (·.ca) d.accrow idx, d.wacc)] ++
    if d.bconst then [] else [(seqAt d.levels (·.ba) d.brow idx, d.wb)]
  rows.findSome? fun r => s.badRow q mit r.1.toNat r.2

/-- The bodies of a descriptor. -/
def SeqDesc.bodies (d : SeqDesc) : Nat := (d.levels.map (·.trip)).prod

/-- The start of an MSEQ: the descriptor is read as one block and checked (R302 to R304). DEDUCED, log entry 34. A fault of that read
is reported before nm = 0 is (R298). DESIGN CHOICE, log entry 109. -/
def State.seqStart (s : State) (g : Gang) (c : MCmd) (mit : List Nat) : AgentR (State × BitVec 512) :=
  if Machine.inWindow c.va.toNat then .error ⟨⟨cSCRX, none⟩, c.va, s⟩
  else match s.agentRead g c.core c.va.toNat 64 with
    | .error e => .error e
    | .ok (t, x) =>
      if mit.isEmpty || !(seqDesc (BitVec.ofNat 512 x)).ok then .error ⟨⟨cSCRX, none⟩, c.va, t⟩
      else .ok (t, BitVec.ofNat 512 x)

/-- The body at the cursor of a started MSEQ; the cursor then stands at the next body boundary (R305, R307).
DEDUCED, log entry 33. -/
def State.seqBody (s : State) (c : MCmd) (x : BitVec 512) (q : SliceId) (mit : List Nat) : AgentR (State × MCmd) :=
  match (seqDesc x).bad s q mit c.cursor with
  | some r => .error (s.parityErr c q r)
  | none => .ok (s.setSlice q ((seqDesc x).body (s.slice q) mit c.cursor),
      { c with began := some x, cursor := c.cursor + 1, ended := decide ((seqDesc x).bodies ≤ c.cursor + 1), ways := mit })

/-- MSEQ: one body a step, the first one with the start (R302 to R305, R307), in the lanes that it started with.
DEDUCED, log entry 105. -/
def State.seqRun (s : State) (g : Gang) (c : MCmd) (q : SliceId) : AgentR (State × MCmd) :=
  let mit := s.cmdWays g c q
  match c.began with
  | some x => s.seqBody c x q mit
  | none => match s.seqStart g c mit with
    | .error e => .error e
    | .ok (t, x) => t.seqBody c x q mit

/-! ### Start and completion (R296 to R298) -/

/-- The next piece of a command's work at its slice, and the command after it. -/
def State.mittenRun (s : State) (g : Gang) (c : MCmd) (q : SliceId) : AgentR (State × MCmd) :=
  match c.op with
  | .mseq => s.seqRun g c q
  | _ => s.mxRun g c q

/-- Replacing the commands of a slice. -/
def State.setMcmds (s : State) (q : SliceId) (l : List MCmd) : State := s.setSlice q { s.slice q with mcmds := l }

/-- MITTEN_COMMAND_START: the oldest command of a slice starts, once the earlier global writes of its firing are
acknowledged (R268); the step comes again until the work is done, from the cursor on, so that a pre-emption stops the
command at a body boundary or a granule (R307). No other command of the slice runs before it completes (R296), and once its work is
done it runs no more (R365). A slice whose port has no credit waits, as it does for the credit of the homes that answer it (R220).
DEDUCED, log entry 33. -/
def mittenStart (q : SliceId) (s : State) : State :=
  match (s.slice q).mcmds with
  | [] => s
  | c :: rest =>
    match s.gangOf c.gang with
    | none => s
    | some g =>
      if c.ended || !g.active || !s.portOpen (slicePort q) || c.after.any (fun a => (s.access a).isSome) then s
      else match s.mittenRun g c q with
        | .error e => s.agentFault g.gid c.core c.ipc { e with s := e.s.setMcmds q rest }
        | .ok (t, d) =>
          let u := t.setMcmds q (d :: rest)
          if d.ended then u.stampIdle g.gid else u

/-- MITTEN_COMMAND_START (R296). -/
def execMittenCommandStart (q : SliceId) (s : State) : Out := .next (mittenStart q s)

/-- A token of a command, an engine or a slice goes to an instance, where it has a free slot. -/
def State.sendToken (s : State) (gid : Nat) (r : ChanRef) (v : Word) : Option State :=
  match s.gangOf gid with
  | none => none
  | some g => match g.img.chans[r.chan]? with
    | none => none
    | some ch => if g.free r ch = 0 then none else some (s.enqueue gid r v [])

/-- MITTEN_COMMAND_COMPLETE (R296, R297): the token, where the command names a port, once its slice's port has credit (R220) and
its instance a free slot; then the census falls. Until then no other command of the slice starts. DESIGN CHOICE, log entry 87. -/
def mittenComplete (q : SliceId) (s : State) : State :=
  match (s.slice q).mcmds with
  | [] => s
  | c :: rest =>
    if !c.ended || s.gone c.gang then s
    else match c.port with
      | none => (s.setMcmds q rest).lower c.gang 1
      | some r =>
        if !s.portOpen (slicePort q) then s
        else match s.sendToken c.gang r c.token with
          | some t => (t.setMcmds q rest).lower c.gang 1
          | none => s

/-- MITTEN_COMMAND_COMPLETE (R297). -/
def execMittenCommandComplete (q : SliceId) (s : State) : Out := .next (mittenComplete q s)

end Sys2Proof.Machine
end

