-- ==== Sys2Proof/Machine/Engine.lean ====
section
/-!
DEFINITION. Sys2Proof/Machine/Engine.lean: the data engines (R312 to R329): OWN, COPY, GATHER and IWALK, and the steps of
their commands: COMMAND_ACCEPT, ENGINE_BURST, COMMAND_COMPLETE, COMPLETION_TOKEN_SEND and ENGINE_FAULT_DELIVERY.
-/

namespace Sys2Proof.Machine

open Sys2Proof

/-! ### OWN (R314, R315) -/

/-- The slot of a class 0xD instruction. -/
def slotOf (md : BitVec 24) : Fin 8 := Fin.ofNat 8 (mdBits md 0 3)

/-- Replacing a slot of a core. -/
def Core.setEng (k : Core) (slot : Fin 8) (e : EngSlot) : Core := { k with eng := k.eng.set slot e }

/-- The pending tiles that an issued command is to take at its acceptance (R312, R317). DEDUCED, log entry 62. -/
def EngSlot.claimed (e : EngSlot) : BitVec 128 :=
  if e.state == .issued then e.pending &&& (e.cmd.bind (·.snap)).getD 0 else 0

/-- Does an access of core `c` write some of its tiles, or read them: a remote access that names it, or the delivery of a TAKE or
CPY? -/
def Access.inTiles (a : Access) (c : CoreId) (tiles : BitVec 128) : Bool :=
  (match a.phase with
    | .sent (.remote t addr) => t == c && tileRange addr a.n &&& tiles != 0
    | _ => false) ||
  (a.core == c && (match a.req.lsDest with
    | some d => tileRange d 64 &&& tiles != 0
    | none => false))

/-- The running firing's accesses to tiles that it hands over come before the engine's (R267). -/
def State.markPre (s : State) (tiles : BitVec 128) : State :=
  { s with flight := s.flight.map fun a =>
      if a.core = s.cur ∧ a.inTiles s.cur tiles = true then { a with pre := decide (a.fire.fid = s.me.fid) } else a }

/-- OWN: with .rel the pending set returns, but for what an issued command is to take; otherwise the tiles are handed over once they are core-owned.
DEDUCED, log entry 62. -/
def ownAct (o : Ops) (s : State) : Act :=
  let slot := slotOf o.md
  let k := s.me
  let e := k.eng[slot]
  if o.bit 3 then .go (s.setMe (k.setEng slot { e with pending := e.claimed }))
  else
    let f := (k.word o.o0 0).toNat
    let c := (k.word o.o1 o.zext).toNat
    if 128 < f + c then .trap cALIGN (BitVec.ofNat 64 (f * 4096))
    else if k.owned (f * 4096) (c * 4096) then .wait
    else
      let tiles := tileRange (f * 4096) (c * 4096)
      .go ((s.setMe (k.setEng slot { e with pending := e.pending ||| tiles })).markPre tiles)

/-- OWN (R315). -/
def execOwn (h : Hdr) (o : Ops) (s : State) : Out := issue h o noPre (ownAct o) s

/-! ### Issue (R316, R317) -/

/-- Is the command one of the data engine? -/
def EngOp.isData : EngOp → Bool
  | .copy | .gather | .iwalk => true
  | _ => false

/-- The kind code of a command (R320, R322, R324, R330). -/
def EngOp.kind : EngOp → Byte
  | .copy => 1
  | .gather => 2
  | .iwalk => 3
  | .rast => 0x10
  | .resolve => 0x11
  | .rmarch => 0x12
  | .rclear => 0x13

/-- A command issues: its descriptor VA, then the waits for its slot and for the credit of its core's port; the census rises
(R204, R220). -/
def commandAct (op : EngOp) (o : Ops) (a1 a2 a4 : Word) (s : State) : Act :=
  let dva := addOff (s.me.word o.o0 0) o.imm
  let slot := slotOf o.md
  let e := s.me.eng[slot]
  if dva.toNat % 64 != 0 then .trap cALIGN dva
  else if e.state != .free ∨ s.portShut then .wait
  else
    let c : Cmd := {
      op := op, fire := s.me.fire.getD ⟨0, .normal, 0⟩, gang := s.me.gang.getD 0, ipc := s.me.pc, dva := dva
      a1 := a1, a2 := a2, a4 := a4, md := o.md, port := s.cmdPort o.o3, snap := some e.pending, after := s.openWrites
      seq := s.nextId, desc := 0, pool := 0, unit := 0, opened := [], csr := none, done := [], bins := [], toks := [] }
    let t := s.setMe (s.me.setEng slot { e with state := .issued, kind := op.kind, cursor := 0, cmd := some c })
    .go (({ t with nextId := t.nextId + 1 } : State).raise c.gang 1)

/-- COPY (R316). -/
def execCopy (h : Hdr) (o : Ops) (s : State) : Out :=
  issue h o (cmdPre o.o3) (fun s => commandAct .copy o (s.me.word o.o1 0) (s.me.word o.o2 0) 0 s) s
/-- GATHER (R316). -/
def execGather (h : Hdr) (o : Ops) (s : State) : Out :=
  issue h o (cmdPre o.o3) (fun s => commandAct .gather o (s.me.word o.o1 0) (s.me.word o.o2 0) (s.me.word o.o4 0) s) s
/-- IWALK (R316). -/
def execIwalk (h : Hdr) (o : Ops) (s : State) : Out :=
  issue h o (cmdPre o.o3) (fun s => commandAct .iwalk o (s.me.word o.o1 0) (s.me.word o.o2 0) (s.me.word o.o4 0) s) s

/-! ### Local ranges (R313, R317) -/

/-- The first address of the local range `lo` to `hi` that leaves the local store or lies in a tile that is not held. -/
def localBad (held : BitVec 128) (lo hi : Int) : Option Word :=
  if lo < 0 ∨ 0x7FFFF < lo then some (BitVec.ofInt 64 lo)
  else
    let t0 := lo.toNat / 4096
    let t1 := (min hi 0x7FFFF).toNat / 4096
    match ((List.range (t1 + 1 - t0)).map (t0 + ·)).find? fun t => !held.getLsbD t with
    | some t => some (BitVec.ofNat 64 (max lo.toNat (t * 4096)))
    | none => if 0x7FFFF < hi then some 0x80000 else none

/-- The local base of a data-engine command: bits 18:0 of op2. -/
def Cmd.base (c : Cmd) : Nat := getBits c.a2 0 19

/-- The first failing range of several, in the order in which the entry of the command names them. DEDUCED, log entry 89. -/
def rangesBad (held : BitVec 128) : List (Int × Int) → Option Word
  | [] => none
  | (lo, hi) :: l => match localBad held lo hi with
    | some a => some a
    | none => rangesBad held l

/-! ### COPY (R320, R321) -/

/-- A signed field of a descriptor. -/
def sField (d : BitVec 512) (lo w : Nat) : Int := signedOf w (getBits d lo w)

/-- The direction of a COPY. -/
def copyDir (d : BitVec 512) : Nat := getBits d 8 2
/-- Bytes per run. -/
def copyN0 (d : BitVec 512) : Nat := getBits d 16 16 + 1
/-- Runs per plane. -/
def copyN1 (d : BitVec 512) : Nat := getBits d 32 16 + 1
/-- Planes. -/
def copyN2 (d : BitVec 512) : Nat := getBits d 48 16 + 1

/-- The lowest and the highest address of a three-dimensional block. -/
def copySpan (d : BitVec 512) (base s2 s1 : Int) : Int × Int :=
  let e2 := s2 * (copyN2 d - 1 : Int)
  let e1 := s1 * (copyN1 d - 1 : Int)
  (base + min 0 e2 + min 0 e1, base + max 0 e2 + max 0 e1 + (copyN0 d - 1 : Int))

/-- The far address of a COPY: the whole of op1, or its local part for a remote target. -/
def copyFar (c : Cmd) : Int := if copyDir c.desc = 2 then (getBits c.a1 32 19 : Int) else c.a1.toNat

/-- The checks of a COPY at acceptance. -/
def copyBad (c : Cmd) (held : BitVec 128) : Option Word :=
  let d := c.desc
  if getBits d 0 8 != 1 || copyDir d == 3 then some c.dva
  else
    let near := copySpan d c.base (sField d 224 32) (sField d 192 32)
    match localBad held near.1 near.2 with
    | some a => some a
    | none =>
      if copyDir d = 2 then
        let far := copySpan d (copyFar c) (sField d 128 64) (sField d 64 64)
        if far.1 < 0 then some (BitVec.ofInt 64 far.1)
        else if 0x7FFFF < far.2 then some (BitVec.ofInt 64 (max far.1 0x80000))
        else none
      else none

/-- One burst: its far address, its local address and its length (R319); `lo` and `hi` are the first and the last far address of
the 512 bytes of its run that fix its order (R270). -/
structure Piece where
  far  : Nat
  near : Int
  len  : Nat
  lo   : Nat
  hi   : Nat
  deriving DecidableEq, Repr

/-- At most 512 bytes of a run, in bursts that cross no 512-byte boundary of the far address: one or two. -/
def cutChunk (far : Word) (near : Int) (n : Nat) : List Piece :=
  let last := (far + BitVec.ofNat 64 (n - 1)).toNat
  let m := min n (512 - far.toNat % 512)
  ⟨far.toNat, near, m, far.toNat, last⟩ ::
    if m = n then [] else [⟨(far + BitVec.ofNat 64 m).toNat, near + m, n - m, far.toNat, last⟩]

/-- A run of `n` bytes in chunks of 512 bytes from its start on, each of which has one order (R270), in bursts that cross no
512-byte boundary (R319). DEDUCED, log entry 36. -/
def splitRun (far : Word) (near : Int) (n : Nat) : Nat → List Piece
  | 0 => []
  | fuel + 1 =>
    if n = 0 then []
    else
      let m := min n 512
      cutChunk far near m ++ splitRun (far + BitVec.ofNat 64 m) (near + m) (n - m) fuel

/-- The bursts of a run. -/
def runPieces (far : Word) (near : Int) (n : Nat) : List Piece := splitRun far near n n

/-- The bursts of a COPY in the order of its cursor. -/
def copyPieces (c : Cmd) : List Piece :=
  let d := c.desc
  (List.range (copyN2 d)).flatMap fun (i2 : Nat) => (List.range (copyN1 d)).flatMap fun (i1 : Nat) =>
    runPieces (BitVec.ofInt 64 (copyFar c + sField d 128 64 * i2 + sField d 64 64 * i1))
      (c.base + sField d 224 32 * i2 + sField d 192 32 * i1) (copyN0 d)

/-! ### GATHER (R322, R323) -/

/-- Bytes per gathered row. -/
def gatherRow (d : BitVec 512) : Nat := getBits d 16 16 + 1
/-- The size of an index. -/
def gatherIdx (d : BitVec 512) : Nat := if d.getLsbD 8 then 8 else 4
/-- The address of the index list. -/
def Cmd.idxBase (c : Cmd) : Nat := getBits c.a2 32 19

/-- The checks of a GATHER at acceptance. -/
def gatherBad (c : Cmd) (held : BitVec 128) : Option Word :=
  let d := c.desc
  let n := c.a4.toNat
  let s := gatherIdx d
  if getBits d 0 8 != 2 then some c.dva
  else if c.idxBase % s != 0 then some (BitVec.ofNat 64 c.idxBase)
  else if n = 0 then none
  else rangesBad held [((c.idxBase : Int), (c.idxBase + n * s - 1 : Int)),
    ((c.base : Int), (c.base + (n - 1) * getBits d 128 32 + gatherRow d - 1 : Int))]

/-- The local address of the index of row `j`. -/
def gatherAt (c : Cmd) (j : Nat) : Nat := c.idxBase + j * gatherIdx c.desc

/-- The index of row `j`, as the 64 bits of a signed or an unsigned number. -/
def gatherX (c : Cmd) (k : Core) (j : Nat) : Word := BitVec.ofNat 64 (k.lsRead (gatherAt c j) (gatherIdx c.desc))

/-- The bursts of row `j`, whose index is `x`. -/
def gatherPieces (c : Cmd) (j : Nat) (x : Word) : List Piece :=
  runPieces (c.a1 + x * BitVec.ofInt 64 (sField c.desc 64 64)) (c.base + j * getBits c.desc 128 32) (gatherRow c.desc)

/-! ### IWALK (R324, R325) -/

/-- Is the form COO? -/
def iwCoo (d : BitVec 512) : Bool := d.getLsbD 8
/-- The row count. -/
def iwRows (d : BitVec 512) : Nat := getBits d 32 32
/-- The VA of an entry of the row-pointer or row array. -/
def iwPtr (d : BitVec 512) (m : Nat) : Word := BitVec.ofNat 64 (getBits d 64 64 + 4 * m)
/-- The VA of an entry of the column array. -/
def iwCol (d : BitVec 512) (m : Nat) : Word := BitVec.ofNat 64 (getBits d 128 64 + 4 * m)
/-- Bytes per gathered row. -/
def iwRow (d : BitVec 512) : Nat := getBits d 16 16 + 1
/-- The address of the pair list. -/
def iwPairs (c : Cmd) : Nat := c.base + getBits c.desc 384 19

/-- The checks of an IWALK at acceptance. -/
def iwalkBad (c : Cmd) (held : BitVec 128) : Option Word :=
  let d := c.desc
  let n := c.a4.toNat
  let area := fun (off : Nat) =>
    ((c.base + off : Int), (c.base + off + (n - 1) * getBits d 480 19 + iwRow d - 1 : Int))
  if getBits d 0 8 != 3 || ((!iwCoo d) && iwRows d == 0) then some c.dva
  else if iwPairs c % 8 != 0 then some (BitVec.ofNat 64 (iwPairs c))
  else if n = 0 then none
  else rangesBad held ([((iwPairs c : Int), (iwPairs c + 8 * n - 1 : Int))] ++
    (if d.getLsbD 9 then [area (getBits d 416 19)] else []) ++ (if d.getLsbD 10 then [area (getBits d 448 19)] else []))

/-- What a step of a command reads before it goes on, none where it must wait for earlier bursts (R256, R270). -/
abbrev WalkR (α : Type) := Except (Option AgentErr) α

/-- Does the page at an address give the order of SO, as a command's core translates it now (R256)? -/
def State.soAt (s : State) (g : Gang) (c : CoreId) (va : Nat) : Bool :=
  !inWindow va && (match s.pageOf c g.launch.asid va with
    | .ok p => p.so
    | .error _ => false)

/-- A 4-byte read of an IWALK: with bursts under way it waits where a byte of it lies in an SO page (R270). -/
def State.read4 (s : State) (g : Gang) (c : CoreId) (busy : Bool) (va : Word) : WalkR (State × Nat) :=
  if busy && (s.soAt g c va.toNat || s.soAt g c (va + 3).toNat) then .error none else (s.agentReadAcross g c va 4).mapError some

/-- The binary search of the row of `k0` (R325). -/
def State.rowSearch (s : State) (g : Gang) (c : CoreId) (busy : Bool) (d : BitVec 512) (k0 lo hi : Nat) :
    Nat → WalkR (State × Nat)
  | 0 => .ok (s, lo)
  | fuel + 1 =>
    if hi - lo ≤ 1 then .ok (s, lo)
    else match s.read4 g c busy (iwPtr d ((lo + hi) / 2)) with
      | .error e => .error e
      | .ok (t, x) =>
        if x ≤ k0 then t.rowSearch g c busy d k0 ((lo + hi) / 2) hi fuel else t.rowSearch g c busy d k0 lo ((lo + hi) / 2) fuel

/-- The walk from a row to the row of non-zero `k` (R325): after 2^54 rows its address has left the address space. -/
def State.rowWalk (s : State) (g : Gang) (c : CoreId) (busy : Bool) (d : BitVec 512) (k row : Nat) : Nat → WalkR (State × Nat)
  | 0 => .ok (s, row)
  | fuel + 1 => match s.read4 g c busy (iwPtr d (row + 1)) with
    | .error e => .error e
    | .ok (t, x) => if x ≤ k then t.rowWalk g c busy d k (row + 1) fuel else .ok (t, row)

/-- The row and the number of non-zeros that an IWALK under CSR starts from. -/
def State.iwStart (s : State) (g : Gang) (c : CoreId) (busy : Bool) (x : Cmd) : WalkR (State × Nat × Nat) :=
  match x.csr with
  | some y => .ok (s, y)
  | none => match s.rowSearch g c busy x.desc x.a1.toNat 0 (iwRows x.desc) 33 with
    | .error e => .error e
    | .ok (t, row) => match t.read4 g c busy (iwPtr x.desc (iwRows x.desc)) with
      | .error e => .error e
      | .ok (t, nnz) => .ok (t, row, nnz)

/-- The coordinates of the next non-zero: none past the last one under CSR. -/
def State.iwCoord (s : State) (g : Gang) (c : CoreId) (busy : Bool) (x : Cmd) : WalkR (State × Cmd × Option (Nat × Nat)) :=
  let k := x.a1.toNat + x.unit
  let col := fun (s : State) (x : Cmd) (i : Nat) => match s.read4 g c busy (iwCol x.desc k) with
    | .error e => (.error e : WalkR (State × Cmd × Option (Nat × Nat)))
    | .ok (t, j) => .ok (t, x, some (i, j))
  if iwCoo x.desc then match s.read4 g c busy (iwPtr x.desc k) with
    | .error e => .error e
    | .ok (t, i) => col t x i
  else match s.iwStart g c busy x with
    | .error e => .error e
    | .ok (t, row, nnz) =>
      if nnz ≤ k then .ok (t, { x with csr := some (row, nnz) }, none)
      else match t.rowWalk g c busy x.desc k row (2 ^ 54 + 1) with
        | .error e => .error e
        | .ok (t, row) => col t { x with csr := some (row, nnz) } row

/-- The bursts of the gathers of non-zero `u`, at row `i` and column `j`. -/
def iwPieces (c : Cmd) (u i j : Nat) : List Piece :=
  let d := c.desc
  let run := fun (base pitch off x : Nat) =>
    runPieces (BitVec.ofNat 64 (getBits d base 64 + x * getBits d pitch 32))
      (c.base + getBits d off 19 + u * getBits d 480 19) (iwRow d)
  (if d.getLsbD 9 then run 192 320 416 i else []) ++ (if d.getLsbD 10 then run 256 352 448 j else [])

/-! ### Bursts (R319)

The bursts of a COPY are all open from the start. Those of a GATHER or an IWALK open row by row and non-zero by non-zero, as the
index or the coordinates are read; those of later ones do not wait for those of earlier ones. -/

/-- The bursts of an open row or non-zero. -/
def Cmd.unitPieces (c : Cmd) (u : OpenUnit) : List Piece :=
  match c.op with
  | .gather => gatherPieces c u.num (BitVec.ofNat 64 u.i)
  | _ => iwPieces c u.num u.i u.j

/-- The open bursts of a command in its order, each with the number of its unit, its number there and whether it is done. -/
def Cmd.bursts (c : Cmd) : List (Nat × Nat × Bool × Piece) :=
  match c.op with
  | .copy => (copyPieces c).zipIdx.map fun p => (0, p.2, c.done.contains p.2, p.1)
  | _ => c.opened.flatMap fun u => (c.unitPieces u).zipIdx.map fun p => (u.num, p.2, u.done.contains p.2, p.1)

/-- How many rows or non-zeros a command has. -/
def Cmd.units (c : Cmd) : Nat := if c.op = .copy then 0 else c.a4.toNat

/-- Has an IWALK under CSR still to search its first row? It does so even with no non-zero to walk (R325). -/
def Cmd.unsearched (c : Cmd) : Bool := c.op == .iwalk && !iwCoo c.desc && c.csr.isNone

/-- Is every unit of a command done? -/
def Cmd.finished (c : Cmd) : Bool := decide (c.units ≤ c.unit) && !c.unsearched && c.bursts.all (·.2.2.1)

/-- Burst `i` of unit `u` is done; a unit whose bursts are all done is no longer open. -/
def Cmd.burstDone (c : Cmd) (u i : Nat) : Cmd :=
  if c.op = .copy then { c with done := c.done ++ [i] }
  else { c with opened := (c.opened.map fun x => if x.num = u then { x with done := x.done ++ [i] } else x).filter fun x =>
    !(List.range (c.unitPieces x).length).all (x.done.contains ·) }

/-- The bytes of the bursts before the first that is not done. -/
def prefixBytes : List (Nat × Nat × Bool × Piece) → Nat
  | [] => 0
  | p :: l => if p.2.2.1 then p.2.2.2.len + prefixBytes l else 0

/-- The units before the first open one. -/
def Cmd.unitsDone (c : Cmd) : Nat := match c.opened with
  | u :: _ => u.num
  | [] => c.unit

/-- The cursor while a command runs or is halted (R326). -/
def Cmd.progress (c : Cmd) : Nat :=
  match c.op with
  | .copy => prefixBytes c.bursts / 512 * 512
  | .gather => (c.unitsDone * gatherRow c.desc + prefixBytes (c.bursts.filter fun b => b.1 == c.unitsDone)) / 512 * 512
  | _ => c.unitsDone

/-- The cursor of a completed command (R326). -/
def Cmd.total (c : Cmd) : Nat :=
  match c.op with
  | .copy => copyN0 c.desc * copyN1 c.desc * copyN2 c.desc
  | .gather => c.a4.toNat * gatherRow c.desc
  | _ => c.a4.toNat

/-- Replacing the command of a slot, with its cursor, of which the field holds the low 32 bits (R326). DESIGN CHOICE, log entry 106. -/
def State.setCmd (s : State) (c : CoreId) (slot : Fin 8) (x : Cmd) : State :=
  let k := s.core c
  s.setCore c (k.setEng slot { k.eng[slot] with cmd := some x, cursor := BitVec.ofNat 32 x.progress })

/-- Has a burst the order of SO: does one of the pages of its chunk (R270)? A local-store target has no order.
DEDUCED, log entry 36. -/
def State.soPiece (s : State) (g : Gang) (c : CoreId) (x : Cmd) (p : Piece) : Bool :=
  !(x.op == .copy && copyDir x.desc == 2) && (s.soAt g c p.lo || s.soAt g c p.hi)

/-- May an access of a command come, SO or not, while some of its earlier bursts are under way (R256, R270)? -/
def State.inOrder (s : State) (g : Gang) (c : CoreId) (x : Cmd) (so : Bool) (earlier : List Piece) : Bool :=
  if so then earlier.isEmpty else earlier.all fun p => !s.soPiece g c x p

/-- The bursts under way, of some open ones. -/
def underWay (l : List (Nat × Nat × Bool × Piece)) : List Piece := (l.filter fun b => !b.2.2.1).map (·.2.2.2)

/-- The core that a remote COPY writes (R195, R320). -/
def Gang.copyTarget (g : Gang) (c : Cmd) : CoreId :=
  g.coreAt (getBits c.a1 0 8 % (2 * g.launch.w)) (getBits c.a1 8 8 % (2 * g.launch.h))

/-- One burst moves its bytes. None where it must wait for a tile of its target (R321), or for the credit of the target's port for
its answer (R220). -/
def State.moveBurst (s : State) (g : Gang) (c : CoreId) (x : Cmd) (p : Piece) : AgentR (Option State) :=
  let near := p.near.toNat
  match (if x.op = .copy then copyDir x.desc else 0) with
  | 0 => match s.agentRead g c p.far p.len with
    | .error e => .error e
    | .ok (t, v) => (t.agentLs c near p.len).map fun t => some (t.setCore c ((t.core c).lsWrite near p.len v))
  | 1 => match s.agentLs c near p.len with
    | .error e => .error e
    | .ok t => (t.agentWrite g c p.far p.len ((t.core c).lsRead near p.len)).map some
  | _ =>
    let d := g.copyTarget x
    if (s.core d).owned p.far p.len || !s.portOpen (corePort d) then .ok none
    else match s.agentLs c near p.len with
      | .error e => .error e
      | .ok t => (t.agentLs d p.far p.len).map fun t =>
        some (t.setCore d ((t.core d).lsWrite p.far p.len ((t.core c).lsRead near p.len)))

/-- A GATHER reads its next index, which waits for the rows that are still to be written over it (R323).
DESIGN CHOICE, log entry 35. -/
def State.openRow (s : State) (c : CoreId) (x : Cmd) : WalkR (State × Cmd) :=
  let a := gatherAt x x.unit
  let hit := (underWay x.bursts).any fun p => decide (p.near < a + gatherIdx x.desc) && decide ((a : Int) < p.near + p.len)
  if hit then .error none
  else match s.agentLs c a (gatherIdx x.desc) with
    | .error e => .error (some e)
    | .ok t => .ok (t, { x with
        unit := x.unit + 1, opened := x.opened ++ [⟨x.unit, (gatherX x (t.core c) x.unit).toNat, 0, []⟩] })

/-- An IWALK writes the pair of its next non-zero. -/
def State.putPair (s : State) (c : CoreId) (x : Cmd) (v : Nat) : WalkR State :=
  let a := iwPairs x + 8 * x.unit
  match s.agentLs c a 8 with
  | .error e => .error (some e)
  | .ok t => .ok (t.setCore c ((t.core c).lsWrite a 8 v))

/-- An IWALK reads the coordinates of its next non-zero and writes its pair; with none to walk it only searches its row (R325). -/
def State.openPair (s : State) (g : Gang) (c : CoreId) (x : Cmd) : WalkR (State × Cmd) :=
  let busy := !(underWay x.bursts).isEmpty
  if x.units = 0 then match s.iwStart g c busy x with
    | .error e => .error e
    | .ok (t, y) => .ok (t, { x with csr := some y })
  else match s.iwCoord g c busy x with
    | .error e => .error e
    | .ok (t, y, none) => match t.putPair c x (2 ^ 64 - 1) with
      | .error e => .error e
      | .ok t => .ok (t, { y with unit := x.unit + 1 })
    | .ok (t, y, some (i, j)) => match t.putPair c x (i + j * 2 ^ 32) with
      | .error e => .error e
      | .ok t => .ok (t, { y with
          unit := x.unit + 1
          opened := if (iwPieces x x.unit i j).isEmpty then x.opened else x.opened ++ [⟨x.unit, i, j, []⟩] })

/-- A command opens its next row or non-zero; it waits while a burst of SO is under way (R256, R270). -/
def State.openUnit (s : State) (g : Gang) (c : CoreId) (x : Cmd) : WalkR (State × Cmd) :=
  match x.op with
  | .gather => s.openRow c x
  | .iwalk => if s.inOrder g c x false (underWay x.bursts) then s.openPair g c x else .error none
  | _ => .error none

/-- Are a command's earlier writes acknowledged, and the accesses to some tiles of its core from before they were handed over performed
(R267)? -/
def State.handedOver (s : State) (c : CoreId) (x : Cmd) (tiles : BitVec 128) : Bool :=
  x.after.all (fun a => (s.access a).isNone) && !s.flight.any fun a => a.pre && a.core == c && a.inTiles c tiles

/-- The running data-engine command of a slot, with its gang, where its gang is on its quads, its firing's earlier writes are
acknowledged, and the accesses to its tiles from before they were handed over are performed (R267). -/
def State.runningCmd (s : State) (c : CoreId) (slot : Fin 8) : Option (Gang × Cmd) :=
  let k := s.core c
  match s.gangAt k, k.eng[slot].cmd with
  | some g, some x =>
    if k.eng[slot].state == .running && g.active && s.handedOver c x k.eng[slot].held then some (g, x) else none
  | _, _ => none

/-- ENGINE_BURST: burst `n` of the open ones is performed, or the next row or non-zero is opened (R319, R321, R323, R325). An
engine whose port has no credit waits (R220). DESIGN CHOICE, log entry 35. -/
def burstStep (c : CoreId) (slot : Fin 8) (n : Nat) (s : State) : State :=
  match s.runningCmd c slot with
  | none => s
  | some (g, x) =>
    if !x.op.isData || x.finished || !s.portOpen (enginePort c) then s
    else match x.bursts[n]? with
      | none =>
        if x.units ≤ x.unit ∧ x.unsearched = false then s
        else match s.openUnit g c x with
          | .error none => s
          | .error (some e) => s.agentFault g.gid c x.ipc e
          | .ok (t, x) => t.setCmd c slot x
      | some (u, i, past, p) =>
        if past || !s.inOrder g c x (s.soPiece g c x p) (underWay (x.bursts.take n)) then s
        else match s.moveBurst g c x p with
          | .error e => s.agentFault g.gid c x.ipc e
          | .ok none => s
          | .ok (some t) => t.setCmd c slot (x.burstDone u i)

/-- ENGINE_BURST (R319). -/
def execEngineBurst (c : CoreId) (slot : Fin 8) (n : Nat) (s : State) : Out := .next (burstStep c slot n s)

/-! ### Acceptance (R317) -/

/-- A descriptor enters a cache of 32 (R329). DESIGN CHOICE, log entry 67. -/
def addDesc (v : Nat) (d : Desc) (l : List Desc) : List Desc := d :: makeRoom 32 v l

/-- The block of a descriptor through the engine's descriptor cache, which holds 32 (R317, R329). DEDUCED, log entry 41. -/
def State.readDesc (s : State) (g : Gang) (c : CoreId) (va : Word) : AgentR (State × BitVec 512) :=
  match (s.core c).edesc.find? fun d => d.asid == g.launch.asid && d.va == va.toNat with
  | some d => .ok (s, d.data)
  | none => match s.agentReadAcross g c va 64 with
    | .error e => .error e
    | .ok (t, x) =>
      let k := t.core c
      .ok (t.setCore c { k with edesc := addDesc (Config.victim s.steps) ⟨g.launch.asid, va.toNat, BitVec.ofNat 512 x⟩ k.edesc },
        BitVec.ofNat 512 x)

/-- The tiles that stood in the pending set at issue become the held set; at a re-acceptance every pending tile (R317). -/
def EngSlot.takeTiles (e : EngSlot) (snap : Option (BitVec 128)) : EngSlot :=
  let m := snap.getD (BitVec.allOnes 128)
  { e with held := e.held ||| (e.pending &&& m), pending := e.pending &&& ~~~m }

/-- A command that fails a check halts with an engine fault. -/
def EngSlot.halt (e : EngSlot) (cause : Byte) (val : Word) : EngSlot :=
  { e with state := .halted, fault := some (cause, val) }

/-- The checks of a data-engine command. -/
def dataBad (c : Cmd) (held : BitVec 128) : Option Word :=
  match c.op with
  | .copy => copyBad c held
  | .gather => gatherBad c held
  | _ => iwalkBad c held

/-- The issued command of a slot, with its gang. -/
def State.issuedCmd (s : State) (c : CoreId) (slot : Fin 8) : Option (Gang × Cmd) :=
  let k := s.core c
  match s.gangAt k, k.eng[slot].cmd with
  | some g, some x =>
    if k.eng[slot].state == .issued && g.active then some (g, x) else none
  | _, _ => none

/-- COMMAND_ACCEPT: the descriptor, the tiles, the checks (R317). -/
def acceptStep (c : CoreId) (slot : Fin 8) (s : State) : State :=
  match s.issuedCmd c slot with
  | none => s
  | some (g, x) =>
    if !x.op.isData || !s.portOpen (enginePort c) then s
    else match s.readDesc g c x.dva with
      | .error e => s.agentFault g.gid c x.ipc e
      | .ok (t, d) =>
        let x := { x with desc := d }
        let k := t.core c
        let e := { (k.eng[slot].takeTiles x.snap) with cmd := some x }
        match dataBad x e.held with
        | some v => (t.setCore c (k.setEng slot (e.halt cCOPYF v))).stampIdle g.gid
        | none => t.setCore c (k.setEng slot { e with state := .running })

/-- COMMAND_ACCEPT (R317). -/
def execCommandAccept (c : CoreId) (slot : Fin 8) (s : State) : Out := .next (acceptStep c slot s)

/-! ### Engine faults (R327, R356, R357) -/

/-- The trap registers of an engine fault: the code, the slot and eng, the place where the firing stopped, the value. -/
def Core.setEngTrap (k : Core) (slot : Fin 8) (cause : Byte) (val : Word) : Core :=
  k.setTrapRegs (cause.zeroExtend 64 ||| BitVec.ofNat 64 (slot.val * 256) ||| 0x800)
    (if k.fire.isSome then k.pc else 0) val

/-- ENGINE_FAULT_DELIVERY: at an instruction boundary of a core where no trap actor runs. Without a trap actor it ends the
gang. A firing that something holds, a barrier that counts its arrival among them, stands at no boundary.
DESIGN CHOICE, log entry 116. -/
def faultStep (c : CoreId) (slot : Fin 8) (s : State) : State :=
  let k := s.core c
  match k.eng[slot].fault, s.gangAt k with
  | some (cause, val), some g =>
    if k.inTrap || k.hold.isSome || k.starting || !g.active then s
    else
      let k := (k.setEng slot { k.eng[slot] with fault := none }).setEngTrap slot cause val
      match g.trapAt k.gx k.gy with
      | some a => { s.setCore c (k.fireTrap a g.launch.image s.nextId s.tick) with nextId := s.nextId + 1 }
      | none => (s.setCore c k).fatal g.gid cause k.trappc val c
  | _, _ => s

/-- ENGINE_FAULT_DELIVERY (R327). -/
def execEngineFaultDelivery (c : CoreId) (slot : Fin 8) (s : State) : Out := .next (faultStep c slot s)

end Sys2Proof.Machine
end

