-- ==== Sys2Proof/Machine/Render.lean ====
section
/-!
DEFINITION. Sys2Proof/Machine/Render.lean: the render engines (R330 to R350): RAST, RESOLVE, RMARCH and RCLEAR, and the
steps RENDER_SLOT_ACCEPT, BIN_WORK, RAY_MARCH, COMMAND_COMPLETE and COMPLETION_TOKEN_SEND.
-/

namespace Sys2Proof.Machine

open Sys2Proof

/-! ### Issue (R331, R332) -/

/-- RAST (R331). -/
def execRast (h : Hdr) (o : Ops) (s : State) : Out :=
  issue h o (cmdPre o.o3) (fun s => commandAct .rast o (s.me.word o.o1 0) (s.me.word o.o2 0) (s.me.word o.o4 0) s) s
/-- RESOLVE (R331). -/
def execResolve (h : Hdr) (o : Ops) (s : State) : Out :=
  issue h o (cmdPre o.o3) (fun s => commandAct .resolve o (s.me.word o.o1 0) (s.me.word o.o2 0) 0 s) s
/-- RCLEAR (R331). -/
def execRclear (h : Hdr) (o : Ops) (s : State) : Out :=
  issue h o (cmdPre o.o3) (fun s => commandAct .rclear o (s.me.word o.o1 0) (s.me.word o.o2 0) 0 s) s

/-- The payload that an RMARCH declares for each hit. -/
def plenOf (md : BitVec 24) : Nat := mdBits md 4 6

/-- RMARCH: a payload above 32 bytes takes PAYLD, after the check of the descriptor VA (R72, R332). -/
def rmarchAct (o : Ops) (s : State) : Act :=
  if (addOff (s.me.word o.o0 0) o.imm).toNat % 64 = 0 ∧ 32 < plenOf o.md then .trap cPAYLD (BitVec.ofNat 64 (plenOf o.md))
  else commandAct .rmarch o (s.me.word o.o1 0) (s.me.word o.o2 0) 0 s

/-- RMARCH (R331). -/
def execRmarch (h : Hdr) (o : Ops) (s : State) : Out := issue h o (cmdPre o.o3) (rmarchAct o) s

/-! ### Targets and pools (R334, R341) -/

/-- A target. -/
structure Target where
  ml   : Bool
  s    : Nat
  k    : Nat
  rule : Nat
  w    : Nat
  h    : Nat
  base : Nat
  pool : Word
  deriving DecidableEq, Repr

/-- The target that a descriptor describes (R334). -/
def targetOf (d : BitVec 512) : Target where
  ml   := getBits d 0 8 == 0x21
  s    := if getBits d 8 2 = 1 then 4 else 1
  k    := getBits d 10 4
  rule := getBits d 14 2
  w    := getBits d 32 16 + 1
  h    := getBits d 48 16 + 1
  base := getBits d 64 64
  pool := BitVec.ofNat 64 (getBits d 128 64)

/-- Is a target descriptor well-formed (R334)? -/
def targetOk (d : BitVec 512) : Bool :=
  let t := targetOf d
  t.rule != 3 && t.base % 64 == 0 && (
    if t.ml then getBits d 8 2 == 0 && decide (1 ≤ t.k) && decide (t.k ≤ 8)
    else getBits d 0 8 == 0x20 && decide (getBits d 8 2 < 2) && t.k == 0)

/-- Is a pool descriptor well-formed (R341)? -/
def poolOk (d : BitVec 512) : Bool :=
  getBits d 0 8 == 0x30 && decide (1 ≤ getBits d 32 32) && decide (getBits d 32 32 ≤ 4096) && getBits d 64 64 % 4096 == 0

/-- The nodes of a pool. -/
def poolLimit (d : BitVec 512) : Nat := 256 * getBits d 32 32
/-- The VA of a node (R340). -/
def nodeVa (pool : BitVec 512) (n : Nat) : Word := BitVec.ofNat 64 (getBits pool 64 64 + 16 * n)
/-- The VA of a sample's record (R334). -/
def recVa (t : Target) (x y s : Nat) : Word := BitVec.ofNat 64 (t.base + 16 * ((y * t.w + x) * t.s + s))
/-- The VA of a pixel's head word (R334). -/
def headVa (t : Target) (x y : Nat) : Word := BitVec.ofNat 64 (t.base + 4 * (y * t.w + x))

/-- A read of a command, with the address that a fault reports. -/
def State.rdVa (s : State) (g : Gang) (c : CoreId) (va : Word) (n : Nat) : AgentR (State × Nat) :=
  s.agentReadAcross g c va n

/-- A write of a command, with the address that a fault reports. -/
def State.wrVa (s : State) (g : Gang) (c : CoreId) (va : Word) (n x : Nat) : AgentR State :=
  s.agentWriteAcross g c va n x

/-! ### Bins (R333) -/

/-- The number by which a bin is named in a command's progress. -/
def binCode (bx by_ : Nat) : Nat := by_ * 2048 + bx

/-- The bins that a rectangle of pixels meets. -/
def rectBins (x0 y0 x1 y1 : Nat) : List Nat :=
  if x1 ≤ x0 ∨ y1 ≤ y0 then []
  else (List.range ((y1 - 1) / 64 + 1 - y0 / 64)).flatMap fun j =>
    (List.range ((x1 - 1) / 64 + 1 - x0 / 64)).map fun i => binCode (x0 / 64 + i) (y0 / 64 + j)

/-- The rectangle of pixels of a render command: the target, the 32 × 32 block, or the clipped rectangle. -/
def Cmd.rect (c : Cmd) : Nat × Nat × Nat × Nat :=
  let t := targetOf c.desc
  let x0 := getBits c.a1 0 16
  let y0 := getBits c.a1 16 16
  match c.op with
  | .rast => (0, 0, t.w, t.h)
  | .resolve => (x0, y0, x0 + 32, y0 + 32)
  | .rclear => (x0, y0, min (x0 + getBits c.a2 0 16) t.w, min (y0 + getBits c.a2 16 16) t.h)
  | _ => (0, 0, 0, 0)

/-- The bins that a render command touches. -/
def Cmd.binList (c : Cmd) : List Nat :=
  let r := c.rect
  rectBins r.1 r.2.1 r.2.2.1 r.2.2.2

/-- Has an accepted command work on a bin, or had it before a halt (R327, R333)? -/
def Cmd.touches (c : Cmd) (bin : Nat) : Bool := !c.op.isData && c.op != .rmarch && c.binList.contains bin

/-- Does `p` hold for a command that has not completed, be its gang saved or not? -/
def State.anyCmd (s : State) (p : Cmd → Bool) : Bool :=
  (s.cores.toList ++ s.gangs.flatMap (·.cores)).any fun k => k.eng.toList.any fun e =>
    (e.state == .running || e.state == .halted || e.state == .issued) && e.cmd.any p

/-- Is a command an earlier one of the firing of another? -/
def Cmd.precedes (y x : Cmd) : Bool := y.fire.fid == x.fire.fid && decide (y.seq < x.seq)

/-- Does a command reset a pool (R345)? -/
def Cmd.resets (c : Cmd) : Bool := c.op == .rclear && c.md.getLsbD 4

/-- Does a command allocate nodes (R342)? -/
def Cmd.allocates (c : Cmd) : Bool := c.op == .rast && (targetOf c.desc).ml

/-- Must a command wait with what it does to a pool: a RAST with its allocations for an earlier RCLEAR.pool of its firing, and an
RCLEAR.pool with the reset for an earlier RAST? So no node is in two lists (R341, R345). DEDUCED, log entry 39. -/
def State.poolBusy (s : State) (x : Cmd) : Bool :=
  s.anyCmd fun y => y.precedes x && ((x.allocates && y.resets) || (x.resets && y.allocates))

/-- Must a command wait with its work on a bin (R333): for an earlier command of its firing, or for one that is in the midst of
it? Commands of different firings come in either order, bin by bin. DEDUCED, log entry 39. -/
def State.binBusy (s : State) (x : Cmd) (bin : Nat) : Bool :=
  (x.allocates && s.poolBusy x) || s.anyCmd fun y => y.seq != x.seq && y.touches bin && !y.done.contains bin &&
    (y.bins.any (·.bin == bin) || y.precedes x)

/-- The die whose render engine serves a bin (R333). -/
def binDie (bin : Nat) : Fin 4 := Fin.ofNat 4 (bin % 2048 + bin / 2048)

/-- The pixels of a bin inside a rectangle, row by row from north and west to east (R337). -/
def binPixels (bin x0 y0 x1 y1 : Nat) : List (Nat × Nat) :=
  (List.range 64).flatMap fun j => (List.range 64).filterMap fun i =>
    let x := bin % 2048 * 64 + i
    let y := bin / 2048 * 64 + j
    if x0 ≤ x ∧ x < x1 ∧ y0 ≤ y ∧ y < y1 then some (x, y) else none

/-! ### Fragments (R335, R336) -/

/-- A vertex: its place in units of 1/256 pixel, and its depth. -/
structure Vert where
  x : Int
  y : Int
  z : XVal
  deriving DecidableEq, Repr

/-- A triangle as its record gives it. -/
structure Tri where
  v0    : Vert
  v1    : Vert
  v2    : Vert
  alpha : Nat
  deriving DecidableEq, Repr

/-- The triangle of a 48-byte record (R335). -/
def triOf (r : Nat) : Tri :=
  let v := fun (i : Nat) => (⟨signedOf 32 (bitsN r (96 * i + 31) (96 * i)), signedOf 32 (bitsN r (96 * i + 63) (96 * i + 32)),
    Ty.f32.decodeF false (bitsN r (96 * i + 95) (96 * i + 64))⟩ : Vert)
  ⟨v 0, v 1, v 2, bitsN r 295 288⟩

/-- The edge function of R336. -/
def edgeFn (a b : Vert) (qx qy : Int) : Int := (b.x - a.x) * (qy - a.y) - (b.y - a.y) * (qx - a.x)

/-- The sample positions of a pixel in units of 1/256 pixel (R336). -/
def samplesOf (s : Nat) : List (Int × Int) := if s = 4 then [(96, 32), (224, 96), (32, 160), (160, 224)] else [(128, 128)]

/-- Does an edge let a sample be covered? -/
def edgeIn (a b : Vert) (e : Int) : Bool :=
  decide (0 < e) || (e == 0 && (decide (a.y < b.y) || (b.y == a.y && decide (b.x < a.x))))

/-- Rounding to FP32 with RNE, without flags. -/
def r32 (x : XVal) : Nat := (roundTo ⟨.rne, false, false⟩ .f32 x ⟨1, 0⟩).1

/-- A triangle with positive area: v1 and v2 exchanged where it is negative. -/
def Tri.wound (t : Tri) : Tri := if edgeFn t.v0 t.v1 t.v2.x t.v2.y < 0 then { t with v1 := t.v2, v2 := t.v1 } else t

/-- The depth of a covered sample, none where it is discarded (R336). -/
def Tri.depthAt (t : Tri) (e01 e12 e20 area : Int) : Option Nat :=
  let term := fun (e : Int) (z : XVal) => ((XVal.ofInt e).mul z).1
  let sum := (((term e12 t.v0.z).add false (term e20 t.v1.z)).1.add false (term e01 t.v2.z)).1
  let d := (sum.div (XVal.ofInt area)).1
  if d.isNaN then none else some (r32 d)

/-- A fragment: its pixel, its sample, its depth as FP32. -/
structure Frag where
  x : Nat
  y : Nat
  s : Nat
  z : Nat
  deriving DecidableEq, Repr

/-- The fragment of a triangle at a sample. -/
def Tri.fragAt (t : Tri) (area : Int) (x y s : Nat) (off : Int × Int) : Option Frag :=
  let qx := 256 * (x : Int) + off.1
  let qy := 256 * (y : Int) + off.2
  let e01 := edgeFn t.v0 t.v1 qx qy
  let e12 := edgeFn t.v1 t.v2 qx qy
  let e20 := edgeFn t.v2 t.v0 qx qy
  if edgeIn t.v0 t.v1 e01 && edgeIn t.v1 t.v2 e12 && edgeIn t.v2 t.v0 e20 then
    (t.depthAt e01 e12 e20 area).map fun z => ⟨x, y, s, z⟩
  else none

/-- The fragments of a triangle in a bin of a target, in order (R336, R337). -/
def Tri.frags (t : Tri) (tg : Target) (bin : Nat) : List Frag :=
  let t := t.wound
  let area := edgeFn t.v0 t.v1 t.v2.x t.v2.y
  if area = 0 then []
  else (binPixels bin 0 0 tg.w tg.h).flatMap fun p =>
    (samplesOf tg.s).zipIdx.filterMap fun o => t.fragAt area p.1 p.2 o.2 o.1

/-! ### Single-layer targets (R338) -/

/-- The real value of an FP32 depth. -/
def depthVal (z : Nat) : XVal := Ty.f32.decodeF false z

/-- Does a fragment replace a record (R338)? -/
def replaces (z id zs ids : Nat) : Bool :=
  (depthVal zs).isNaN || (match (depthVal z).cmp (depthVal zs) with
    | .lt => true
    | .eq => decide (id < ids)
    | .gt => false)

/-- How the work on a fragment or a bin ends: done; halted with a cause and a trapval; or at a fault. -/
inductive Work where
  | ok (s : State)
  | halt (s : State) (cause : Byte) (val : Word)
  | fault (e : AgentErr)

/-- A fragment meets a single-layer record. -/
def State.insertSingle (s : State) (g : Gang) (c : CoreId) (tg : Target) (f : Frag) (id : Nat) : Work :=
  let va := recVa tg f.x f.y f.s
  match s.rdVa g c va 16 with
  | .error e => .fault e
  | .ok (t, r) =>
    if replaces f.z id (bitsN r 95 64) (bitsN r 63 0) then
      match t.wrVa g c va 16 (id + f.z * 2 ^ 64) with
      | .error e => .fault e
      | .ok t => .ok t
    else .ok t

/-! ### Multi-layer targets (R339 to R342) -/

/-- A fragment of a pixel's list. -/
structure Node where
  z     : Nat
  id    : Nat
  mnode : Bool
  alpha : Nat
  deriving DecidableEq, Repr

/-- The first `n` nodes of a list from node `i` on, with their indices (R340). -/
def State.readNodes (s : State) (g : Gang) (c : CoreId) (pool : BitVec 512) (i : Nat) :
    Nat → AgentR (State × List (Nat × Node))
  | 0 => .ok (s, [])
  | n + 1 => match s.rdVa g c (nodeVa pool i) 16 with
    | .error e => .error e
    | .ok (t, r) => match t.readNodes g c pool (bitsN r 115 96) n with
      | .error e => .error e
      | .ok (t, l) => .ok (t, (i, ⟨bitsN r 31 0, bitsN r 95 32, r.testBit 116, bitsN r 127 120⟩) :: l)

/-- The answer of an allocation (R341). -/
inductive Alloc where
  | node (s : State) (i : Nat)
  | empty (s : State)
  | bad (s : State)
  | fault (e : AgentErr)

/-- One allocation from a pool, as one indivisible operation at its home (R341). -/
def State.allocate (s : State) (g : Gang) (c : CoreId) (pva : Word) (pool : BitVec 512) : Alloc :=
  match s.rdVa g c (pva + 16) 12 with
  | .error e => .fault e
  | .ok (s, x) =>
    let next := bitsN x 31 0
    let count := bitsN x 63 32
    let head := bitsN x 83 64
    if 0 < count then
      if poolLimit pool ≤ head then .bad s
      else match s.rdVa g c (nodeVa pool head) 16 with
        | .error e => .fault e
        | .ok (s, r) => match s.wrVa g c (pva + 16) 12 (next + (count - 1) * 2 ^ 32 + bitsN r 115 96 * 2 ^ 64) with
          | .error e => .fault e
          | .ok s => .node s head
    else if next < poolLimit pool then
      match s.wrVa g c (pva + 16) 12 (next + 1 + count * 2 ^ 32 + head * 2 ^ 64) with
      | .error e => .fault e
      | .ok s => .node s next
    else .empty s

/-- The gap between two depths: equal infinities have gap 0 (R342). -/
def gapOf (a b : Node) : XVal :=
  let x := depthVal a.z
  let y := depthVal b.z
  if x.isInf && y.isInf && x.neg == y.neg then .zero false else (y.add false x.negate).1

/-- The place of the least gap, the nearer pair on a tie; the zeros of both signs are one gap. A gap that is NaN enters as
one that equals every finite gap and lies between the infinite ones. DESIGN CHOICE, log entry 120. -/
def leastGap (l : List XVal) : Nat :=
  (l.zipIdx.foldl (fun (best : Nat × XVal) x => if x.1.cmp best.2 == .lt then (x.2, x.1) else best) (0, l.headD .nan)).1

/-- The merge of a near and a far fragment under a rule (R342). -/
def mergeNodes (rule : Nat) (a b : Node) : Node :=
  match rule with
  | 0 => { a with mnode := true }
  | 1 => { b with mnode := true }
  | _ => { a with
      mnode := true
      alpha := roundMag .rne 0 false (a.alpha * 255 + b.alpha * (255 - a.alpha)) 255 }

/-- A full list with a fragment too many: the pair with the least gap merges (R342). -/
def mergeList (rule : Nat) (l : List Node) : List Node :=
  let q := leastGap ((l.zip l.tail).map fun p => gapOf p.1 p.2)
  match l[q]?, l[q + 1]? with
  | some a, some b => l.take q ++ [mergeNodes rule a b] ++ l.drop (q + 2)
  | _, _ => l

/-- The bits of a node that leads to node `next` (R340). -/
def nodeBits (n : Node) (next : Nat) : Nat :=
  n.z + n.id * 2 ^ 32 + next * 2 ^ 96 + n.mnode.toNat * 2 ^ 116 + n.alpha * 2 ^ 120

/-- Writing the fragments of a list into the nodes of a pixel in order. The `next` field of the last node is ignored, and
its value is open. DESIGN CHOICE, log entry 9. -/
def State.writeNodes (s : State) (g : Gang) (c : CoreId) (pool : BitVec 512) : List (Nat × Node) → AgentR State
  | [] => .ok s
  | (i, n) :: l =>
    let next := match l with
      | (j, _) :: _ => j
      | [] => (Config.lastNext s.steps).toNat
    match s.wrVa g c (nodeVa pool i) 16 (nodeBits n next) with
    | .error e => .error e
    | .ok t => t.writeNodes g c pool l

/-- The head word of a pixel (R339). -/
def headWord (head count : Nat) (merged ever : Bool) : Nat :=
  head + count * 2 ^ 20 + merged.toNat * 2 ^ 24 + ever.toNat * 2 ^ 25

/-- A pixel's nodes and its head word are written, the head word last. DEDUCED, log entry 37. -/
def State.writePixel (s : State) (g : Gang) (c : CoreId) (tg : Target) (pool : BitVec 512) (x y : Nat)
    (l : List (Nat × Node)) (merged ever : Bool) : Work :=
  match s.writeNodes g c pool l with
  | .error e => .fault e
  | .ok t =>
    let head := match l with
      | (i, _) :: _ => i
      | [] => 0
    match t.wrVa g c (headVa tg x y) 4 (headWord head l.length merged ever) with
    | .error e => .fault e
    | .ok t => .ok t

/-- The insertion of a fragment into a multi-layer pixel (R342). `empty` is the trapval of POOLEX. A node whose depth is NaN does not
count for j. DEDUCED, log entry 37. DESIGN CHOICE, log entry 120. -/
def State.insertMulti (s : State) (g : Gang) (c : CoreId) (tg : Target) (pool : BitVec 512) (f : Frag) (id alpha : Nat)
    (empty : Word) : Work :=
  match s.rdVa g c (headVa tg f.x f.y) 4 with
  | .error e => .fault e
  | .ok (s, h) => match s.readNodes g c pool (bitsN h 19 0) (min (bitsN h 23 20) tg.k) with
    | .error e => .fault e
    | .ok (s, l) =>
      let nodes := l.map (·.2)
      let j := (nodes.filter fun n => (depthVal n.z).cmp (depthVal f.z) != .gt && !(depthVal n.z).isNaN).length
      let m := nodes.take j ++ [⟨f.z, id, false, alpha⟩] ++ nodes.drop j
      if l.length < tg.k then
        match s.allocate g c tg.pool pool with
        | .fault e => .fault e
        | .empty s => .halt s cPOOLEX empty
        | .bad s => .halt s cCOPYF tg.pool
        | .node s i => s.writePixel g c tg pool f.x f.y ((l.map (·.1) ++ [i]).zip m) false (h.testBit 25)
      else s.writePixel g c tg pool f.x f.y ((l.map (·.1)).zip (mergeList tg.rule m)) true true

/-! ### RAST in a bin (R337, R343) -/

/-- What a RAST does with one fragment. -/
def State.insertFrag (s : State) (g : Gang) (c : CoreId) (x : Cmd) (bin ti alpha : Nat) (f : Frag) : Work :=
  let tg := targetOf x.desc
  let id := getBits x.a2 0 32 * 2 ^ 32 + ti
  let no := bin / 2048 * ((tg.w + 63) / 64) + bin % 2048
  if tg.ml then s.insertMulti g c tg x.pool f id alpha (BitVec.ofNat 64 (no * 2 ^ 32 + ti))
  else s.insertSingle g c tg f id

/-- How a step of a command's work in a bin ends: at a place of the bin, or with the bin done; halted at a fragment; or at a
fault. -/
inductive BinWork where
  | ok (s : State) (p : Option BinProg)
  | halt (s : State) (cause : Byte) (val : Word)
  | fault (e : AgentErr)

/-- The next step of a RAST in a bin: its next triangle is read, its next fragment is inserted, or it goes on past a triangle
(R337, R343). -/
def State.rastBin (s : State) (g : Gang) (c : CoreId) (x : Cmd) (p : BinProg) : BinWork :=
  match p.raw with
  | none =>
    if x.a4.toNat ≤ p.tri then .ok s none
    else match s.rdVa g c (x.a1 + BitVec.ofNat 64 (48 * p.tri)) 48 with
      | .error e => .fault e
      | .ok (t, r) => .ok t (some { p with raw := some (BitVec.ofNat 384 r) })
  | some r =>
    let tri := triOf r.toNat
    match (tri.frags (targetOf x.desc) p.bin)[p.pix]? with
    | none => .ok s (some ⟨p.bin, p.tri + 1, none, 0⟩)
    | some f => match s.insertFrag g c x p.bin p.tri tri.alpha f with
      | .fault e => .fault e
      | .halt t cause val => .halt t cause val
      | .ok t => .ok t (some { p with pix := p.pix + 1 })

/-! ### RESOLVE and RCLEAR in a bin (R344, R345) -/

/-- What RESOLVE delivers for a pixel: depth, ID, alpha and count. -/
structure Resolved where
  z     : Nat
  id    : Nat
  alpha : Nat
  count : Nat
  deriving DecidableEq, Repr

/-- The entry of a pixel without a fragment at the layer. -/
def noFrag (count : Nat) : Resolved := ⟨0x7F800000, 2 ^ 64 - 1, 0, count⟩

/-- The entry of a pixel of a target at layer or sample `k`; one outside the target has the count 0 (R344). DEDUCED, log entry 107. -/
def State.resolvePixel (s : State) (g : Gang) (c : CoreId) (tg : Target) (pool : BitVec 512) (x y k : Nat) :
    AgentR (State × Resolved) :=
  if tg.w ≤ x ∨ tg.h ≤ y then .ok (s, noFrag 0)
  else if tg.ml then
    match s.rdVa g c (headVa tg x y) 4 with
    | .error e => .error e
    | .ok (s, h) =>
      let count := min (bitsN h 23 20) tg.k
      if count ≤ k then .ok (s, noFrag count)
      else match s.readNodes g c pool (bitsN h 19 0) (k + 1) with
        | .error e => .error e
        | .ok (s, l) => match l.getLast? with
          | some (_, n) => .ok (s, ⟨n.z, n.id, n.alpha, count⟩)
          | none => .ok (s, noFrag count)
  else match s.rdVa g c (recVa tg x y k) 16 with
    | .error e => .error e
    | .ok (s, r) =>
      let some? := bitsN r 63 0 != 2 ^ 64 - 1
      .ok (s, ⟨bitsN r 95 64, bitsN r 63 0, if some? then 255 else 0, some?.toNat⟩)

/-- The five local writes of a resolved pixel (R344). -/
def Core.putResolved (k : Core) (b e : Nat) (r : Resolved) : Core :=
  ((((k.lsWrite (b + 4 * e) 4 r.z).lsWrite (b + 4096 + 4 * e) 4 r.id).lsWrite (b + 8192 + 4 * e) 4 (r.id / 2 ^ 32)).lsWrite
    (b + 12288 + e) 1 r.alpha).lsWrite (b + 13312 + e) 1 r.count

/-- The local bytes of a resolved pixel. -/
def resolvedAt (b e : Nat) : List (Nat × Nat) :=
  [(b + 4 * e, 4), (b + 4096 + 4 * e, 4), (b + 8192 + 4 * e, 4), (b + 12288 + e, 1), (b + 13312 + e, 1)]

/-- RESOLVE of a pixel. -/
def State.resolveAt (s : State) (g : Gang) (c : CoreId) (x : Cmd) (px py : Nat) : AgentR State :=
  let e := 32 * (py - getBits x.a1 16 16) + (px - getBits x.a1 0 16)
  match s.resolvePixel g c (targetOf x.desc) x.pool px py (mdBits x.md 4 3) with
  | .error e => .error e
  | .ok (t, r) => do
    let t ← (resolvedAt x.a2.toNat e).foldlM (fun (s : State) a => s.agentLs c a.1 a.2) t
    .ok (t.setCore c ((t.core c).putResolved x.a2.toNat e r))

/-- The cleared record of a single-layer sample (R338). -/
def clearedRec : Nat := 2 ^ 64 - 1 + 0x7F800000 * 2 ^ 64

/-- Clearing some samples of a pixel. -/
def State.clearSamples (s : State) (g : Gang) (c : CoreId) (tg : Target) (x y : Nat) : List Nat → AgentR State
  | [] => .ok s
  | i :: l => match s.wrVa g c (recVa tg x y i) 16 clearedRec with
    | .error e => .error e
    | .ok t => t.clearSamples g c tg x y l

/-- RCLEAR of a pixel (R345). -/
def State.clearAt (s : State) (g : Gang) (c : CoreId) (tg : Target) (x y : Nat) : AgentR State :=
  if tg.ml then s.wrVa g c (headVa tg x y) 4 0 else s.clearSamples g c tg x y (List.range tg.s)

/-- The next step of a RESOLVE or an RCLEAR in a bin: its next pixel. -/
def State.pixelBin (s : State) (g : Gang) (c : CoreId) (x : Cmd) (p : BinProg) : BinWork :=
  let r := x.rect
  match (binPixels p.bin r.1 r.2.1 r.2.2.1 r.2.2.2)[p.pix]? with
  | none => .ok s none
  | some (px, py) =>
    match (if x.op = .resolve then s.resolveAt g c x px py else s.clearAt g c (targetOf x.desc) px py) with
    | .error e => .fault e
    | .ok t => .ok t (some { p with pix := p.pix + 1 })

/-- The place where a command stands in a bin; its start where it has not begun it. -/
def Cmd.progIn (c : Cmd) (bin : Nat) : BinProg := (c.bins.find? (·.bin == bin)).getD ⟨bin, 0, none, 0⟩

/-- The next step of a command's work in a bin. -/
def State.workBin (s : State) (g : Gang) (c : CoreId) (x : Cmd) (bin : Nat) : BinWork :=
  if x.op = .rast then s.rastBin g c x (x.progIn bin) else s.pixelBin g c x (x.progIn bin)

/-- How many pixels of a bin inside a rectangle stand in rows up to `y`. -/
def binUpTo (bin x0 y0 x1 y : Nat) : Nat :=
  (min x1 (bin % 2048 * 64 + 64) - max x0 (bin % 2048 * 64)) * (y + 1 - max y0 (bin / 2048 * 64))

/-- Has a command done its pixels of a row in a bin? -/
def Cmd.rowIn (c : Cmd) (y bin : Nat) : Bool :=
  c.done.contains bin || c.bins.any fun p => p.bin == bin && decide (binUpTo bin c.rect.1 c.rect.2.1 c.rect.2.2.1 y ≤ p.pix)

/-- The rows of a command's rectangle whose pixels are all done, in bins that are finished or not (R330). -/
def Cmd.rowsDone (c : Cmd) : Nat :=
  let r := c.rect
  if r.2.2.1 ≤ r.1 then 0
  else ((List.range (r.2.2.2 - r.2.1)).filter fun i =>
    (rectBins r.1 (r.2.1 + i) r.2.2.1 (r.2.1 + i + 1)).all (c.rowIn (r.2.1 + i))).length

/-- The cursor of a render command (R330). -/
def Cmd.renderCursor (c : Cmd) : Nat :=
  match c.op with
  | .rast => c.done.length
  | .rmarch => c.unit
  | _ => c.rowsDone

/-- Replacing the render command of a slot, with its cursor. -/
def State.setRender (s : State) (c : CoreId) (slot : Fin 8) (x : Cmd) : State :=
  let k := s.core c
  s.setCore c (k.setEng slot { k.eng[slot] with cmd := some x, cursor := BitVec.ofNat 32 x.renderCursor })

/-- A render command halts where it stands. -/
def State.haltCmd (s : State) (c : CoreId) (slot : Fin 8) (cause : Byte) (val : Word) : State :=
  let k := s.core c
  let t := s.setCore c (k.setEng slot (k.eng[slot].halt cause val))
  match k.gang with
  | some g => t.stampIdle g
  | none => t

/-- A command after a step of its work in a bin: at a new place there, or with the bin done. -/
def Cmd.atBin (c : Cmd) (bin : Nat) (p : Option BinProg) : Cmd :=
  let rest := c.bins.filter (·.bin != bin)
  match p with
  | some p => { c with bins := p :: rest }
  | none => { c with bins := rest, done := c.done ++ [bin] }

/-- BIN_WORK: one step of the work of a render command in a bin, up to the next fragment or pixel (R333, R337, R343). The engine
of the bin waits where its port has no credit (R220). DEDUCED, log entry 39. -/
def binStep (c : CoreId) (slot : Fin 8) (bin : Nat) (s : State) : State :=
  match s.runningCmd c slot with
  | none => s
  | some (g, x) =>
    if !x.touches bin || x.done.contains bin || s.binBusy x bin || !s.portOpen (renderPort (binDie bin)) then s
    else match s.workBin g c x bin with
      | .fault e => s.agentFault g.gid c x.ipc e
      | .ok t p => t.setRender c slot (x.atBin bin p)
      | .halt t cause val => t.haltCmd c slot cause val

/-- BIN_WORK (R333). -/
def execBinWork (c : CoreId) (slot : Fin 8) (bin : Nat) (s : State) : Out := .next (binStep c slot bin s)

/-! ### RMARCH (R346 to R349) -/

/-- The shader table's step, threshold and extents. -/
def marchStep (d : BitVec 512) : XVal := Ty.f32.decodeF false (getBits d 320 32)
/-- The extent of an axis. -/
def marchExt (d : BitVec 512) (i : Nat) : Nat := getBits d (256 + 16 * i) 16 + 1

/-- Is a march descriptor well-formed (R346)? -/
def marchOk (d : BitVec 512) : Bool :=
  getBits d 0 8 == 0x40 && getBits d 64 64 % 8 == 0 && (match marchStep d with
    | .fin false _ _ => true
    | _ => false)

/-- The floor of a finite value. -/
def XVal.floor : XVal → Option Int
  | .zero _ => some 0
  | .fin n a b => some (Int.fdiv (if n then -(a : Int) else a) b)
  | _ => none

/-- The voxel of a ray at parameter `t`, none outside the volume (R348). -/
def voxelAt (d : BitVec 512) (ray : Nat) (t : XVal) : Option (List Nat) :=
  (List.range 3).mapM fun i =>
    let o := Ty.f32.decodeF false (bitsN ray (32 * i + 31) (32 * i))
    let r := Ty.f32.decodeF false (bitsN ray (96 + 32 * i + 31) (96 + 32 * i))
    match XVal.floor (Ty.f32.decodeF false (r32 (o.add false (t.mul r).1).1)) with
    | some n => if 0 ≤ n ∧ n < marchExt d i then some n.toNat else none
    | none => none

/-- How a ray ends: a miss; a voxel that is dense enough, with the parameter, the voxel and its material; or a fault. -/
inductive Ray where
  | miss (s : State)
  | at_ (s : State) (t : Nat) (v : List Nat) (m : Nat)
  | fault (e : AgentErr)

/-- Is a density at or above the threshold? A NaN never is. -/
def denseEnough (x th : XVal) : Bool := !x.isNaN && !th.isNaN && x.cmp th != .lt

/-- The march of one ray from step `i` on (R348). -/
def State.march (s : State) (g : Gang) (c : CoreId) (d : BitVec 512) (ray i : Nat) : Nat → Ray
  | 0 => .miss s
  | n + 1 =>
    let tb := r32 ((XVal.ofInt i).mul (marchStep d)).1
    let t := Ty.f32.decodeF false tb
    let tmax := Ty.f32.decodeF false (bitsN ray 223 192)
    if tmax.isNaN || t.cmp tmax == .gt then .miss s
    else match voxelAt d ray t with
      | none => s.march g c d ray (i + 1) n
      | some v =>
        let at_ := (v.getD 2 0 * marchExt d 1 + v.getD 1 0) * marchExt d 0 + v.getD 0 0
        match s.rdVa g c (BitVec.ofNat 64 (getBits d 128 64 + 2 * at_)) 2 with
        | .error e => .fault e
        | .ok (s, b) =>
          if denseEnough (Ty.f16.decodeF false b) (Ty.f16.decodeF false (getBits d 304 16)) then
            match s.rdVa g c (BitVec.ofNat 64 (getBits d 192 64 + at_)) 1 with
            | .error e => .fault e
            | .ok (s, m) => .at_ s tb v m
          else s.march g c d ray (i + 1) n

/-- The low 32 bytes of a hit record (R347). -/
def hitRecord (ray t : Nat) (v : List Nat) (mat : Nat) (hit : Bool) (user sidx : Nat) : Nat :=
  t + v.getD 0 0 * 2 ^ 32 + v.getD 1 0 * 2 ^ 64 + v.getD 2 0 * 2 ^ 96 + mat * 2 ^ 128 + hit.toNat * 2 ^ 136 +
    (bitsN ray 235 232 + 1) * 2 ^ 144 + bitsN ray 231 224 * 2 ^ 152 + user * 2 ^ 160 + sidx * 2 ^ 192

/-- A ray's record is overwritten: the payload keeps its first `plen` bytes, the rest becomes zero (R347). -/
def Core.putHit (k : Core) (a plen rec : Nat) : Core :=
  (k.lsWrite a 32 rec).lsWrite (a + 32 + plen) (32 - plen) 0

/-- The channel that a shader record names, where the record is sound and its channel takes the payload (R349). -/
def Gang.shaderPort (g : Gang) (k : Core) (x : Cmd) (rec : Nat) : Option ChanRef :=
  if rec.testBit 8 && bitsN rec 31 9 == 0 && bitsN rec 7 4 == 0 then
    match (g.actorIn k.gx k.gy x.fire.slot).bind fun a => g.outOf a.1 k.gx k.gy (bitsN rec 3 0) with
    | some (r, ch) => if plenOf x.md ≤ ch.payload then some r else none
    | none => none
  else none

/-- What a ray gives: its record and its token, a halt with STABLE, or a fault. -/
inductive Cast where
  | ends (s : State) (rec : Nat) (toks : List (ChanRef × Word))
  | stuck (s : State)
  | fault (e : AgentErr)

/-- A ray that misses. -/
def Cmd.missed (c : Cmd) (s : State) (ray : Nat) (va : Word) : Cast :=
  .ends s (hitRecord ray 0 [] 0 false 0 (2 ^ 32 - 1)) (match c.port with
    | some r => [(r, va)]
    | none => [])

/-- The march of the ray whose record stands at local address `a`, and the shader record of what it hits (R348, R349). -/
def State.castRay (s : State) (g : Gang) (c : CoreId) (x : Cmd) (a : Nat) : Cast :=
  let va := BitVec.ofNat 64 a
  let ray := (s.core c).lsRead a 64
  let d := x.desc
  match s.march g c d ray 0 (2 ^ 24) with
  | .fault e => .fault e
  | .miss s => x.missed s ray va
  | .at_ s t v m =>
    let i := m * getBits d 16 16 + bitsN ray 231 224
    if getBits d 32 32 ≤ i then .stuck s
    else match s.rdVa g c (BitVec.ofNat 64 (getBits d 64 64 + 8 * i)) 8 with
      | .error e => .fault e
      | .ok (s, rec) =>
        if rec = 0 then x.missed s ray va
        else match g.shaderPort (s.core c) x rec with
          | none => .stuck s
          | some r => .ends s (hitRecord ray t v m true (bitsN rec 63 32) i) [(r, va)]

/-- RAY_MARCH: the next ray of an RMARCH (R348, R349). A render engine whose port has no credit waits (R220). -/
def rayStep (c : CoreId) (slot : Fin 8) (s : State) : State :=
  match s.runningCmd c slot with
  | none => s
  | some (g, x) =>
    if x.op != .rmarch || decide (x.a2.toNat ≤ x.unit) || !s.portOpen (renderPort (coreDie c)) then s
    else
      let a := x.a1.toNat + 64 * x.unit
      let va := BitVec.ofNat 64 a
      match s.agentLs c a 64 with
      | .error e => s.agentFault g.gid c x.ipc e
      | .ok t => match t.castRay g c x a with
        | .fault e => s.agentFault g.gid c x.ipc e
        | .stuck u => u.haltCmd c slot cSTABLE va
        | .ends u rec toks => (u.setCore c ((u.core c).putHit a (plenOf x.md) rec)).setRender c slot
            { x with unit := x.unit + 1, toks := x.toks ++ toks }

/-- RAY_MARCH (R348). -/
def execRayMarch (c : CoreId) (slot : Fin 8) (s : State) : Out := .next (rayStep c slot s)

/-! ### RENDER_SLOT_ACCEPT (R330, R332, R350) -/

/-- Does a command read a pool descriptor? -/
def Cmd.usesPool (c : Cmd) : Bool :=
  (targetOf c.desc).ml && (c.op == .rast || c.op == .resolve || (c.op == .rclear && c.md.getLsbD 4))

/-- The checks of RAST, RESOLVE and RCLEAR that need no pool. DEDUCED, log entry 38. -/
def targetBad (c : Cmd) (held : BitVec 128) : Option Word :=
  let t := targetOf c.desc
  if !targetOk c.desc then some c.dva
  else match c.op with
    | .rast => if c.a1.toNat % 16 = 0 then none else some c.a1
    | .resolve =>
      if (if t.ml then t.k else t.s) ≤ mdBits c.md 4 3 then some c.dva
      else if c.a2.toNat % 4096 != 0 then some c.a2
      else localBad held c.a2.toNat (c.a2.toNat + 16383)
    | _ => if c.md.getLsbD 4 && !t.ml then some c.dva else none

/-- The checks of RMARCH. DEDUCED, log entry 38. DESIGN CHOICE, log entry 117. -/
def marchBad (c : Cmd) (held : BitVec 128) : Option Word :=
  if !marchOk c.desc then some c.dva
  else if c.a1.toNat % 64 != 0 then some c.a1
  else if c.a2 = 0 then none
  else localBad held c.a1.toNat (c.a1.toNat + 64 * c.a2.toNat - 1)

/-- The first ray from the cursor on whose depth reaches the gang's rdepth (R350). -/
def deepRay (k : Core) (c : Cmd) (rdepth : Nat) : Option Word :=
  ((List.range (c.a2.toNat - c.unit)).find? fun r =>
    decide (rdepth ≤ bitsN (k.lsRead (c.a1.toNat + 64 * (c.unit + r)) 64) 235 232)).map fun r =>
      BitVec.ofNat 64 (c.a1.toNat + 64 * (c.unit + r))

/-- The cause and the trapval of the first check of a render command that fails, in this order, which the spec does not give.
DESIGN CHOICE, log entry 117. -/
def renderBad (k : Core) (c : Cmd) (held : BitVec 128) (rdepth : Nat) : Option (Byte × Word) :=
  match c.op with
  | .rmarch => match marchBad c held with
    | some v => some (cCOPYF, v)
    | none => (deepRay k c rdepth).map fun v => (cRDEPTH, v)
  | _ => match targetBad c held with
    | some v => some (cCOPYF, v)
    | none => if c.usesPool && !poolOk c.pool then some (cCOPYF, (targetOf c.desc).pool) else none

/-- The block of a descriptor through the descriptor cache of the render engine of a core's die (R250, R332).
DEDUCED, log entry 41. -/
def State.readRdesc (s : State) (g : Gang) (c : CoreId) (va : Word) : AgentR (State × BitVec 512) :=
  match s.rdescs[coreDie c].find? fun d => d.asid == g.launch.asid && d.va == va.toNat with
  | some d => .ok (s, d.data)
  | none => match s.agentReadAcross g c va 64 with
    | .error e => .error e
    | .ok (t, x) =>
      let d : Desc := ⟨g.launch.asid, va.toNat, BitVec.ofNat 512 x⟩
      .ok ({ t with rdescs := t.rdescs.set (coreDie c) (d :: t.rdescs[coreDie c]) }, d.data)

/-- The check of R350 reads the depths of some ray records, from local address `a` on, up to the first that fails it (R236, R237). -/
def State.readRays (s : State) (c : CoreId) (rdepth a : Nat) : Nat → AgentR State
  | 0 => .ok s
  | n + 1 => match s.agentLs c (a + 29) 1 with
    | .error e => .error e
    | .ok t => if rdepth ≤ bitsN ((s.core c).lsRead a 64) 235 232 then .ok t else t.readRays c rdepth (a + 64) n

/-- What the acceptance of a render command reads, with the tiles that it will hold: its descriptors, or the descriptor and the depths of
the rays of an RMARCH that passes the checks before them. -/
def State.readRender (s : State) (g : Gang) (c : CoreId) (x : Cmd) (held : BitVec 128) : AgentR (State × Cmd) :=
  match s.readRdesc g c x.dva with
  | .error e => .error e
  | .ok (s, d) =>
    let x := { x with desc := d }
    if x.op = .rmarch then
      if (marchBad x held).isSome then .ok (s, x)
      else (s.readRays c g.img.rdepth (x.a1.toNat + 64 * x.unit) (x.a2.toNat - x.unit)).map fun t => (t, x)
    else if targetOk d && x.usesPool then (s.readRdesc g c (targetOf d).pool).map fun y => (y.1, { x with pool := y.2 })
    else .ok (s, x)

/-- Does an earlier render command of the same firing wait for acceptance (R333)? One that has halted there holds no later one.
DESIGN CHOICE, log entry 119. -/
def Core.renderWaits (k : Core) (x : Cmd) : Bool :=
  k.eng.toList.any fun e => e.state == .issued && (match e.cmd with
    | some y => !y.op.isData && y.fire.fid == x.fire.fid && decide (y.seq < x.seq)
    | none => false)

/-- Must the acceptance of an RMARCH, which reads the ray records in the tiles that it takes, wait for what comes before the engine's
accesses to them (R267, R350)? -/
def State.rayWaits (s : State) (c : CoreId) (slot : Fin 8) (x : Cmd) : Bool :=
  x.op == .rmarch && !s.handedOver c x ((s.core c).eng[slot].takeTiles x.snap).held

/-- RENDER_SLOT_ACCEPT: a render slot of the die, the descriptors, the tiles, the checks (R330, R332). A command that is
accepted again keeps its render slot and its cursor, also where a check fails. DESIGN CHOICE, log entry 118. -/
def renderAcceptStep (c : CoreId) (slot : Fin 8) (s : State) : State :=
  match s.issuedCmd c slot with
  | none => s
  | some (g, x) =>
    let die := coreDie c
    let had := (s.core c).eng[slot].rslot
    if x.op.isData || (s.core c).renderWaits x || ((!had) && decide (32 ≤ s.rslots[die])) ||
        s.rayWaits c slot x || !s.portOpen (renderPort die) then s
    else match s.readRender g c x ((s.core c).eng[slot].takeTiles x.snap).held with
      | .error e => s.agentFault g.gid c x.ipc e
      | .ok (t, x) =>
        let u : State := { t with rslots := if had then t.rslots else t.rslots.set die (t.rslots[die] + 1) }
        let k := u.core c
        let e := { (k.eng[slot].takeTiles x.snap) with cmd := some x, rslot := true }
        match renderBad k x e.held g.img.rdepth with
        | some (cause, v) => (u.setCore c (k.setEng slot (e.halt cause v))).stampIdle g.gid
        | none => u.setCore c (k.setEng slot { e with state := .running })

/-- RENDER_SLOT_ACCEPT (R330). -/
def execRenderSlotAccept (c : CoreId) (slot : Fin 8) (s : State) : Out := .next (renderAcceptStep c slot s)

/-! ### Completion (R318, R330, R345, R349) -/

/-- Is all the work of a command done? -/
def Cmd.allDone (c : Cmd) : Bool :=
  match c.op with
  | .copy | .gather | .iwalk => c.finished
  | .rmarch => decide (c.a2.toNat ≤ c.unit)
  | _ => c.binList.all (c.done.contains ·)

/-- The tokens of a completed command. -/
def Cmd.tokens (c : Cmd) : List (ChanRef × Word) :=
  let one := fun (v : Word) => match c.port with
    | some r => [(r, v)]
    | none => []
  match c.op with
  | .copy | .gather | .iwalk => one (BitVec.ofNat 64 c.base)
  | .resolve => one c.a2
  | .rmarch => c.toks
  | _ => one c.a1

/-- The cursor that a completed command leaves (R326, R330). -/
def Cmd.finalCursor (c : Cmd) : Nat := if c.op.isData then c.total else c.renderCursor

/-- RCLEAR.pool resets the pool's allocation fields after its head words (R345). -/
def State.resetPool (s : State) (g : Gang) (c : CoreId) (x : Cmd) : AgentR State :=
  if x.resets then s.wrVa g c ((targetOf x.desc).pool + 16) 12 0 else .ok s

/-- A slot after its command has ended. -/
def EngSlot.over (e : EngSlot) : EngSlot := { e with state := .free, cmd := none }

/-- COMMAND_COMPLETE: the held set returns, then the command's tokens are left to send (R318); a reset of a pool waits for the
allocations of the commands before it and for the credit of its engine's port (R220). DESIGN CHOICE, log entry 106. -/
def completeStep (c : CoreId) (slot : Fin 8) (s : State) : State :=
  match s.runningCmd c slot with
  | none => s
  | some (g, x) =>
    if !x.allDone || s.poolBusy x || (x.resets && !s.portOpen (renderPort (coreDie c))) then s
    else match s.resetPool g c x with
      | .error e => s.agentFault g.gid c x.ipc e
      | .ok t =>
        let k := t.core c
        let e := k.eng[slot]
        let u := (t.freeRslot c e).stampIdle g.gid
        let e := { e with held := 0, rslot := false, cursor := BitVec.ofNat 32 x.finalCursor }
        match x.tokens with
        | [] => (u.setCore c (k.setEng slot e.over)).lower g.gid 1
        | l => u.setCore c (k.setEng slot { e with state := .token, cmd := some { x with toks := l } })

/-- COMMAND_COMPLETE (R318). -/
def execCommandComplete (c : CoreId) (slot : Fin 8) (s : State) : Out := .next (completeStep c slot s)

/-- COMPLETION_TOKEN_SEND: the next token of a command, which waits for a free slot and for the credit of its engine's port
(R220); after the last one the census falls and the slot is free (R318, R349). -/
def tokenSendStep (c : CoreId) (slot : Fin 8) (s : State) : State :=
  let k := s.core c
  match k.eng[slot].state, k.eng[slot].cmd, s.gangAt k with
  | .token, some x, some g =>
    if !g.active || !s.portOpen (if x.op.isData then enginePort c else renderPort (coreDie c)) then s
    else match x.toks with
      | [] => s
      | (r, v) :: rest => match s.sendToken g.gid r v with
        | none => s
        | some t =>
          let k := t.core c
          if rest.isEmpty then (t.setCore c (k.setEng slot k.eng[slot].over)).lower g.gid 1
          else t.setCore c (k.setEng slot { k.eng[slot] with cmd := some { x with toks := rest } })
  | _, _, _ => s

/-- COMPLETION_TOKEN_SEND (R318). -/
def execCompletionTokenSend (c : CoreId) (slot : Fin 8) (s : State) : Out := .next (tokenSendStep c slot s)

end Sys2Proof.Machine
end

