-- ==== Sys2Proof/Machine/Kill.lean ====
section
/-!
DEFINITION. Sys2Proof/Machine/Kill.lean: how a gang ends: completion tuples and their deposit (R218), the kill (R362 to
R364, R290), the watchdog (R365), fatal package errors and the dump (R375, R376); with the steps COMPLETION_DEPOSIT,
COMPLETION_RETRY, GANG_KILL, KILL_COMPLETE, WDOG_EXPIRY and PACKAGE_FATAL_ERROR.
-/

namespace Sys2Proof.Machine

open Sys2Proof

/-! ### Completion tuples (R218) -/

/-- A completion tuple of a launch: what ended it, its gangid (0 where it was never placed), and the tick. -/
def doneTuple (l : Launch) (d : Doom) (gid tick : Nat) : BitVec 512 :=
  BitVec.ofNat 512 (l.ctag.toNat + d.status.toNat * 2 ^ 64 + d.cause.toNat * 2 ^ 72 + l.pri.toNat * 2 ^ 120 +
    l.cookie.toNat * 2 ^ 128 + d.fpc.toNat * 2 ^ 192 + d.faddr.toNat * 2 ^ 256 + d.census % 2 ^ 64 * 2 ^ 320 +
    gid % 2 ^ 32 * 2 ^ 384 + d.fcore.toNat * 2 ^ 416 + tick % 2 ^ 64 * 2 ^ 448)

/-- A completion is formed and waits for its deposit by a dispatcher. DESIGN CHOICE, log entry 72. -/
def State.complete (s : State) (die : Fin 4) (l : Launch) (d : Doom) (gid : Nat) : State :=
  { s with
    comps := s.comps ++ [⟨s.nextId, die, doneTuple l d gid s.tick, l.creg, l.asid, false⟩]
    nextId := s.nextId + 1 }

/-- The descriptor at a place as a dispatcher or the host side of the link has it: as its cache holds it, by its physical
address, or else the block in memory (R273). None where the block has an uncorrectable error. -/
def State.descAt (s : State) (l : List Desc) (pa : Nat) (key : Fin 128) : Option (BitVec 512) :=
  if descIn l 0 pa ≠ 0 then some (descIn l 0 pa)
  else if s.hardAt (s.readSites key pa 64) then none
  else some (BitVec.ofNat 512 (s.physRead key pa 64))

/-- A descriptor enters such a cache. -/
def keepDesc (l : List Desc) (pa : Nat) (d : BitVec 512) : List Desc := if descIn l 0 pa = 0 then ⟨0, pa, d⟩ :: l else l

/-- A dispatcher's cache takes a descriptor that it does not hold. -/
def State.dispKeep (s : State) (die : Fin 4) (pa : Nat) (d : BitVec 512) : State :=
  { s with ddescs := s.ddescs.set die (keepDesc s.ddescs[die] pa d) }

/-- The read of a descriptor that a cache does not hold corrects the single-bit errors of the block (R236). -/
def State.descMeets (s : State) (l : List Desc) (pa : Nat) (key : Fin 128) : State :=
  if descIn l 0 pa = 0 then s.correctMem key pa 64 else s

/-- The home of a completion, by its region as it is mapped now: none where it does not translate, is no CL page, or is
no well-formed region, and none where the walk or the block meets an uncorrectable error. DEDUCED, log entry 85. -/
def State.compHome (s : State) (x : Completion) : Option HomeReq :=
  if x.creg.toNat % 64 != 0 then none
  else match s.dispPlace x.asid .cloche x.creg.toNat 0 with
    | .ok (.phys pa p) => match s.descAt s.ddescs[x.die] pa p.key with
      | some d => if s.dscOk d then some (homeReq pa d (tupTag x.tuple)) else none
      | none => none
    | _ => none

/-- Have the ports at which a home in this package or another answers a request credit (R220)? -/
def State.homeOpen (s : State) (r : HomeReq) : Bool := s.portOpen (s.homePort r.pkg r.q r.region)

/-- Must the read of a descriptor that a cache does not hold wait for the credit of its home (R220)? -/
def State.descShut (s : State) (l : List Desc) (pa : Nat) : Bool := descIn l 0 pa == 0 && !s.memOpen pa 64

/-- Must a completion wait for the credit of what answers its dispatcher: the walk, the descriptor or the home (R220)? -/
def State.compShut (s : State) (x : Completion) : Bool :=
  (x.creg.toNat % 64 == 0 && (match s.dispPlace x.asid .cloche x.creg.toNat 0 with
    | .error .wait => true
    | .ok (.phys pa _) => s.descShut s.ddescs[x.die] pa
    | _ => false)) || (s.compHome x).any fun r => !s.homeOpen r

/-- A completion leaves the dispatcher. -/
def State.dropComp (s : State) (id : Nat) : State := { s with comps := s.comps.filter (·.id != id) }

/-- The cookie of a completion tuple. -/
def compCookie (x : Completion) : Word := x.tuple.extractLsb' 128 64

/-- What the dispatcher meets on the way to the region of a completion: in the walk, and in the block where its cache does not hold it
(R236). -/
def State.compMeets (s : State) (x : Completion) : State :=
  let va := x.creg.toNat
  if va % 64 != 0 then s
  else
    let t := s.dispWalk x.asid va
    match s.dispPlace x.asid .cloche va 0 with
    | .ok (.phys pa p) => t.descMeets s.ddescs[x.die] pa p.key
    | _ => t

/-- The deposit of a completion: accepted, parked, or answered busy and to be sent again; or dropped, with its cookie in
the error log. It waits for the credit of what answers it (R220). -/
def State.sendComp (s : State) (x : Completion) : State :=
  if s.compShut x then s
  else match s.compHome x with
  | none => { (s.compMeets x).dropComp x.id with dropped := s.dropped ++ [compCookie x] }
  | some r =>
    let s := (s.compMeets x).dispKeep x.die r.region r.desc
    match s.offer r x.tuple with
    | some t => t.dropComp x.id
    | none =>
      if (s.home2 r.pkg r.q).tableFree then
        (s.park r.pkg r.q ⟨0, r.region, .dep, x.tuple, 0, r.desc, .dispatcher x.id, none, false⟩).dropComp x.id
      else { s with comps := s.comps.map fun y => if y.id = x.id then { y with busy := true } else y }

/-- COMPLETION_DEPOSIT (R218). -/
def execCompletionDeposit (i : Nat) (s : State) : Out :=
  match s.comps.find? (·.id == i) with
  | some x => .next (if x.busy then s else s.sendComp x)
  | none => .next s

/-- COMPLETION_RETRY (R218): a deposit that was answered busy is sent again. -/
def execCompletionRetry (i : Nat) (s : State) : Out :=
  match s.comps.find? (·.id == i) with
  | some x => .next (if x.busy then s.sendComp x else s)
  | none => .next s

/-! ### Freeing quads -/

/-- The cores of a gang that stands on its quads, row by row. -/
def Gang.coreIds (g : Gang) : List CoreId :=
  (List.range (2 * g.launch.h)).flatMap fun y => (List.range (2 * g.launch.w)).map fun x => g.coreAt x y

/-- The dispatcher may decide anew: a gang has ended or has been restored, or the head's effective priority has changed (R216). -/
def State.wakeHead (s : State) : State := { s with head := s.head.map fun h => { h with waits := false } }

/-- The dispatcher decides anew where a gang of its decision ends otherwise, or one that is saved is killed (R372).
DESIGN CHOICE, log entry 55. -/
def State.redecide (s : State) (g : Gang) : State :=
  if g.order.isSome || g.phase == .saved then { s with head := s.head.map fun h => { h with rect := none, waits := false } } else s

/-- The quads of a gang become free: its ways return to 0, and its cores hold nothing of it (R213, R240, R364). -/
def State.freeQuads (s : State) (g : Gang) : State :=
  if g.onQuads then
    g.coreIds.foldl (fun (s : State) c => s.setCore c Core.reset) (s.repart g 0)
  else s

/-- The dispatcher that completes a gang: that of the die where its origin is. DESIGN CHOICE, log entry 72. -/
def Gang.die (g : Gang) : Fin 4 := Fin.ofNat 4 (g.qx / 8 + 2 * (g.qy / 4))

/-- A gang leaves the package with its completion. -/
def State.endGang (s : State) (g : Gang) (d : Doom) : State :=
  let t := ((s.freeQuads g).redecide g).wakeHead
  ({ t with gangs := t.gangs.filter (·.gid != g.gid) } : State).complete g.die g.launch d g.gid

/-! ### The kill (R364) -/

/-- A core of a killed gang: nothing runs, waits or moves. -/
def Core.stop (k : Core) : Core :=
  { k with
    fire := none, susp := none, hold := none, starting := false, haloPend := [], edges := []
    eng := .replicate 8 EngSlot.empty }

/-- The render slots of the commands of a core, on its quad or in an image, become free. -/
def State.freeRslots (s : State) (c : CoreId) (k : Core) : State := k.eng.foldl (fun (s : State) e => s.freeRslot c e) s

/-- Is a parked request one of a gang? -/
def Park.ofGang (p : Park) (g : Nat) : Bool :=
  match p.asker with
  | .core x _ _ _ _ => x == g
  | _ => false

/-- The parked requests and the Mitten commands of a gang leave a slice; a tuple that stood in a table entry and was not
written yet is counted in the error log (R290). -/
def Slice.purge (z : Slice) (g : Nat) : Slice :=
  { z with
    parked := z.parked.filter fun p => !p.ofGang g
    mcmds := z.mcmds.filter (·.gang != g)
    errors := z.errors + (z.parked.filter fun p => p.ofGang g && p.got.isSome && !p.direct).length }

/-- Does an access of a killed gang run on to its home? One that was sent, and is no release (R263); the elements of a
window whose epoch has closed; and every access that has been performed. DEDUCED, log entry 56. -/
def State.runsOn (s : State) (a : Access) : Bool :=
  match a.phase, a.window with
  | .done _ _, _ => true
  | .sent _, some (w, e) => decide (e < s.wins[w].epoch)
  | .sent _, none => a.req.isData && a.release.isNone
  | _, _ => false

/-- The window elements of a gang leave the package, those of the open epoch or all of them. -/
def Win.purge (w : Win) (g : Nat) (all : Bool) : Win :=
  { w with elems := w.elems.filter fun e => !(e.gang == g && (all || e.epoch == w.epoch)) }

/-- The epochs of the windows close whose participations have all been counted and of which no element stands in an image (R390). -/
def State.closeEpochs (s : State) : State := ((List.range 4).map (Fin.ofNat 4)).foldl State.closeEpoch s

/-- Steps 1 to 3 of a kill: the cores stop, commands and parked requests and tokens and edges and arrivals are
discarded, and the accesses that were not sent are dropped. An epoch that the elements in its image held open may close (R390).
DEDUCED, log entry 56. -/
def State.stopGang (s : State) (g : Gang) (all : Bool) : State :=
  let s := if g.onQuads then
      g.coreIds.foldl (fun (s : State) c => (s.freeRslots c (s.core c)).setCore c (s.core c).stop) s
    else (g.coreIds.zip g.cores).foldl (fun (s : State) x => s.freeRslots x.1 x.2) s
  let s := { s with
    slices := mapVec (fun z => Slice.purge z g.gid) s.slices
    far := s.far.map fun (x : FarSlice) => { x with sl := x.sl.purge g.gid }
    flight := s.flight.filter fun a => a.gang != g.gid || ((!all) && s.runsOn a)
    wins := mapVec (fun w => Win.purge w g.gid all) s.wins }
  ((s.redecide g).setGang { g with
    phase := .killing, order := none, insts := [], edges := [], barCount := none, barIn := [], cores := [], scratch := []
    mcmds := [], resends := [], image := [], resvs := [] }).closeEpochs

/-- GANG_KILL (R364): a gang whose end has been decided stops. -/
def killStep (gid : Nat) (s : State) : State :=
  match s.gangOf gid with
  | some g => if g.doom.isSome && g.phase != .killing then s.stopGang g false else s
  | none => s

/-- GANG_KILL (R364). -/
def execGangKill (g : Nat) (s : State) : Out := .next (killStep g s)

/-- KILL_COMPLETE (R364): every access of the gang has been performed or dropped, the quads are freed and the completion
is deposited. -/
def killDoneStep (gid : Nat) (s : State) : State :=
  match s.gangOf gid with
  | some g => match g.doom with
    | some d => if g.phase != .killing || s.flight.any (·.gang == gid) then s else s.endGang g d
    | none => s
  | none => s

/-- KILL_COMPLETE (R364). -/
def execKillComplete (g : Nat) (s : State) : Out := .next (killDoneStep g s)

/-! ### The watchdog (R365) -/

/-- The record of a watchdog count that has reached its limit: fpc, kind and slot, fcore, and the tick at which it reached it. -/
structure WdogRec where
  fpc   : Word
  faddr : Nat
  fcore : Nat
  due   : Nat
  deriving DecidableEq, Repr

/-- The VA at which a core is held, 0 where no firing runs. -/
def Core.heldAt (k : Core) : Word := if k.fire.isSome then k.pc else 0

/-- The cores of a gang, by rising coreid. -/
def Gang.byCoreId (g : Gang) : List CoreId :=
  [0, 1, 2, 3].flatMap fun die => g.coreIds.filter fun c => (coreDie c).val == die

/-- The issue count of a core that has expired. -/
def State.issueExpired (s : State) (g : Gang) (c : CoreId) : Option WdogRec :=
  let k := s.core c
  if k.fire.isSome ∧ g.limit ≤ s.tick - k.issueMark then some ⟨k.heldAt, 1, coreIdVal c, k.issueMark + g.limit⟩ else none

/-- The ready counts of a core that have expired, by rising slot. DEDUCED, log entry 32. -/
def State.readyExpired (s : State) (g : Gang) (c : CoreId) : List WdogRec :=
  let k := s.core c
  ((List.range 8).map (Fin.ofNat 8)).filterMap fun slot => match k.readyMark[slot] with
    | some t => if g.limit ≤ s.tick - t then some ⟨k.heldAt, 2 + 256 * slot.val, coreIdVal c, t + g.limit⟩ else none
    | none => none

/-- Does a Mitten command of a gang run in a slice: the one whose turn it is there, until its work is done (R296)? -/
def Slice.runsFor (z : Slice) (gid : Nat) : Bool := z.mcmds.head?.any fun c => c.gang == gid && !c.ended

/-- Is a request of a gang parked: one that has no tuple yet? One that found its tuple at once has never parked, and one that is satisfied
waits for a tile or a free slot (R282, R285, R365). -/
def Park.parkedFor (p : Park) (g : Nat) : Bool := p.got.isNone && p.ofGang g

/-- Does a command of a gang run, or does it hold a parked request? A command that has only its token to send does not run (R326). -/
def State.gangBusy (s : State) (g : Gang) : Bool :=
  g.coreIds.any (fun c => (s.core c).eng.toList.any fun e => e.state == .issued || e.state == .running) ||
  s.slices.toList.any (fun z => z.runsFor g.gid || z.parked.any (·.parkedFor g.gid)) ||
  s.far.any fun x => x.sl.parked.any (·.parkedFor g.gid)

/-- The idle count of a gang that has expired: since its last issue, command or parked request. -/
def State.idleExpired (s : State) (g : Gang) : Option WdogRec :=
  let since := g.coreIds.foldl (fun m c => max m (s.core c).lastIssue) g.idleMark
  if decide (g.limit ≤ s.tick - since) && !s.gangBusy g then some ⟨0, 3, 0, since + g.limit⟩ else none

/-- The counts of a gang that have expired: by kind, then the lower fcore, then the lower slot. -/
def State.expiries (s : State) (g : Gang) : List WdogRec :=
  g.byCoreId.filterMap (s.issueExpired g) ++ g.byCoreId.flatMap (s.readyExpired g) ++ (s.idleExpired g).toList

/-- The first of the counts that reached their limits earliest. -/
def leastDue : List WdogRec → Option WdogRec
  | [] => none
  | r :: l => match leastDue l with
    | some x => if x.due < r.due then some x else some r
    | none => some r

/-- The count that a WDOG reports: that which reached its limit first, and of several in one cycle the first by kind, then the lower
fcore, then the lower slot. -/
def State.wdogOf (s : State) (g : Gang) : Option WdogRec := leastDue (s.expiries g)

/-- WDOG_EXPIRY (R365): the counts run while the gang is on its quads and not told to stop. A WDOG comes in the cycle in which its count
reaches the limit, which every step looks for as its cycles have passed (`State.advance`). A limit of 0, which no setting in its
range gives, ends no gang. DESIGN CHOICE, log entry 12. -/
def wdogStep (gid : Nat) (s : State) : State :=
  match s.gangOf gid with
  | some g =>
    if !(decide (0 < g.limit) && g.active) then s
    else match s.wdogOf g with
      | some r =>
        let d : Doom := ⟨stFault, cWDOG, r.fpc, BitVec.ofNat 64 r.faddr, BitVec.ofNat 32 r.fcore, g.census, r.due⟩
        s.setGang { g with doom := some d }
      | none => s
  | none => s

/-- WDOG_EXPIRY (R365). -/
def execWdogExpiry (g : Nat) (s : State) : Out := .next (wdogStep g s)

/-! ### Fatal package errors and the dump (R375, R376) -/

/-- A record of a dump whose contents the spec does not lay out: its kind in bits 7:0, the rest free. DESIGN CHOICE, log entry
10. -/
def State.dumpFree (s : State) (i kind : Nat) : Nat :=
  (List.range 63).foldl (fun acc j => acc + (Config.dumpByte s.steps (64 * i + j)).toNat * 2 ^ (8 * (j + 1))) kind

/-- A fault record: the completion tuple of a gang that the error kills, with the record's kind in bits 7:0 (R376).
DESIGN CHOICE, log entry 58. -/
def faultRec (t : BitVec 512) : Nat := t.toNat / 256 * 256 + 2

/-- The kinds of the records that follow the fault records: one of each core's control registers, one of each slice whose error
log counts something, one of each link's error log, one of each dispatcher; then some of kinds 1 and 3 to 6.
DESIGN CHOICE, log entry 58. -/
def State.dumpKinds (s : State) : List Nat :=
  List.replicate 512 1 ++ ((s.slices.toList.filter fun z => z.errors != 0).map fun _ => 3) ++ List.replicate 17 4 ++ List.replicate 4 5 ++
    (List.range (Config.dumpCount s.steps).toNat).map fun i => ([1, 3, 4, 5, 6][(Config.dumpByte s.steps (64 * i)).toNat % 5]?).getD 1

/-- The records of a dump, as many as its area holds behind the header. -/
def State.dumpRecs (s : State) (b : DawnBoot) (faults : List (BitVec 512)) : List Nat :=
  (faults.map faultRec ++ s.dumpKinds.zipIdx.map fun x => s.dumpFree x.2 x.1).take (b.dumpSize.toNat / 64 - 1)

/-- The header of a dump of `n` records (R376). -/
def State.dumpHeader (s : State) (n : Nat) (reason : Byte) : Nat :=
  0x46554D44 + (s.dumpSeq + 1) % 2 ^ 32 * 2 ^ 32 + reason.toNat * 2 ^ 64 + s.pkg.toNat * 2 ^ 80 + n * 2 ^ 96 + s.tick % 2 ^ 64 * 2 ^ 128

/-- The dump: its records, then its header, then the link interrupt (R375, R376). `faults` are the completion tuples of the gangs
that the error killed. -/
def State.dump (s : State) (reason : Byte) (faults : List (BitVec 512)) : State :=
  match s.boot with
  | none => s
  | some b =>
    if b.dumpSize.toNat < 64 then s
    else
      let l := s.dumpRecs b faults
      let t := l.zipIdx.foldl (fun (t : State) x => t.physWrite 0 (b.dump.toNat + 64 + 64 * x.2) 64 x.1) s
      let u := t.physWrite 0 b.dump.toNat 64 (s.dumpHeader l.length reason)
      { u with dumpSeq := s.dumpSeq + 1, hostOut := u.hostOut ++ [.dump] }

/-- A gang is killed and completed at once: its accesses are dropped. -/
def State.killNow (s : State) (g : Gang) : State :=
  let t := s.stopGang g true
  match t.gangOf g.gid with
  | some x => match x.doom with
    | some d => t.endGang x d
    | none => t
  | none => t

/-- A fatal package error: no more launches; every gang is killed with PKGERR and its cause; the completions are
deposited where their regions can be reached; the dump (R375). -/
def State.packageError (s : State) (reason : Byte) (cause : Byte) (faddr : Nat) : State :=
  let s : State := { s with accepting := false }
  let s := s.gangs.foldl (fun (s : State) g =>
    s.doom g.gid ⟨stPkgErr, cause, 0, BitVec.ofNat 64 faddr, 0, 0, 0⟩) s
  let before := s.comps.length
  let s := s.gangs.foldl (fun (s : State) g => s.killNow g) s
  let faults := (s.comps.drop before).map (·.tuple)
  (s.comps.foldl (fun (s : State) x => s.sendComp x) s).dump reason faults

/-- The cause of the kills of a package error: ECCU for the two kinds of memory error, else 0 (R375). -/
def reasonCause (reason : Fin 4) : Byte := if reason.val < 2 then cECCU else 0

/-- PACKAGE_FATAL_ERROR (R375). -/
def execPackageFatalError (reason : Fin 4) (pa : Nat) (s : State) : Out :=
  .next (s.packageError (BitVec.ofNat 8 (reason.val + 1)) (reasonCause reason) (if reason.val < 2 then pa else 0))

end Sys2Proof.Machine
end

