-- ==== Sys2Proof/Machine/Dispatcher.lean ====
section
/-!
DEFINITION. Sys2Proof/Machine/Dispatcher.lean: launch, placement and pre-emption: LAUNCH_TAKE (R208 to R210),
GANG_PLACEMENT (R211, R213), AGING_STEP (R215), PREEMPT_DECISION (R216), GANG_PREEMPT (R203, R367 to R369), GANG_MOVE
(R212), SAVE_IMAGE_MOVE (R216), GANG_RESTORE (R217, R371), DUSK and GANG_RETIRE (R205, R206).
-/

namespace Sys2Proof.Machine

open Sys2Proof

/-! ### Taking the head (R208, R210, R215) -/

/-- The effective priority of the head (R215). -/
def State.headPri (s : State) (h : Head) : Nat := s.effPri h.launch.pri.toNat h.since
/-- The effective priority of a saved gang (R215). -/
def State.savedPri (s : State) (g : Gang) : Nat := s.effPri g.launch.pri.toNat g.waitFrom

/-- AGING_STEP (R215): what waits gains its steps with the time, as `State.effPri` counts them; where the head has gained one, the
dispatcher decides anew (R216). -/
def agingStep (s : State) : State :=
  match s.head with
  | some h => if s.headPri h = h.aged then s else { s with head := some { h with aged := s.headPri h, waits := false } }
  | none => s

/-- AGING_STEP (R215). -/
def execAgingStep (s : State) : Out := .next (agingStep s)

/-- The pattern of the dispatchers: the tag 1 and nothing else (R207). -/
def launchPattern : BitVec 512 := 1

/-- The home of the launch tuples of a region, by the descriptor that the dispatcher whose turn it is has (R273); none where that
has an uncorrectable error or is not well-formed. -/
def State.launchHome (s : State) (region : Nat) : Option HomeReq :=
  match s.descAt s.ddescs[s.dieTurn] region 0 with
  | some d => if s.dscOk d then some (homeReq region d 1) else none
  | none => none

/-- A take-match of a region: the dispatcher reads its descriptor, and the home examines its launch tuples (R208, R273, R277). The
single-bit errors on the way are corrected, also where the match ends with an uncorrectable one (R236). -/
def State.lookAt (s : State) (region : Nat) : State :=
  let t := s.descMeets s.ddescs[s.dieTurn] region 0
  match s.launchHome region with
  | some r =>
    let t := t.dispKeep s.dieTurn region r.desc
    if s.matchHard r 1 then t.matchMeets r 1 else t.examineAt r 1
  | none => t

/-- The launch tuple that a region gives, with its home. -/
def State.launchIn (s : State) (region : Nat) : Option (HomeReq × Stored) :=
  (s.launchHome region).bind fun r => (s.selectAt r launchPattern).map fun x => (r, x)

/-- The regions that a take looks at, of some: up to the first that gives a launch tuple. DEDUCED, log entry 52. -/
def State.looked (s : State) : List Nat → List Nat
  | [] => []
  | g :: l => g :: if (s.launchIn g).isSome then [] else s.looked l

/-- An uncorrectable error that the dispatcher's look at a region meets, with the kind of its package error: in the descriptor, or in
a Cloche way that the match reads (R237, R375). DEDUCED, log entry 50. -/
def State.regionHard (s : State) (region : Nat) : Option (Byte × Nat) :=
  if (s.descAt s.ddescs[s.dieTurn] region 0).isNone then some (1, region)
  else if (s.launchHome region).any fun r => s.matchHard r 1 then some (2, 0)
  else none

/-- The first uncorrectable error that a take meets, with the state that the looks up to it leave. -/
def State.launchHard (s : State) : List Nat → Option (State × Byte × Nat)
  | [] => none
  | g :: l => match s.regionHard g with
    | some (kind, pa) => some (s.lookAt g, kind, pa)
    | none => if ((s.lookAt g).launchIn g).isSome then none else (s.lookAt g).launchHard l

/-- Must the read of the image of a launch tuple wait (R220)? The checks before it need none. -/
def State.imageShut (s : State) (x : Stored) (fromSys : Bool) : Bool :=
  let l := launchOf x.tuple
  l.inRange && (fromSys || !l.sys) && (match s.loadImage l with
    | .error .wait => true
    | _ => false)

/-- Is a region the system LAUNCH region? -/
def State.fromSys (s : State) (region : Nat) : Bool := s.boot.any fun b => b.sysLaunch.toNat == region

/-- The state in which a head is looked for: the settings take effect (R214). -/
def State.withSettings (s : State) : State := { s with sched := s.schedSet }

/-- Must a take wait for the credit of what answers the dispatcher: a descriptor, a home or the image of the tuple that it would take
(R220)? -/
def State.takeShut (s : State) : Bool :=
  (s.looked s.launchRegions).any fun g =>
    s.descShut s.ddescs[s.dieTurn] g || ((s.launchHome g).any fun r => !s.homeOpen r) ||
      (s.launchIn g).any fun x => s.imageShut x.2 (s.fromSys g)

/-- The turn passes to the next dispatcher. -/
def State.passTurn (s : State) : State := { s with head := none, dieTurn := s.dieTurn + 1 }

/-- A launch that is refused: it is completed at once, its gang was never placed. -/
def State.refuse (s : State) (l : Launch) (status cause : Byte) (faddr : Word) : State :=
  (s.complete s.dieTurn l ⟨status, cause, 0, faddr, 0, 0, 0⟩ 0).passTurn

/-- A read of a dispatcher from `lo` on that fails: a fault refuses the launch, and what was read before it, and its walk, have
corrected the single-bit errors that they met; an uncorrectable error that no gang's access waits on is a fatal package error. A read
that waits changes nothing (R220, R236). DEDUCED, log entry 50. -/
def State.dispFail (s : State) (l : Launch) (lo : Nat) : DispErr → State
  | .wait => s
  | .fault c va => ((s.dispMeets l.asid lo (va.toNat - lo)).dispWalk l.asid va.toNat).refuse l stFault c va
  | .hard va n pa => (((s.dispMeets l.asid lo (va.toNat - lo)).dispMeet l.asid va.toNat n).refuse l stPkgErr cECCU
      (BitVec.ofNat 64 pa)).packageError 1 cECCU pa

/-- The checks of R210 on a tuple that was taken. -/
def State.launchCheck (s : State) (x : Stored) (fromSys : Bool) : State :=
  let l := launchOf x.tuple
  if !l.inRange then s.refuse l stBadLaunch 0 0
  else if l.sys && !fromSys then s.refuse l stRefused 0 0
  else match s.loadImage l with
    | .error e => s.dispFail l l.image.toNat e
    | .ok none => s.refuse l stBadImage 0 0
    | .ok (some m) => { s.dispMeets l.asid l.image.toNat (64 + 16 * m.actors.length + 16 * m.chans.length) with
        head := some ⟨x.tuple, l, m, x.since, s.effPri l.pri.toNat x.since, none, false⟩ }

/-- The regions that a take looks at: up to the first that holds a launch tuple, which it answers too.
DEDUCED, log entry 52. -/
def State.lookFor (s : State) : List Nat → State × Option (Nat × HomeReq × Stored)
  | [] => (s, none)
  | g :: l => match (s.lookAt g).launchIn g with
    | some x => (s.lookAt g, some (g, x))
    | none => (s.lookAt g).lookFor l

/-- LAUNCH_TAKE: the dispatcher whose turn it is takes the head, first from the system region; the settings take effect
(R214), by which the tuple is chosen; it waits before it takes one (R220). DEDUCED, log entry 52. -/
def launchTakeStep (s : State) : State :=
  let u := s.withSettings
  if !s.accepting || s.head.isSome || u.takeShut then s
  else match u.launchHard s.launchRegions with
    | some (t, kind, pa) => ({ t with sched := s.sched } : State).packageError kind cECCU pa
    | none => match u.lookFor s.launchRegions with
      | (t, none) => { t with sched := s.sched }
      | (t, some (g, r, x)) => (t.removeStored r.pkg r.q x.seq).launchCheck x (t.fromSys g)

/-- LAUNCH_TAKE (R208). -/
def execLaunchTake (s : State) : Out := .next (launchTakeStep s)

/-! ### Rectangles of quads (R211) -/

/-- A rectangle of quads that a gang holds. -/
structure Rect where
  gid : Nat
  x   : Nat
  y   : Nat
  w   : Nat
  h   : Nat
  deriving DecidableEq, Repr

/-- The rectangle of a gang. -/
def Gang.rect (g : Gang) : Rect := ⟨g.gid, g.qx, g.qy, g.launch.w, g.launch.h⟩

/-- Does a rectangle share a quad with one of size `w` × `h` at an origin? -/
def Rect.meets (r : Rect) (o : Nat × Nat) (w h : Nat) : Bool :=
  decide (r.x < o.1 + w) && decide (o.1 < r.x + r.w) && decide (r.y < o.2 + h) && decide (o.2 < r.y + r.h)

/-- The rectangles that gangs hold. -/
def State.held (s : State) : List Rect := (s.gangs.filter (·.onQuads)).map Gang.rect

/-- Does a rectangle lie within one die? -/
def oneDie (o : Nat × Nat) (w h : Nat) : Bool := o.1 / 8 == (o.1 + w - 1) / 8 && o.2 / 4 == (o.2 + h - 1) / 4

/-- The origins of a gang's size by rising qy, then qx. -/
def origins (w h : Nat) : List (Nat × Nat) :=
  (List.range (9 - h)).flatMap fun y => (List.range (17 - w)).map fun x => (x, y)

/-- The origins in the order of the search: those within one die first. -/
def searchOrder (w h : Nat) : List (Nat × Nat) :=
  ((origins w h).filter fun o => oneDie o w h) ++ ((origins w h).filter fun o => !oneDie o w h)

/-- The first origin whose rectangle is free and for which `ok` holds. -/
def findOriginIf (ok : Nat × Nat → Bool) (held : List Rect) (w h : Nat) : Option (Nat × Nat) :=
  (searchOrder w h).find? fun o => !held.any (·.meets o w h) && ok o

/-- The first origin whose rectangle is free. -/
def findOrigin (held : List Rect) (w h : Nat) : Option (Nat × Nat) := findOriginIf (fun _ => true) held w h

/-- The reserve that a slice would have for a gang that comes to it, whose own image leaves (R369). -/
def State.resvFor (s : State) (g : Gang) (q : SliceId) : Fin 5 :=
  if s.gangs.any (fun x => x.gid != g.gid && x.image.contains q) && decide (s.resv.val < 3) then 3 else s.resv

/-- Would a gang keep every scratch and Mitten way at an origin, where the image of another gang may take ways (R369), so that its
results there are those of a gang that was never stopped (R212, R371)? DEDUCED, log entry 54. -/
def State.keepsWays (s : State) (g : Gang) (o : Nat × Nat) : Bool :=
  let old := if g.phase = .saved then g.resvs else g.slices.map s.resvAt
  (old.zip ({ g with qx := o.1, qy := o.2 } : Gang).slices).all fun x => (List.range (16 - x.1.val)).all fun i =>
    decide (i < 16 - (s.resvFor g x.2).val) || (wayUse g.ways i != 1 && wayUse g.ways i != 2)

/-- The first origin for a saved gang. -/
def State.originFor (s : State) (held : List Rect) (g : Gang) : Option (Nat × Nat) :=
  findOriginIf (s.keepsWays g) held g.launch.w g.launch.h

/-- The free quads. -/
def freeCount (held : List Rect) : Nat := 128 - (held.map fun r => r.w * r.h).sum

/-- Where compaction moves one rectangle: the first free origin before its own for which `ok` holds, if there is one. -/
def compactOne (ok : Nat → Nat × Nat → Bool) (held : List Rect) (r : Rect) : Option (Nat × Nat) :=
  ((searchOrder r.w r.h).takeWhile (· != (r.x, r.y))).find? fun o =>
    !(held.filter (·.gid != r.gid)).any (·.meets o r.w r.h) && ok r.gid o

/-- Compaction: each rectangle in turn. Answers the moves and the rectangles after them. -/
def compact (ok : Nat → Nat × Nat → Bool) (held : List Rect) : List Rect → List (Nat × Nat × Nat) × List Rect
  | [] => ([], held)
  | r :: l => match compactOne ok held r with
    | none => compact ok held l
    | some o =>
      let (ms, h) := compact ok (held.map fun x => if x.gid = r.gid then { r with x := o.1, y := o.2 } else x) l
      ((r.gid, o.1, o.2) :: ms, h)

/-- The resident gangs by rising origin (qy, then qx). -/
def State.byOrigin (s : State) : List Rect :=
  (origins 1 1).flatMap fun o =>
    (s.gangs.filter fun g => g.onQuads && g.active && g.qx == o.1 && g.qy == o.2).map Gang.rect

/-- Would a gang of a number keep its ways at an origin? -/
def State.keepsAt (s : State) (gid : Nat) (o : Nat × Nat) : Bool := (s.gangOf gid).all (s.keepsWays · o)

/-- What compaction would do for a size that has no origin, where compaction is on and enough quads are free. -/
def State.compaction (s : State) (w h : Nat) : Option (List (Nat × Nat × Nat) × List Rect) :=
  if s.sched.compaction && decide (w * h ≤ freeCount s.held) then some (compact s.keepsAt s.held s.byOrigin) else none

/-- Does a search find an origin now, compaction included? -/
def State.fitsBy (s : State) (find : List Rect → Option (Nat × Nat)) (w h : Nat) : Bool :=
  (find s.held).isSome || (match s.compaction w h with
    | some (_, held) => (find held).isSome
    | none => false)

/-- Can a gang of a size be placed now, compaction included? -/
def State.fits (s : State) (w h : Nat) : Bool := s.fitsBy (findOrigin · w h) w h

/-- Can a saved gang be placed now, compaction included? -/
def State.fitsSaved (s : State) (g : Gang) : Bool := s.fitsBy (s.originFor · g) g.launch.w g.launch.h

/-- The moves of a compaction are ordered: the gangs stop. -/
def State.orderMoves (s : State) (ms : List (Nat × Nat × Nat)) : State :=
  ms.foldl (fun (s : State) m => match s.gangOf m.1 with
    | some g => s.setGang { g with order := some (.move m.2.1 m.2.2 s.tick) }
    | none => s) s

/-- Has no gang been told to stop? -/
def State.quiet (s : State) : Bool := s.gangs.all (·.order.isNone)

/-! ### Priorities (R215, R217) -/

/-- The saved gangs that can be restored. -/
def State.waiting (s : State) : List Gang := s.gangs.filter fun g => g.phase == .saved && g.doom.isNone

/-- Does a saved gang that fits go before the head? -/
def State.savedFirst (s : State) (h : Head) : Bool :=
  s.waiting.any fun g => decide (s.headPri h ≤ s.savedPri g) && s.fitsSaved g

/-! ### Placement (R213) -/

/-- A core of a new gang (R26): its reset state and the local-store image. -/
def newCore (gid gx gy tick : Nat) (ls : List Host.Cell) : Core :=
  { Core.reset with gang := some gid, gx := gx, gy := gy, first0 := true, ls := ls, issueMark := tick, lastIssue := tick }

/-- A new gang. -/
def newGang (s : State) (h : Head) (o : Nat × Nat) : Gang where
  gid      := s.nextGang
  launch   := h.launch
  img      := h.img
  phase    := .resident
  qx       := o.1
  qy       := o.2
  onQuads  := true
  dusked   := false
  order    := none
  ways     := 0
  census   := 0
  insts    := []
  edges    := []
  barCount := none
  barIn    := []
  doom     := none
  limit    := s.wdog
  placedAt := s.steps
  waitFrom := s.tick
  idleMark := s.tick
  cores    := []
  scratch  := []
  mcmds    := []
  resends  := []
  image    := []
  resvs    := []

/-- The places of a gang, row by row. -/
def Gang.places (g : Gang) : List (Nat × Nat) :=
  (List.range (2 * g.launch.h)).flatMap fun y => (List.range (2 * g.launch.w)).map fun x => (x, y)

/-- The head is placed at an origin: the local-store image is read, as it stands now, and every core starts. -/
def State.place (s : State) (h : Head) (o : Nat × Nat) : State :=
  let va := h.launch.image.toNat + h.img.lsoff
  let n := upTo h.img.lssize 64
  match s.dispBytes h.launch.asid va (n / 64) with
  | .error e => s.dispFail h.launch va e
  | .ok bytes =>
    let g := newGang s h o
    let ls := memWriteBytes [] 0 (bytes.take h.img.lssize)
    let t : State := { s with gangs := s.gangs ++ [g], nextGang := s.nextGang + 1 }
    let t := g.places.foldl (fun (t : State) p =>
      let c := g.coreAt p.1 p.2
      (t.lsRewrite c 0 524288).setCore c (newCore g.gid p.1 p.2 s.tick ls)) (t.dispMeets g.launch.asid va n)
    (g.coreIds.foldl (fun (t : State) c => t.stampCore c) t).passTurn

/-- GANG_PLACEMENT: the head at the origin that its decision chose, or at the first free one; where none is free,
compaction makes room. A saved gang that fits and has no lower priority goes first (R217). -/
def placementStep (s : State) : State :=
  match s.head with
  | none => s
  | some h =>
    let w := h.launch.w
    let n := h.launch.h
    if !s.accepting || !s.quiet then s
    else match h.rect with
      | some o => if s.held.any (·.meets o w n) then s else s.place h o
      | none =>
        if s.savedFirst h then s
        else match findOrigin s.held w n with
          | some o => s.place h o
          | none => match s.compaction w n with
            | some (ms, _) => s.orderMoves ms
            | none => s

/-- GANG_PLACEMENT (R213). -/
def execGangPlacement (s : State) : Out := .next (placementStep s)

/-! ### The decision (R216) -/

/-- Inserting a gang into the victim list: lowest priority first, among equals the most recently launched or restored
first. -/
def insertVictim (g : Gang) : List Gang → List Gang
  | [] => [g]
  | x :: l =>
    if g.launch.pri.toNat < x.launch.pri.toNat ∨ (g.launch.pri = x.launch.pri ∧ x.placedAt < g.placedAt) then g :: x :: l
    else x :: insertVictim g l

/-- The gangs that a decision may pre-empt. -/
def State.residents (s : State) : List Gang := s.gangs.filter fun g => g.onQuads && g.active

/-- Do the reserve ways of a gang's quads hold a save image? -/
def State.holdsImage (s : State) (g : Gang) : Bool := g.slices.any fun q => s.gangs.any (·.image.contains q)

/-- The victim list for a head of priority `p`. -/
def State.victims (s : State) (p : Nat) : List Gang :=
  (s.residents.filter fun g => decide (g.launch.pri.toNat + s.sched.margin.toNat ≤ p) && !s.holdsImage g).foldr insertVictim []

/-- The first rectangle that becomes free as victims are added one at a time: its origin and the victims so far. -/
def firstRoom (held : List Rect) (w h : Nat) (took : List Gang) : List Gang → Option ((Nat × Nat) × List Gang)
  | [] => none
  | g :: l =>
    let took := took ++ [g]
    match findOrigin (held.filter fun r => !took.any (·.gid == r.gid)) w h with
    | some o => some (o, took)
    | none => firstRoom held w h took l

/-- Has a compaction moves to make for a size? They come before the decision (R211, R216), and once they are made it is asked again.
DESIGN CHOICE, log entry 97. -/
def State.compacting (s : State) (w h : Nat) : Bool := (s.compaction w h).any fun x => !x.1.isEmpty

/-- What a decision for the head gives: the origin and the victims of step 4, or none where the dispatcher waits (R216). -/
def State.chooseRoom (s : State) (h : Head) : Option ((Nat × Nat) × List Gang) :=
  match (s.residents.map (·.launch.pri.toNat)).min? with
  | none => none
  | some q =>
    if s.headPri h < q + s.sched.margin.toNat then none
    else firstRoom s.held h.launch.w h.launch.h [] (s.victims (s.headPri h))

/-- PREEMPT_DECISION: where the head cannot be placed, compaction included, and no saved gang goes first, victims are told to stop
and be saved, exactly those that overlap the chosen rectangle; or the dispatcher waits until it is to decide anew.
DESIGN CHOICE, log entry 55. -/
def decisionStep (s : State) : State :=
  match s.head with
  | none => s
  | some h =>
    let w := h.launch.w
    let n := h.launch.h
    if !s.accepting || !s.quiet || h.rect.isSome || s.fits w n || s.compacting w n || s.savedFirst h ||
        (h.waits && h.aged == s.headPri h) then s
    else match s.chooseRoom h with
      | none => { s with head := some { h with aged := s.headPri h, waits := true } }
      | some (o, took) =>
        let t := (took.filter fun g => g.rect.meets o w n).foldl (fun (t : State) g =>
          t.setGang { g with order := some (.save s.tick) }) s
        { t with head := some { h with rect := some o } }

/-- PREEMPT_DECISION (R216). -/
def execPreemptDecision (s : State) : Out := .next (decisionStep s)

/-! ### Saving (R203, R367 to R369) -/

/-- May an access of a gang stay open across a save: an element that is merged in a window, a remote access that meets
an engine-owned tile, or a found tuple that does? DEDUCED, log entry 54. -/
def State.mayRest (s : State) (a : Access) : Bool :=
  a.window.isSome || (match a.phase with
    | .sent (.remote t addr) => (s.core t).owned addr a.n
    | .found _ => match a.req.lsDest with
      | some d => (s.core a.core).owned d 64
      | none => false
    | _ => false)

/-- Has a gang drained (R367)? -/
def State.gangDrained (s : State) (g : Gang) : Bool := s.flight.all fun a => a.gang != g.gid || s.mayRest a

/-- The interior sites of the shifts that wait for their edges are written; the destinations stay pending (R203). -/
def Core.writeInner (k : Core) : Core :=
  let t := k.haloPend.foldl (fun (t : Core) p => t.setElems p.dst (shapeOf p.shp).ty.width p.inner) k
  { t with haloPend := t.haloPend.map fun p => { p with inner := [] } }

/-- A core in a save image: the interior sites of its pending shifts written, what its marks counted, no cached line, translation
or descriptor, no transient byte. DEDUCED, log entry 54. -/
def Core.freeze (k : Core) (stop live : Nat) : Core :=
  { k.writeInner with
    issueMark := stop - k.issueMark
    lastIssue := stop - k.lastIssue
    readyMark := mapVec (fun m => m.map fun t => stop - t) k.readyMark
    l1 := [], tlb := [], tlb2 := [], cdesc := [], edesc := []
    ls := memClear k.ls live 524288 }

/-- A core that continues: its marks stand as many ticks back as they had counted. -/
def Core.thaw (k : Core) (tick : Nat) : Core :=
  { k with
    issueMark := tick - k.issueMark
    lastIssue := tick - k.lastIssue
    readyMark := mapVec (fun m => m.map fun t => tick - t) k.readyMark }

/-- The tick at which a gang was told to stop. -/
def Gang.stoppedAt (g : Gang) : Nat := match g.order with
  | some (.save t) => t
  | some (.move _ _ t) => t
  | none => 0

/-- The window elements of a gang that are still of the open epoch go into its image (R391). -/
def State.takeElems (s : State) (g : Nat) : List (Fin 4 × WElem) × Vector Win 4 :=
  let mine := fun (w : Win) => w.elems.filter fun e => e.gang == g && e.epoch == w.epoch
  (((List.range 4).map (Fin.ofNat 4)).flatMap fun w => (mine s.wins[w]).map fun e => (w, e),
    mapVec (fun w => Win.purge w g false) s.wins)

/-- Is a place a word of the ways of a slice that hold a save image? -/
def Site.inImage (l : List SliceId) : Site → Bool
  | .way q w => l.contains q && decide (13 ≤ w * 8 / 2 ^ 20)
  | _ => false

/-- An image is written to some slices, and no error stays in the ways that hold it (R236). -/
def State.clearImage (s : State) (l : List SliceId) : State := { s with upsets := s.upsets.filter fun u => !u.site.inImage l }

/-- A gang is saved: its cores, channels, edges, arrivals, marks, commands and ways leave its quads, and the slices write back the
superblocks and the dirty lines that stand in the ways of the image (R369). The scratch and Mitten contents, which the spec puts into
Gauntlet's reserved memory at no address of its own, stand in the gang, where no error of memory meets them (R242, R369).
DESIGN CHOICE, log entry 111. -/
def State.save (s : State) (g : Gang) : State :=
  let qs := g.slices
  let (es, ws) := s.takeElems g.gid
  let saved := { g with
    phase := .saved, onQuads := false, order := none, waitFrom := s.tick
    idleMark := g.stoppedAt - g.idleMark
    cores := g.coreIds.map fun c => (s.core c).freeze g.stoppedAt g.launch.live
    scratch := qs.map fun q => (s.slice q).way
    mcmds := qs.map fun q => (s.slice q).mcmds
    resends := es, image := qs, resvs := qs.map s.resvAt }
  let t := (s.freeQuads g).setGang saved
  let u := qs.foldl (fun (t : State) q => t.setSlice q { t.slice q with mcmds := [] }) t
  let v := u.sendHome fun x => qs.contains x.2.1 && decide (13 ≤ x.2.2)
  let w := (qs.filter fun q => decide ((s.resvAt q).val < 3)).foldl State.dropLines v
  ({ w with wins := ws } : State).clearImage qs

/-- Is every source actor of a core exhausted, and does no firing run or stand suspended there? -/
def Gang.coreQuiet (g : Gang) (k : Core) : Bool :=
  k.fire.isNone && k.susp.isNone &&
  (g.actorsAt k.gx k.gy).all fun x => !x.2.source || k.exhausted[x.2.slot]

/-- Does a gang reach Dusk now (R205), be it told to stop or not (R372)? -/
def State.duskReady (s : State) (g : Gang) : Bool :=
  g.phase == .resident && g.doom.isNone && g.census == 0 && g.coreIds.all fun c => g.coreQuiet (s.core c)

/-- Does a gang retire now (R206)? -/
def State.retires (s : State) (g : Gang) : Bool :=
  g.phase == .dusk && g.doom.isNone && g.census == 0 && !s.flight.any (·.gang == g.gid) &&
    !g.coreIds.any fun c => (s.core c).fire.isSome || (s.core c).susp.isSome

/-- Is a place a word of a scratch way of a slice, for the gang that holds its quad (R239)? -/
def State.inScratch (s : State) (g : Gang) (q : SliceId) : Site → Bool
  | .way z w => z == q && (waysOfUse (s.resvAt q) g.ways 1).contains (w * 8 / 2 ^ 20)
  | _ => false

/-- The address in the slice window of a word of a scratch way (R241). -/
def State.scratchVa (s : State) (g : Gang) (q : SliceId) : Site → Nat
  | .way _ w => 0x00FFFF8000000000 + g.quadNo q * 2 ^ 24 +
      (waysOfUse (s.resvAt q) g.ways 1).findIdx (· == w * 8 / 2 ^ 20) * 2 ^ 20 + w * 8 % 2 ^ 20
  | _ => 0

/-- An uncorrectable error that a save meets, as the end of its gang: in the live local store of a core, in a scratch way, or in a row
of a Mitten way (R237, R242, R308). DEDUCED, log entry 88. -/
def State.saveError (s : State) (g : Gang) : Option State :=
  match g.coreIds.findSome? fun c => (s.lsHard c 0 g.launch.live).map fun a => (c, a) with
  | some (c, a) => some (s.fatal g.gid cECCU 0 a c)
  | none =>
    match g.slices.findSome? fun q => (s.upsets.find? fun u => u.hard && s.inScratch g q u.site).map fun u => s.scratchVa g q u.site with
    | some va => some (s.doom g.gid ⟨stFault, cECCU, 0, BitVec.ofNat 64 va, 0, 0, 0⟩)
    | none => (g.slices.findSome? fun q => (s.badRow q (g.mitten (s.resvAt q)) 0 1024).map fun r => (q, r)).map fun x =>
        s.rowFault g x.1 x.2

/-- The single-bit errors that a save meets are corrected (R236, R242). -/
def State.saveCorrect (s : State) (g : Gang) : State :=
  let t := g.coreIds.foldl (fun (s : State) c => s.lsCorrect c 0 g.launch.live) s
  g.slices.foldl (fun (t : State) q => t.correctIf (some q) (s.inScratch g q)) t

/-- Have the ports of a gang's cores credit (R220)? -/
def State.coresOpen (s : State) (g : Gang) : Bool := s.buckets.isEmpty || g.coreIds.all fun c => s.portOpen (corePort c)

/-- Have the ports of some slices credit (R220)? -/
def State.slicesOpen (s : State) (l : List SliceId) : Bool := s.buckets.isEmpty || l.all fun q => s.portOpen (slicePort q)

/-- A gang that was told to stop, and has drained, is saved, unless it reaches Dusk or retires first (R372) or the save meets an
uncorrectable error (R237); the save waits for the credit of the ports of its cores and slices (R220, R369).
DEDUCED, log entry 88. DESIGN CHOICE, log entry 13. -/
def State.trySave (s : State) (g : Gang) : State :=
  if g.doom.isSome || !s.gangDrained g || s.duskReady g || s.retires g || !s.coresOpen g || !s.slicesOpen g.slices then s
  else
    let t := s.saveCorrect g
    match t.saveError g with
    | some u => u
    | none => t.save g

/-- GANG_PREEMPT (R367): a gang that was told to be saved. -/
def preemptStep (gid : Nat) (s : State) : State :=
  match s.gangOf gid with
  | some g => match g.order with
    | some (.save _) => s.trySave g
    | _ => s
  | none => s

/-- GANG_PREEMPT (R367). -/
def execGangPreempt (g : Nat) (s : State) : Out := .next (preemptStep g s)

/-- An image is read: the single-bit errors in it are corrected, each in the error log of its slice (R236, R371). -/
def State.imageRead (s : State) (g : Gang) : State :=
  g.image.foldl (fun (s : State) q => s.correctIf (some q) (Site.inImage [q])) s

/-- Does an uncorrectable error stand in the image of a gang? -/
def State.imageHard (s : State) (g : Gang) : Bool := s.upsets.any fun u => u.hard && u.site.inImage g.image

/-- The end of a gang whose image cannot be read (R237). The spec gives a reserve way no address, and 0 is reported.
DEDUCED, log entry 88. -/
def imageDoom : Doom := ⟨stFault, cECCU, 0, 0, 0, 0, 0⟩

/-- SAVE_IMAGE_MOVE (R216): an image moves to free reserves that can hold it, or ends its gang where it cannot be read (R237). It waits
for the credit of the ports of the slices that hold it (R220). -/
def execSaveImageMove (g : Nat) (dst : List SliceId) (s : State) : Out :=
  match s.gangOf g with
  | some x =>
    if x.phase = .saved ∧ dst.length = x.image.length ∧ distinct dst ∧ 3 ≤ s.resv.val ∧
        dst.all (fun q => !s.gangs.any (·.image.contains q)) ∧ s.slicesOpen x.image = true then
      .next (if s.imageHard x then (s.imageRead x).doom g imageDoom
        else ((s.imageRead x).setGang { x with image := dst }).clearImage dst)
    else .next s
  | none => .next s

/-! ### Restoring (R212, R217, R371) -/

/-- The core at the same place of a gang that now stands elsewhere. -/
def movedCore (g : Gang) (ox oy : Nat) (c : CoreId) : CoreId :=
  coreAt (CoreX c + 2 * ox + 64 - 2 * g.qx) (CoreY c + 2 * oy + 64 - 2 * g.qy)

/-- An access of a restored gang, at the cores where its gang now stands. -/
def Access.moved (a : Access) (g : Gang) (ox oy : Nat) : Access :=
  if a.gang = g.gid then
    { a with
      core := movedCore g ox oy a.core
      phase := match a.phase with
        | .sent (.remote t addr) => .sent (.remote (movedCore g ox oy t) addr)
        | p => p }
  else a

/-- The render slots that a core's commands hold. -/
def Core.slotsHeld (k : Core) : Nat := (k.eng.toList.filter (·.rslot)).length

/-- The render slots of a restored core move to its new die (R330). -/
def State.moveRslots (s : State) (c d : CoreId) (n : Nat) : State :=
  let a := s.rslots.set (coreDie c) (s.rslots[coreDie c] - n)
  { s with rslots := a.set (coreDie d) (a[coreDie d] + n) }

/-- A saved gang continues at an origin: ways is applied again, each core and its scratch and Mitten ways and commands come back from
the image, the TLBs of its quads start empty, and what was on its way follows the gang (R371). DEDUCED, log entry 54.
DESIGN CHOICE, log entry 111. -/
def State.restoreAt (s : State) (g : Gang) (o : Nat × Nat) : State :=
  let new := { g with
    phase := if g.dusked then .dusk else .resident
    onQuads := true, qx := o.1, qy := o.2, placedAt := s.steps, waitFrom := s.tick, ways := 0
    idleMark := s.tick - g.idleMark
    cores := [], scratch := [], mcmds := [], resends := [], image := [], resvs := [] }
  let s := (s.setGang new).repart new g.ways
  let s := s.mapSlices new.slices fun z => { z with tlb := [] }
  let s := (g.coreIds.zip (new.coreIds.zip g.cores)).foldl (fun (s : State) x =>
    ((s.moveRslots x.1 x.2.1 x.2.2.slotsHeld).lsRewrite x.2.1 0 524288).setCore x.2.1 (x.2.2.thaw s.tick)) s
  let s := (new.slices.zip (g.scratch.zip g.mcmds)).foldl (fun (s : State) x =>
    s.setSlice x.1 { s.slice x.1 with
      way := x.2.1
      mcmds := (s.slice x.1).mcmds ++ x.2.2.map fun (c : MCmd) => { c with core := movedCore g o.1 o.2 c.core } }) s
  let s : State := { s with flight := s.flight.map fun a => a.moved g o.1 o.2 }
  g.resends.foldl (fun (s : State) e =>
    ({ s with wins := s.wins.set e.1 { s.wins[e.1] with elems := s.wins[e.1].elems ++ [e.2] } } : State).closeEpoch e.1) s

/-- GANG_MOVE (R212): a gang that was told to move, and has drained, is saved and restored at its new origin. -/
def moveStep (gid : Nat) (s : State) : State :=
  match s.gangOf gid with
  | some g => match g.order with
    | some (.move x y _) =>
      let others := (s.held.filter (·.gid != gid)).any (·.meets (x, y) g.launch.w g.launch.h)
      let t := s.trySave g
      if others then s
      else match t.gangOf gid with
        | some h => if h.phase = .saved then t.restoreAt h (x, y) else t
        | none => t
    | _ => s
  | none => s

/-- GANG_MOVE (R212). -/
def execGangMove (g : Nat) (s : State) : Out := .next (moveStep g s)

/-- Does a saved gang `x` go before a saved gang `g`: by its effective priority, and among equals the one that was saved earlier, then
the lower gangid? DESIGN CHOICE, log entry 84. -/
def State.savedBefore (s : State) (x g : Gang) : Bool :=
  decide (s.savedPri g < s.savedPri x) || (s.savedPri g == s.savedPri x && (decide (x.waitFrom < g.waitFrom) ||
    (x.waitFrom == g.waitFrom && decide (x.gid < g.gid))))

/-- Must a saved gang wait: for the head, which fits and has a higher priority, or for which a decision has chosen a rectangle, or for
a saved gang that goes first and fits (R217)? DESIGN CHOICE, log entry 98. -/
def State.restoreHeld (s : State) (g : Gang) : Bool :=
  (match s.head with
    | some h => h.rect.isSome || (decide (s.savedPri g < s.headPri h) && s.fits h.launch.w h.launch.h)
    | none => false) ||
  s.waiting.any fun x => x.gid != g.gid && s.savedBefore x g && s.fitsSaved x

/-- A saved gang is read back and continues at an origin, or ends where its image cannot be read (R237, R371); the read waits for the
credit of the ports of the slices that hold the image (R220). -/
def State.readBack (s : State) (g : Gang) (o : Nat × Nat) : State :=
  if !s.slicesOpen g.image then s
  else if s.imageHard g then (s.imageRead g).doom g.gid imageDoom
  else ((s.imageRead g).restoreAt g o).wakeHead

/-- GANG_RESTORE (R217, R371): at the old origin where it is free, else at the first free one, of those where it keeps its ways. -/
def restoreStep (gid : Nat) (s : State) : State :=
  match s.gangOf gid with
  | none => s
  | some g =>
    if g.phase != .saved || g.doom.isSome || !s.accepting || !s.quiet || s.restoreHeld g then s
    else if !s.held.any (·.meets (g.qx, g.qy) g.launch.w g.launch.h) && s.keepsWays g (g.qx, g.qy) then s.readBack g (g.qx, g.qy)
    else match s.originFor s.held g with
      | some o => s.readBack g o
      | none => match s.compaction g.launch.w g.launch.h with
        | some (ms, _) => s.orderMoves ms
        | none => s

/-- GANG_RESTORE (R371). -/
def execGangRestore (g : Nat) (s : State) : Out := .next (restoreStep g s)

/-! ### Dusk and retirement (R205, R206) -/

/-- A Dusk firing begins on a core, with s0 = 0, be its actor number 0 or another (R25, R184, R206). DEDUCED, log entry 96. -/
def Core.duskFire (k : Core) (image : Word) (a : Actor) (fid tick : Nat) : Core :=
  { k.setS 0 0 with
    fire := some ⟨a.slot, .dusk, fid⟩
    pc := image + BitVec.ofNat 64 a.entry
    issueMark := tick }

/-- The Dusk actor fires on the cores of its rectangle; a value still on its way to s0 there is of no effect (R7, R25).
DEDUCED, log entry 63. -/
def State.fireDusk (s : State) (g : Gang) (a : Actor) : State :=
  g.places.foldl (fun (s : State) p =>
    if a.covers p.1 p.2 then
      let c := g.coreAt p.1 p.2
      let t := s.dropS0 c
      { t.setCore c ((t.core c).duskFire g.launch.image a s.nextId s.tick) with nextId := s.nextId + 1 }
    else s) s

/-- DUSK (R205, R206). -/
def duskStep (gid : Nat) (s : State) : State :=
  match s.gangOf gid with
  | none => s
  | some g =>
    if !s.duskReady g then s
    else
      let t := s.setGang { g with phase := .dusk, dusked := true }
      match g.img.dusk.bind (g.img.actors[·]?) with
      | some a => t.fireDusk g a
      | none => t

/-- DUSK (R205). -/
def execDusk (g : Nat) (s : State) : Out := .next (duskStep g s)

/-- GANG_RETIRE (R206): every Dusk firing has ended, the census is zero, and every load and atomic has returned. -/
def retireStep (gid : Nat) (s : State) : State :=
  match s.gangOf gid with
  | none => s
  | some g =>
    if !s.retires g then s
    else s.endGang g ⟨stOK, 0, 0, 0, 0, 0, 0⟩

/-- GANG_RETIRE (R206). -/
def execGangRetire (g : Nat) (s : State) : Out := .next (retireStep g s)

end Sys2Proof.Machine
end

