-- ==== Sys2Proof/Machine/Fabric.lean ====
section
/-!
DEFINITION. Sys2Proof/Machine/Fabric.lean: the Oluthen fabric: the folds of a reduction window and the end of its epochs
(R388 to R390), and the failures of links and switches (R387, R393).
-/

namespace Sys2Proof.Machine

open Sys2Proof

/-! ### Folding (R390) -/

/-- One step of a merge: an FP32 sum rounded with RNE, or a sum that wraps in 64 or in 32 bits. Its flags are discarded. -/
def mergeVal (op : Nat) (x y : BitVec 64) : BitVec 64 :=
  match op with
  | 0 => BitVec.ofNat 64 (atomNew .f32 8 (x.toNat % 2 ^ 32) y.toNat 0).1
  | 1 => x + y
  | _ => BitVec.ofNat 64 ((x.toNat + y.toNat) % 2 ^ 32)

/-- A share joins the sum of its address; the shares of one address come in the order of the fold. -/
def joinShare (op : Nat) (l : List Share) (x : Share) : List Share :=
  if l.any (·.addr == x.addr) then
    l.map fun y => if y.addr = x.addr then { y with val := mergeVal op y.val x.val } else y
  else l ++ [x]

/-- The sums of a list of shares, address by address. -/
def foldShares (op : Nat) (l : List Share) : List Share := l.foldl (joinShare op) []

/-- Replacing a window slot. -/
def State.setWin (s : State) (w : Fin 4) (x : Win) : State := { s with wins := s.wins.set w x }

/-- WINDOW_PACKAGE_FOLD (R389, R390): the elements of the oldest closed epoch are folded in arrival order and sent with
their epoch. -/
def packageFold (w : Fin 4) (s : State) : State :=
  let x := s.wins[w]
  match x.closed with
  | [] => s
  | e :: rest =>
    s.setWin w { x with
      closed := rest
      elems := x.elems.filter (·.epoch != e)
      leaf := x.leaf ++ [⟨e, s.pkg.toNat, foldShares x.op ((x.elems.filter (·.epoch == e)).map (·.share))⟩] }

/-- WINDOW_PACKAGE_FOLD (R390). -/
def execWindowPackageFold (w : Fin 4) (s : State) : Out := .next (packageFold w s)

/-- The member packages of a window, ascending: first to first + count − 1 (R388). -/
def Win.members (x : Win) : List Nat := (List.range x.memberCount).map fun i => getBits x.mem 0 12 + i

/-- The members below a leaf. -/
def Win.below (x : Win) (leaf : Nat) : List Nat := x.members.filter fun m => m / 64 == leaf

/-- The leaves with members, ascending. -/
def Win.leaves (x : Win) : List Nat := (List.range 129).filter fun l => !(x.below l).isEmpty

/-- The batch of an epoch from a source. -/
def batchOf (l : List Batch) (epoch src : Nat) : Option Batch := l.find? fun b => b.epoch == epoch && b.src == src

/-- Every window element of an epoch is refused at the leaf, with the fatal PROT fault: the member's slot differs from
the home's (R388). -/
def State.refuseElems (s : State) (w : Fin 4) (epoch : Nat) : State :=
  (s.flight.filter fun a => a.window == some (w, epoch)).foldl (fun s a => s.accessFault a ⟨cPROT, none⟩) s

/-- The shares that a leaf folds, in ascending port order: of this package, and of the others below it. -/
def leafShares (pkg : Nat) (mine : List Share) (others : List (Nat × List Share)) (members : List Nat) : List Share :=
  members.flatMap fun m => if m = pkg then mine else match others.find? (·.1 == m) with
    | some x => x.2
    | none => []

/-- LEAF_FOLD: the partial sums below a leaf, once every member there has closed. `others` are those of the other
packages, and `same` says whether this package's slot equals the home's. DESIGN CHOICE, log entry 59. -/
def leafFoldStep (w : Fin 4) (epoch leaf : Nat) (same : Bool) (others : List (Nat × List Share)) (s : State) : State :=
  let x := s.wins[w]
  let pkg := s.pkg.toNat
  let below := x.below leaf
  let here := below.contains pkg
  let mine := batchOf x.leaf epoch pkg
  if !x.en || below.isEmpty || others.map (·.1) != below.filter (· != pkg) || (here && mine.isNone) ||
      decide (epoch < x.doneTo) || x.merged.contains epoch || x.home.any (·.epoch == epoch) ||
      (batchOf x.spine epoch leaf).isSome then s
  else
    let t := if here && !same then s.refuseElems w epoch else s
    let own := match mine with
      | some b => if same then b.shares else []
      | none => []
    t.setWin w { x with
      leaf := if here then x.leaf.filter (·.epoch != epoch) else x.leaf
      spine := x.spine ++ [⟨epoch, leaf, foldShares x.op (leafShares pkg own others below)⟩] }

/-- LEAF_FOLD (R390). -/
def execLeafFold (w : Fin 4) (epoch leaf : Nat) (same : Bool) (others : List (Nat × List Share)) (s : State) : Out :=
  .next (leafFoldStep w epoch leaf same others s)

/-- SPINE_FOLD: the leaf partials, in ascending port order, once every leaf with members has delivered. -/
def spineFoldStep (w : Fin 4) (epoch : Nat) (s : State) : State :=
  let x := s.wins[w]
  let parts := x.leaves.map fun l => batchOf x.spine epoch l
  if parts.isEmpty || parts.any (·.isNone) then s
  else
    s.setWin w { x with
      spine := x.spine.filter (·.epoch != epoch)
      home := x.home ++ [⟨epoch, 0, foldShares x.op (parts.flatMap fun b => match b with
        | some b => b.shares
        | none => [])⟩] }

/-- SPINE_FOLD (R390). -/
def execSpineFold (w : Fin 4) (epoch : Nat) (s : State) : Out := .next (spineFoldStep w epoch s)

/-- The type and operation code of the RED that the home performs. -/
def Win.redOp (x : Win) : Nat × Ty := match x.op with
  | 0 => (8, .f32)
  | 1 => (0, .n64)
  | _ => (0, .n32)

/-- The home performs one merged value as one RED; its flags are discarded. -/
def State.homeRed (s : State) (op : Nat) (t : Ty) (x : Share) : State :=
  let n := t.width / 8
  s.physWrite x.key x.addr n (atomNew t op (s.physRead x.key x.addr n) x.val.toNat 0).1

/-- An uncorrectable error of this package's memory that the merged values of a batch meet; what the home in another package does
with one there is that package's. DEDUCED, log entry 50. -/
def State.mergeError (s : State) (b : Batch) : Option Share :=
  b.shares.find? fun y => paPkg y.addr == s.pkg.toNat && s.hardAt (s.writeSites y.key y.addr 1)

/-- The home reads the locations of the merged values of a batch: single-bit errors are corrected (R236). -/
def State.mergeMeets (s : State) (x : Win) (b : Batch) : State :=
  b.shares.foldl (fun (t : State) y => t.correctWrite y.key y.addr (x.redOp.2.width / 8)) s

/-- WINDOW_HOME_MERGE: the oldest batch on its way home is performed there. An uncorrectable error at a location, on
which no gang's access waits, is a fatal package error. DESIGN CHOICE, log entry 59. -/
def homeMerge (w : Fin 4) (s : State) : State :=
  let x := s.wins[w]
  match x.home with
  | [] => s
  | b :: rest =>
    match s.mergeError b with
    | some y => (s.mergeMeets x b).packageError 1 cECCU y.addr
    | none =>
      (b.shares.foldl (fun (t : State) y => (t.correctWrite y.key y.addr (x.redOp.2.width / 8)).homeRed x.redOp.1 x.redOp.2 y) s).setWin w
        { x with home := rest, merged := x.merged ++ [b.epoch] }

/-- WINDOW_HOME_MERGE (R390). -/
def execWindowHomeMerge (w : Fin 4) (s : State) : Out := .next (homeMerge w s)

/-- EPOCH_DONE: the home announces the next epoch done once its merged values have been performed; its elements are
acknowledged. -/
def epochDoneStep (w : Fin 4) (s : State) : State :=
  let x := s.wins[w]
  if !x.merged.contains x.doneTo then s
  else
    let t := s.setWin w { x with merged := x.merged.filter (· != x.doneTo), doneTo := x.doneTo + 1 }
    { t with flight := t.flight.map fun a =>
        if a.window = some (w, x.doneTo) then { a with phase := .done 0 0 } else a }

/-- EPOCH_DONE (R390). -/
def execEpochDone (w : Fin 4) (s : State) : Out := .next (epochDoneStep w s)

/-! ### Paths (R387) -/

/-- Do the paths of a window, which spans whole GiB and so every rail and spine, use a part of the fabric? -/
def State.windowUses (s : State) (uses : Nat → Nat → Nat × Nat → Bool) (x : Win) : Bool :=
  x.members.any fun m => allWays.any fun w => uses m x.homePkg w && !s.pathDown m x.homePkg w

/-- The package and the line to which an access goes: those of its location, or, for a Cloche request that has its descriptor and for
its answer, the package of its home. None while it stands at its core, waiting for its walk, and none where the L1 there has served
it. DEDUCED, log entry 59. -/
def Access.route (a : Access) : Option (Nat × Nat) :=
  match a.page with
  | none => none
  | some p =>
    let pa := p.pa a.va.toNat
    if a.walking || a.atL1 then none
    else match a.req with
      | .cloche _ _ d => some (dscPkg d, pa)
      | _ => if p.fill then none else some (paPkg pa, pa)

/-- Goes a CFLUSH to a line for which `hit` holds, among the `n` lines from an address on, as they are mapped now (R250)?
DEDUCED, log entry 59. -/
def State.flushHits (s : State) (a : Access) (hit : Nat → Nat → Bool) : Nat → Nat → Bool
  | 0, _ => false
  | n + 1, va =>
    (match s.pageOf a.core a.asid va with
      | .ok p => !p.fill && hit (paPkg (p.pa va)) (p.pa va)
      | .error _ => false) || s.flushHits a hit n (va + 128)

/-- Is an access, or its reply, on its way to or from a line and its package for which `hit` holds? An element of an epoch that has
been announced done is not (R390). -/
def State.reaches (s : State) (a : Access) (hit : Nat → Nat → Bool) : Bool :=
  !a.window.any s.epochDone && match a.req with
  | .flush len _ => s.flushHits a hit (flushSpan a.va.toNat len) (a.va.toNat / 128 * 128)
  | _ => a.route.any fun x => hit x.1 x.2

/-! ### Failures (R393) -/

/-- Has a gang sent elements into an epoch of a window that is not done, or counted a participation there? -/
def State.inEpoch (s : State) (g : Gang) (w : Fin 4) : Bool :=
  let open_ := fun (x : Fin 4 × Nat) => x.1 == w && !s.epochDone x
  let holds := fun (k : Core) => match k.hold with
    | some (.fence _ _ _ es) => es.any open_
    | _ => false
  s.flight.any (fun a => a.gang == g.gid && a.window.any open_) ||
  g.resends.any (fun e => open_ (e.1, e.2.epoch)) || g.cores.any holds || (g.onQuads && g.coreIds.any fun c => holds (s.core c))

/-- The end of a gang that spans a failure: status LINK, cause 0. -/
def linkDoom : Doom := ⟨stLink, 0, 0, 0, 0, 0, 0⟩

/-- A window whose paths failed: its epochs here are abandoned, and the slot is no longer enabled. -/
def Win.abandon (x : Win) : Win :=
  { x with
    cfg := x.cfg &&& ~~~1, epoch := x.epoch + 1, count := 0, elems := [], closed := [], leaf := [], spine := [], home := []
    merged := [], doneTo := x.epoch + 1 }

/-- The windows of this package that a failure hits. -/
def State.hitWins (s : State) (hit : Win → Bool) : List (Fin 4) :=
  ((List.range 4).map (Fin.ofNat 4)).filter fun w => s.wins[w].en && hit s.wins[w]

/-- Has a gang a parked request at a home in another package, or an answer held there, whose path uses a part of the fabric? -/
def State.parkedOver (s : State) (g : Nat) (uses : Nat → Nat → Nat × Nat → Bool) : Bool :=
  s.far.any fun x => x.sl.parked.any fun p => p.ofGang g && uses s.pkg.toNat x.pkg (s.wayOf s.pkg.toNat x.pkg p.region)

/-- A failure in the fabric, of a part that `uses` tells: every gang that spans it ends, the accesses on its paths are dropped with the
elements of the epochs that are not done, and its windows are abandoned. -/
def State.fabricFailure (s : State) (uses : Nat → Nat → Nat × Nat → Bool) : State :=
  let cut := fun (a : Access) => s.reaches a fun q pa => uses s.pkg.toNat q (s.wayOf s.pkg.toNat q pa)
  let ws := s.hitWins (s.windowUses uses)
  let spans := fun (g : Gang) => s.flight.any (fun a => a.gang == g.gid && cut a) || s.parkedOver g.gid uses ||
    ws.any fun w => s.inEpoch g w
  let t := (s.gangs.filter spans).foldl (fun (t : State) g => t.doom g.gid linkDoom) s
  let u : State := { t with flight := t.flight.filter fun a => !(cut a || (match a.window with
    | some x => ws.contains x.1 && !s.epochDone x
    | none => false)) }
  ws.foldl (fun (u : State) (w : Fin 4) => u.setWin w u.wins[w].abandon) u

/-- LINK_FAILURE (R393): a link that cannot retrain in time; from then on paths run around it. -/
def linkFail (l : FabricLink) (s : State) : State :=
  if s.linksDown.contains l then s
  else { s.fabricFailure (linkUsed l) with linksDown := s.linksDown ++ [l] }

/-- LINK_FAILURE (R393). -/
def execLinkFailure (l : FabricLink) (s : State) : Out := .next (linkFail l s)

/-- SWITCH_FAILURE (R393): a switch that stops answering its links. -/
def switchFail (x : FabricSwitch) (s : State) : State :=
  if s.deadSw.contains x then s
  else { s.fabricFailure (switchUsed x) with deadSw := s.deadSw ++ [x] }

/-- SWITCH_FAILURE (R393). -/
def execSwitchFailure (x : FabricSwitch) (s : State) : Out := .next (switchFail x s)

/-- LINK_RETRAIN (R393): a link that retrains within 2^20 cycles returns to service, and only time has passed; one that
does not has failed. -/
def execLinkRetrain (l : FabricLink) (within : Bool) (s : State) : Out :=
  if within then .next s else .next (linkFail l s)

/-- Is an access to host memory outstanding, whichever package's host it is? A Cloche request goes to a slice.
DEDUCED, log entry 59. -/
def State.toHost (s : State) (a : Access) : Bool := match a.req with
  | .cloche _ _ _ => false
  | _ => s.reaches a fun _ pa => paHost pa

/-- Is a parked request the host's? -/
def Park.ofHost (p : Park) : Bool := match p.asker with
  | .host _ _ => true
  | _ => false

/-- GLARIK_FAILURE (R393): every gang with a host-memory access outstanding ends, and the host's parked requests are
removed. -/
def execGlarikFailure (s : State) : Out :=
  if !s.glarikUp then .next s
  else
    let t := (s.gangs.filter fun g => s.flight.any fun a => a.gang == g.gid && s.toHost a).foldl
      (fun (t : State) g => t.doom g.gid linkDoom) s
    .next { t with
      glarikUp := false
      flight := t.flight.filter fun a => !s.toHost a
      slices := mapVec (fun z => { z with parked := z.parked.filter fun p => !p.ofHost }) t.slices
      far := t.far.map fun x => { x with sl := { x.sl with parked := x.sl.parked.filter fun p => !p.ofHost } } }

end Sys2Proof.Machine
end

