-- ==== Sys2Proof/Machine/Management.lean ====
section
/-!
DEFINITION. Sys2Proof/Machine/Management.lean: firmware and the management plane: settings (R214, R219, R366), scrubs (R236,
R237, R308, R309), Dawn (R207, R386, R395), power and cooling (R396), and the management bus and test port (R374, R397).
-/

namespace Sys2Proof.Machine

open Sys2Proof

/-! ### Settings -/

/-- An aging interval in its range: off, or 2^10 to 2^30 cycles. -/
def agingOk (n : Nat) : Bool := n == 0 || (decide (2 ^ 10 ≤ n) && decide (n ≤ 2 ^ 30))

/-- SCHED_SETTINGS_WRITE (R214): the settings wait for the next head. An interval outside its range becomes a value that
the spec does not state. DESIGN CHOICE, log entry 12. -/
def execSchedSettingsWrite (margin : Byte) (aging : Nat) (cap : Byte) (compaction : Bool) (s : State) : Out :=
  .next { s with schedSet := ⟨margin, if agingOk aging then aging else Config.offRange aging, cap, compaction⟩ }

/-- WDOG_LIMIT_WRITE (R366): 2^20 to 2^40 cycles, for gangs that are placed later. -/
def execWdogLimitWrite (limit : Nat) (s : State) : Out :=
  .next { s with wdog := if 2 ^ 20 ≤ limit ∧ limit ≤ 2 ^ 40 then limit else Config.offRange limit }

/-! ### Buckets (R219, R220, R396) -/

/-- The reset word of a bucket: depth and rate 0xFFFF, not enabled. -/
def bucketReset : Word := 0xFFFFFFFF

/-- The bucket of a port. -/
def State.bucket (s : State) (port : Nat) : Bucket := match s.buckets.find? (·.port == port) with
  | some b => b
  | none => ⟨port, bucketReset, 0xFFFF * 256⟩

/-- A control word as it is stored: a depth or a rate of 0 is stored as 1, reserved bits as 0. -/
def bucketStored (v : Word) : Word :=
  BitVec.ofNat 64 (max 1 (bucketDepth v) + max 1 (bucketRate v) * 2 ^ 16 + (bucketEn v).toNat * 2 ^ 32)

/-- BUCKET_CONTROL_WRITE (R219, R220): the credit starts at depth when en is set, and is otherwise kept, clamped. -/
def execBucketControlWrite (port : Nat) (v : Word) (s : State) : Out :=
  let old := s.bucket port
  let full := bucketDepth (bucketStored v) * 256
  let credit := if bucketEn v && !bucketEn old.word then full else min old.credit full
  .next { s with buckets := ⟨port, bucketStored v, credit⟩ :: s.buckets.filter (·.port != port) }

/-- THERMAL_THROTTLE (R396): every enabled bucket's rate becomes one sixteenth of its value. -/
def throttled (b : Bucket) : Bucket :=
  if bucketEn b.word then
    { b with word := BitVec.ofNat 64 (bucketDepth b.word + max 1 (bucketRate b.word / 16) * 2 ^ 16 + 2 ^ 32) }
  else b

/-- THERMAL_THROTTLE (R396). -/
def execThermalThrottle (s : State) : Out := .next { s with buckets := s.buckets.map throttled }

/-- THERMAL_SHUTDOWN (R396): a fatal package error, then the power is removed. DESIGN CHOICE, log entry 11. -/
def execThermalShutdown (s : State) : Out :=
  .next { s.packageError (BitVec.ofNat 8 Config.thermalReason.toNat) 0 0 with powered := false }

/-! ### Scrubs (R236, R237, R308, R309) -/

/-- The gang that holds a slice's quad. -/
def State.holder (s : State) (q : SliceId) : Option Gang := s.gangs.find? fun g => g.onQuads && g.slices.contains q

/-- The use of a way of a slice: 0 cache, 1 scratch, 2 Mitten, 3 Cloche. -/
def State.wayNow (s : State) (q : SliceId) (i : Nat) : Nat := match s.holder q with
  | some g => if i < 16 - (s.resvAt q).val then wayUse g.ways i else 0
  | none => 0

/-- Does a slice's scrub check the place of an error: a line whose home the slice is, or a way of it that is no Mitten
way? -/
def State.scrubs (s : State) (q : SliceId) (u : Site) : Bool :=
  match u with
  | .mem w => s.memHome (8 * w) == some q
  | .way z w => z == q && s.wayNow q (w * 8 / 2 ^ 20) != 2
  | .ls _ _ => false

/-- The places of the lines that an access at a place touches. -/
def Place.lineSites (pl : Place) (n : Nat) : List Site :=
  let words := fun (a : Nat) => wordsOf (a / 128 * 128) ((a + n + 127) / 128 * 128 - a / 128 * 128)
  match pl with
  | .phys pa _ => (words pa).map .mem
  | .scratch q a => (words a).map (.way q)
  | _ => []

/-- Does an access of a gang wait on the line of an error? Such an error is left to the access (R237). -/
def State.awaited (s : State) (u : Site) : Bool :=
  s.flight.any fun a => match a.phase with
    | .sent pl => (pl.lineSites a.n).contains u
    | _ => false

/-- Does a physical address lie in the backing area of a Cloche store (R277)? -/
def State.inBacking (s : State) (pa : Nat) : Bool :=
  paPkg pa == s.pkg.toNat && s.boot.any fun b => b.backing.any fun a => decide (a ≤ paOff pa) && decide (paOff pa < a + 2 ^ 22)

/-- The kind of package error that an uncorrectable error is: 2 in a Cloche store, be it in a way or in its backing area, else 1
(R277, R375, R376). DEDUCED, log entry 57. -/
def State.errorKind (s : State) (u : Site) : Byte :=
  match u with
  | .mem w => if s.inBacking (8 * w) then 2 else 1
  | .way q w => if s.wayNow q (w * 8 / 2 ^ 20) = 3 then 2 else 1
  | .ls _ _ => 1

/-- A slice reads some places of its own accord, in a scrub or to write lines back (R236, R237): single-bit errors are corrected and
counted; an uncorrectable error on which no access waits is written to the error log and is a fatal package error.
DEDUCED, log entry 57. -/
def State.sweep (s : State) (q : SliceId) (sites : List Site) : State :=
  let t := s.correct (some q) sites
  match t.upsets.find? fun u => u.hard && sites.contains u.site && !s.awaited u.site with
  | none => t
  | some u =>
    (t.setSlice q { t.slice q with errors := (t.slice q).errors + 1 }).packageError (t.errorKind u.site) cECCU u.site.pa

/-- SLICE_SCRUB (R236, R237): every line of the slice's cache, scratch and Cloche ways. DEDUCED, log entry 57. -/
def scrubStep (q : SliceId) (s : State) : State := s.sweep q ((s.upsets.map (·.site)).filter (s.scrubs q))

/-- SLICE_SCRUB (R236). -/
def execSliceScrub (q : SliceId) (s : State) : Out := .next (scrubStep q s)

/-- MITTEN_SCRUB (R308, R309): a row whose parity fails ends the gang that holds the quad, with the quad and the row. -/
def mittenScrubStep (q : SliceId) (s : State) : State :=
  match s.holder q with
  | none => s
  | some g => match s.badRow q (g.mitten (s.resvAt q)) 0 1024 with
    | none => s
    | some row => s.rowFault g q row

/-- MITTEN_SCRUB (R309). -/
def execMittenScrub (q : SliceId) (s : State) : Out := .next (mittenScrubStep q s)

/-! ### Dawn (R207, R386, R395) -/

/-- The descriptor of a LAUNCH region: match order PRIORITY, scope .sys, capacity 4,096. -/
def launchDesc (pkg : BitVec 12) (homes : BitVec 128) : Nat :=
  0xC10C + 1 * 2 ^ 16 + 4 * 2 ^ 19 + 4096 * 2 ^ 32 + pkg.toNat * 2 ^ 64 + homes.toNat * 2 ^ 128

/-- The information block. -/
def infoBlock (pkg : BitVec 12) (dawns : Nat) (b : DawnBoot) : Nat :=
  0x464E4950 + pkg.toNat * 2 ^ 32 + dawns % 2 ^ 64 * 2 ^ 64 + b.launch.toNat * 2 ^ 128 + b.launchVa.toNat * 2 ^ 192 +
    b.dump.toNat * 2 ^ 256 + b.dumpSize.toNat * 2 ^ 320

/-- The memory after training: this package's GDDR7 is zero, and no error stands there. DEDUCED, log entry 60. -/
def State.zeroed (s : State) (pkg : BitVec 12) : State :=
  let own := fun (a : Nat) => paPkg a == pkg.toNat && paGddr a
  { State.reset with
    mem := s.mem.filter fun c => !own c.1
    lineKeys := s.lineKeys.filter fun x => !own (128 * x.1)
    upsets := s.upsets.filter fun u => match u.site with
      | .mem w => !own (8 * w)
      | _ => false
    far := s.far
    tick := s.tick, steps := s.steps, cur := s.cur, agenda := s.agenda
    hostOut := s.hostOut, deadSw := s.deadSw, busPkg := s.busPkg
    pkg := pkg, dawns := s.dawns + 1 }

/-- The keys that Gauntlet loads: none where the debug fuse is blown (R238, R397). -/
def dawnXts (b : DawnBoot) : List (Fin 128 × XtsKey) := if b.fuse then [] else b.keys

/-- The key slots that pages may name: slot 0, which is plaintext, and those that are loaded. -/
def dawnKeys (b : DawnBoot) : BitVec 128 := (dawnXts b).foldl (fun (m : BitVec 128) x => m ||| BitVec.ofNat 128 (2 ^ x.1.val)) 1

/-- Steps 2 to 6 of Dawn. -/
def State.rise (s : State) (b : DawnBoot) : State :=
  let t := s.zeroed s.busPkg
  let t : State := { t with
    resv := b.resv, ptroot := b.ptroot &&& 0x000FFFFFFFFFF000, keys := dawnKeys b, xts := dawnXts b, boot := some b }
  let t := b.writes.foldl (fun (t : State) x => { t with mem := memWriteBytes t.mem x.1 x.2 }) t
  let t := t.physWrite 0 b.sysLaunch.toNat 64 (launchDesc t.pkg b.homes)
  let t := t.physWrite 0 b.launch.toNat 64 (launchDesc t.pkg b.homes)
  let t := t.physWrite 0 (t.pkg.toNat * 2 ^ 40 + 0x17FFFFF000) 64 (infoBlock t.pkg t.dawns b)
  { t with dawned := true, accepting := true }

/-- DAWN (R395): a failed self-check stops it, and no launch is taken. DEDUCED, log entry 3. -/
def execDawn (b : DawnBoot) (s : State) : Out :=
  .next (if b.selfCheck then s.rise b else { s with accepting := false, hostOut := s.hostOut ++ [.selfCheckFailed] })

/-! ### The management bus and the test port (R374, R397) -/

/-- SMBUS_ACCESS (R397): Bonnet reports telemetry, and the board sets the package number, which the next Dawn reads. -/
def execSmbusAccess (a : SmbusOp) (s : State) : Out :=
  match a with
  | .readTelemetry =>
    .next { s with hostOut := s.hostOut ++ [.telemetry (s.slices.toList.map (·.errors)).sum s.dropped] }
  | .setPackageNumber p => .next { s with busPkg := p }

/-- Is an access of Bonnet refused: to keys, to page-table roots, or to memory outside the region that Gauntlet fixed at Dawn?
Before Dawn no Bonnet runs. -/
def State.bonnetRefused (s : State) (a : BonnetAccess) : Bool :=
  s.boot.any fun b => match a with
    | .key _ | .root => true
    | .mem pa => !(paPkg pa == s.pkg.toNat && decide (b.bonnet.1 ≤ paOff pa) && decide (paOff pa < b.bonnet.1 + b.bonnet.2))

/-- BONNET_ACCESS_REFUSED (R374, R377): Gauntlet logs the access and restarts Bonnet; every setting and every gang stay
as they are. An access inside its region is not refused. -/
def execBonnetAccessRefused (a : BonnetAccess) (s : State) : Out :=
  .next (if s.bonnetRefused a then { s with refusals := s.refusals ++ [a] } else s)

/-- GDDR7_REFRESH (R236): not visible to programs. -/
def execGddr7Refresh (s : State) : Out := .next s

/-- BOUNDARY_SCAN (R397): boundary scan at the pins changes nothing inside. Internal scan chains open only when the debug
fuse is blown; the spec does not say what an access through them does. DESIGN CHOICE, log entry 66. -/
def execBoundaryScan (internal : Bool) (s : State) : Out :=
  if internal && s.boot.any (·.fuse) then .refused .internalScan else .next s

end Sys2Proof.Machine
end

