-- ==== Sys2Proof/Machine/Glarik.lean ====
section
/-!
DEFINITION. Sys2Proof/Machine/Glarik.lean: the host over the Glarik link: its Cloche requests (R291, R385), its reads and
writes through the aperture (R384), and the recall of a host line (R382).
-/

namespace Sys2Proof.Machine

open Sys2Proof

/-! ### Cloche requests (R385) -/

/-- The answer codes of the link. -/
inductive HostCode where
  | accepted | full | busy | parked | found | removed | none | bad
  deriving DecidableEq, Repr

/-- The number of an answer code. -/
def HostCode.no : HostCode → Fin 8
  | .accepted => 0
  | .full => 1
  | .busy => 2
  | .parked => 3
  | .found => 4
  | .removed => 5
  | .none => 6
  | .bad => 7

/-- The link answers a request. -/
def State.reply (s : State) (h : HostHdr) (c : HostCode) : State :=
  { s with hostOut := s.hostOut ++ [.answer h.reqid c.no] }

/-- Is it the address of the system LAUNCH region, which only Gauntlet can reach (R207)? -/
def State.sysRegion (s : State) (pa : Nat) : Bool := s.boot.any fun b => b.sysLaunch.toNat == pa

/-- May the host name a region: one in the pod that is not Gauntlet's? -/
def State.hostMay (s : State) (pa : Nat) : Bool := pa % 64 == 0 && s.paOk pa && !s.sysRegion pa

/-- The descriptor of the region that a request names, as the host side of the link has it (R273), where the region is well-formed. -/
def State.hostDesc (s : State) (h : HostHdr) : Option (BitVec 512) :=
  if s.hostMay h.region.toNat then (s.descAt s.hdescs h.region.toNat 0).filter s.dscOk else none

/-- The cache of the host side takes a descriptor that it does not hold. -/
def State.hostKeep (s : State) (pa : Nat) (d : BitVec 512) : State := { s with hdescs := keepDesc s.hdescs pa d }

/-- The host side reads a descriptor that its cache does not hold, where the request may name it: the single-bit errors of the block are
corrected (R236). -/
def State.hostMeets (s : State) (pa : Nat) : State := if s.hostMay pa then s.descMeets s.hdescs pa 0 else s

/-- Does the read of a descriptor meet an uncorrectable error? DEDUCED, log entry 50. -/
def State.hostHard (s : State) (pa : Nat) : Bool := s.hostMay pa && (s.descAt s.hdescs pa 0).isNone

/-- The home of a request, where none of its fields is malformed. -/
def State.hostHome (s : State) (h : HostHdr) (body : BitVec 512) : Option HomeReq :=
  match s.hostDesc h with
  | none => none
  | some d =>
    if (h.op == 3 || h.op == 4 || h.op == 5) && h.dest.toNat % 64 != 0 then none
    else some (homeReq h.region.toNat d (tupTag body))

/-- Does what the host sends wait at its end: is the link down, or has its port of the mesh no credit (R220, R393)? -/
def State.glarikHeld (s : State) : Bool := !s.glarikUp || !s.portOpen glarikPort

/-- Must a request wait: at the host's end of the link, or for the credit of what answers it, the descriptor or the home (R220)? -/
def State.hostWaits (s : State) (h : HostHdr) (body : BitVec 512) : Bool :=
  s.glarikHeld || (s.hostMay h.region.toNat && s.descShut s.hdescs h.region.toNat) ||
    (s.hostHome h body).any fun r => !s.homeOpen r

/-- A request of an operation at its home, or the answer "bad". The row of an operation has no effect where the header
names another one, or the request waits. -/
def hostRequest (op : BitVec 4) (h : HostHdr) (body : BitVec 512) (f : HomeReq → State → State) (s : State) : State :=
  let t := s.hostMeets h.region.toNat
  if h.op != op || s.hostWaits h body then s
  else if s.hostHard h.region.toNat then t.packageError 1 cECCU h.region.toNat
  else match s.hostHome h body with
    | none => t.reply h .bad
    | some r => f r (t.hostKeep r.region r.desc)

/-- A host request parks, or is answered "busy" (R280). -/
def State.hostPark (s : State) (h : HostHdr) (r : HomeReq) (kind : PKind) (body : BitVec 512) : State :=
  if (s.home2 r.pkg r.q).tableFree then
    (s.park r.pkg r.q ⟨0, r.region, kind, body, h.dest.toNat, r.desc, .host h.vector h.reqid, none, false⟩).reply h .parked
  else s.reply h .busy

/-- HOST_DEPOSIT (R281, R291, R385). -/
def execHostDeposit (h : HostHdr) (body : BitVec 512) (s : State) : Out :=
  .next (hostRequest 1 h body (fun r s => match s.offer r body with
    | some t => t.reply h .accepted
    | none => s.reply h .full) s)

/-- HOST_WAITING_DEPOSIT (R281, R291, R385). -/
def execHostWaitingDeposit (h : HostHdr) (body : BitVec 512) (s : State) : Out :=
  .next (hostRequest 2 h body (fun r s => match s.offer r body with
    | some t => t.reply h .accepted
    | none => s.hostPark h r .dep body) s)

/-- A take or a copy of the host examines its home. No gang's access waits on an uncorrectable error that it meets in a Cloche way,
which is a fatal package error (R237, R375). DEDUCED, log entry 50. -/
def hostMatch (r : HomeReq) (body : BitVec 512) (f : State → State) (s : State) : State :=
  if s.matchHard r (tupTag body) then (s.matchMeets r (tupTag body)).packageError 2 cECCU 0 else f (s.examineAt r (tupTag body))

/-- HOST_PARKED_TAKE (R282, R291, R385): a tuple that is found is delivered at once. -/
def execHostParkedTake (h : HostHdr) (body : BitVec 512) (s : State) : Out :=
  .next (hostRequest 3 h body (fun r => hostMatch r body fun s => match s.selectAt r body with
    | some x => ((s.removeStored r.pkg r.q x.seq).reply h .found).deliverHost h.dest.toNat x.tuple h.vector h.reqid
    | none => s.hostPark h r .take body) s)

/-- HOST_PARKED_COPY (R282, R291, R385). -/
def execHostParkedCopy (h : HostHdr) (body : BitVec 512) (s : State) : Out :=
  .next (hostRequest 4 h body (fun r => hostMatch r body fun s => match s.selectAt r body with
    | some x => (s.reply h .found).deliverHost h.dest.toNat x.tuple h.vector h.reqid
    | none => s.hostPark h r .copy body) s)

/-- Is a parked request the host's that a cancel names? -/
def Park.hostCancels (p : Park) (region dest tag : Nat) : Bool :=
  p.got.isNone && p.region == region && p.dest == dest && tupTag p.body == tag && (match p.asker with
    | .host _ _ => true
    | _ => false)

/-- HOST_CANCEL (R288, R291, R385): the oldest parked request of the host whose region, dest and tag match. -/
def execHostCancel (h : HostHdr) (body : BitVec 512) (s : State) : Out :=
  .next (hostRequest 5 h body (fun r s =>
    match (s.home2 r.pkg r.q).parked.find? (·.hostCancels r.region h.dest.toNat (tupTag body)) with
    | some p => (s.unpark r.pkg r.q p.id).reply h .removed
    | none => s.reply h .none) s)

/-- HOST_BAD_REQUEST (R385): an undefined operation, or malformed fields, with no effect. -/
def execHostBadRequest (h : HostHdr) (body : BitVec 512) (s : State) : Out :=
  let defined := decide (1 ≤ h.op.toNat) && decide (h.op.toNat ≤ 5)
  .next (if !s.hostWaits h body && !(defined && ((s.hostHome h body).isSome || s.hostHard h.region.toNat)) then
    (if defined then s.hostMeets h.region.toNat else s).reply h .bad else s)

/-! ### The aperture (R384) -/

/-- The ranges of package offsets that Gauntlet reserves: those that it names at Dawn, the 4 MiB backing area of each slice, and
Bonnet's region (R277, R374, R384). -/
def State.reservedRanges (s : State) : List (Nat × Nat) := match s.boot with
  | some b => b.reserved ++ b.backing.map (fun a => (a, 2 ^ 22)) ++ [b.bonnet]
  | none => []

/-- Does a range of package offsets touch a range that Gauntlet reserves? -/
def State.reserved (s : State) (off n : Nat) : Bool :=
  s.reservedRanges.any fun r => decide (off < r.1 + r.2) && decide (r.1 < off + n)

/-- May the host reach a range of offsets? DEDUCED, log entry 53. -/
def State.apertureOk (s : State) (off n : Nat) : Bool := decide (off + n ≤ 0x1800000000) && !s.reserved off n

/-- The physical address of an offset of this package. -/
def State.ownPa (s : State) (off : Nat) : Nat := s.pkg.toNat * 2 ^ 40 + off

/-- HOST_MEMORY_READ (R384): performed at the home slice, once that has credit for its answer (R220). DEDUCED, log entry 50. DEDUCED, log entry 53. -/
def execHostMemoryRead (off n : Nat) (s : State) : Out :=
  let pa := s.ownPa off
  .next (
    if s.glarikHeld then s
    else if !s.apertureOk off n then { s with hostOut := s.hostOut ++ [.error] }
    else if !s.memOpen pa n then s
    else
      let t := s.correctMem 0 pa n
      if s.hardAt (s.readSites 0 pa n) then t.packageError 1 cECCU pa
      else { t with hostOut := t.hostOut ++ [.data ((List.range n).map fun i => t.physByte 0 (pa + i))] })

/-- Writing bytes at a physical address. -/
def State.physBytes (s : State) (pa : Nat) (data : List Byte) : State :=
  let t := s.claim 0 pa data.length
  { t with mem := memWriteBytes t.mem pa data }

/-- HOST_MEMORY_WRITE (R384): performed at the home slice, once that has credit (R220), then acknowledged. DEDUCED, log entry 50. -/
def execHostMemoryWrite (off : Nat) (data : List Byte) (s : State) : Out :=
  .next (
    if s.glarikHeld then s
    else if !s.apertureOk off data.length then { s with hostOut := s.hostOut ++ [.error] }
    else if !s.memOpen (s.ownPa off) data.length then s
    else
      let t := s.correctWrite 0 (s.ownPa off) data.length
      if s.hardAt (s.writeSites 0 (s.ownPa off) data.length) then t.packageError 1 cECCU (s.ownPa off)
      else
        let u := t.physBytes (s.ownPa off) data
        { u with hostOut := u.hostOut ++ [.ack] })

/-- The slice that keeps a line of this package's memory writes it back, and meets the errors in it (R236, R237, R382). -/
def State.recallLine (s : State) (pa : Nat) : State :=
  match s.memHome pa with
  | some q => s.sweep q ((wordsOf (pa / 128 * 128) 128).map .mem)
  | none => s

/-- HOST_LINE_RECALL (R382): the slice writes the line back and drops it, then the host's own write to its memory
completes. It waits for the credit of the link's port and of the slice's (R220). -/
def execHostLineRecall (pa : Nat) (data : List Byte) (s : State) : Out :=
  .next (if s.portOpen glarikPort && paPkg pa == s.pkg.toNat && paHost pa && decide (pa % 128 + data.length ≤ 128) &&
      s.memOpen (pa / 128 * 128) 128 then (s.recallLine pa).physBytes pa data else s)

end Sys2Proof.Machine
end

