-- ==== Sys2Proof/Machine/LocalStore.lean ====
section
/-!
DEFINITION. Sys2Proof/Machine/LocalStore.lean: the meanings of class 0x4 (R116, R129 to R132): the scalar and plane loads
and stores of the local store, and those of the mask registers.
-/

namespace Sys2Proof.Machine

open Sys2Proof

/-! ### Scalar accesses (R116) -/

/-- A scalar local-store access: the type, then the address, then the wait for its tile (R21).
DEDUCED, log entry 70. -/
def lsAccess (t : Ty) (a : Word) (f : Core → Core) (s : State) : Act :=
  if !t.isScalar then illfmt 5
  else if !lsOk a.toNat (t.width / 8) then .trap cALIGN a
  else s.lsThen [(a.toNat, t.width / 8)] fun s => .go (s.setMe (f s.me))

/-- LDL (R116): float types move as bits. A sum beyond 2^64 is taken as the pseudocode takes it, by its low 64 bits.
DEDUCED, log entry 94. -/
def execLdl (h : Hdr) (o : Ops) (s : State) : Out :=
  issue h o noPre (fun s =>
    let t := o.ty 0
    let a := addOff (s.me.word o.o1 0) o.imm
    lsAccess t a (fun k => k.setInt o.o0 (t.val (k.lsRead a.toNat (t.width / 8)))) s) s

/-- STL (R116). DEDUCED, log entry 94. -/
def execStl (h : Hdr) (o : Ops) (s : State) : Out :=
  issue h o noPre (fun s =>
    let t := o.ty 0
    let a := addOff (s.me.word o.o0 0) o.imm
    lsAccess t a (fun k => k.lsWrite a.toNat (t.width / 8) (k.word o.o1 0).toNat) s) s

/-! ### Plane accesses (R129 to R131) -/

/-- The place of a plane in the local store: shape, layout, base, stride and scale base (R130). -/
structure PlaneMap where
  h     : Shape
  split : Bool
  base  : Nat
  st    : Nat
  sbase : Nat
  deriving DecidableEq, Repr

/-- Scale bytes per block (R85). -/
def Shape.scaleBytes (h : Shape) : Nat := if h.ty.isBx then 2 else 1

/-- Bytes of an interleaved block (R85). -/
def Shape.blockBytes (h : Shape) : Nat := h.scaleBytes + 4 * h.ty.width

/-- Are scales and elements interleaved? -/
def PlaneMap.inter (p : PlaneMap) : Bool := p.h.scaled && !p.split

/-- Bytes from one row to the next in the interleaved layout. -/
def PlaneMap.step (p : PlaneMap) : Nat := if p.st = 0 then p.h.cols / 32 * p.h.blockBytes else p.st

/-- The address of block `b` in the interleaved layout. -/
def PlaneMap.blockAt (p : PlaneMap) (b : Nat) : Nat :=
  p.base + b / (p.h.cols / 32) * p.step + b % (p.h.cols / 32) * p.h.blockBytes

/-- The bit address of element `i` (R130). -/
def PlaneMap.bit (p : PlaneMap) (i : Nat) : Nat :=
  let w := p.h.ty.width
  let c := i % p.h.cols
  if p.inter then 8 * (p.blockAt (p.h.block i) + p.h.scaleBytes) + c % 32 * w
  else if p.st = 0 then 8 * p.base + i * w
  else 8 * (p.base + i / p.h.cols * p.st) + c * w

/-- The address of the scale of block `b` (R130). -/
def PlaneMap.scaleAt (p : PlaneMap) (b : Nat) : Nat :=
  if p.inter then p.blockAt b else p.sbase + b * p.h.scaleBytes

/-- The blocks of a scaled plane; none for an unscaled one. -/
def PlaneMap.blocks (p : PlaneMap) : List Nat := if p.h.scaled then List.range (p.h.n / 32) else []

/-- The first byte of an element and the byte after its last one. -/
def PlaneMap.bytes (p : PlaneMap) (i : Nat) : Nat × Nat := (p.bit i / 8, (p.bit i + p.h.ty.width - 1) / 8 + 1)

/-- The address of the first element or scale region that leaves the local store (R131). DEDUCED, log entry 22. -/
def PlaneMap.outside (p : PlaneMap) : Option Nat :=
  let e := ((List.range p.h.n).find? fun i => decide (0x80000 < (p.bytes i).2)).map fun i => (p.bytes i).1
  let c := (p.blocks.find? fun b => decide (0x80000 < p.scaleAt b + p.h.scaleBytes)).map p.scaleAt
  match e, c with
  | some x, some y => some (min x y)
  | some x, none => some x
  | none, c => c

/-- The byte ranges that the access touches, and for which it stalls (R21): those of every element, active or not, as R131 says of
the range check. DESIGN CHOICE, log entry 71. -/
def PlaneMap.spans (p : PlaneMap) : List (Nat × Nat) :=
  let rowBytes := if p.inter then p.h.cols / 32 * p.h.blockBytes else p.h.cols * p.h.ty.width / 8
  let body := if !p.inter && p.st == 0 then [(p.base, (p.h.n * p.h.ty.width + 7) / 8)]
    else (List.range p.h.rows).map fun r => (p.base + r * (if p.inter then p.step else p.st), rowBytes)
  if p.h.scaled && p.split then body ++ [(p.sbase, p.h.n / 32 * p.h.scaleBytes)] else body

/-- The checks of R131: the shape against the modifier, stride and mask; alignment; range. `pv` is the number of the
plane's operand byte. DEDUCED, log entry 22. -/
def PlaneMap.check (p : PlaneMap) (pv : Nat) (mall : Bool) : Option (Byte × Word) :=
  let al := max (p.h.ty.width / 8) 1
  if p.st ≠ 0 ∧ p.h.cols * p.h.ty.width % 8 ≠ 0 then some (cILLFMT, BitVec.ofNat 64 pv)
  else if p.split ∧ p.h.scaled = false then some (cILLFMT, BitVec.ofNat 64 pv)
  else if p.h.scaled ∧ mall = false then some (cILLFMT, 3)
  else if p.h.scaled = false ∧ (p.base % al ≠ 0 ∨ p.st % al ≠ 0) then some (cALIGN, BitVec.ofNat 64 p.base)
  else if p.split ∧ p.h.ty.isBx ∧ p.sbase % 2 ≠ 0 then some (cALIGN, BitVec.ofNat 64 p.sbase)
  else match p.outside with
    | some a => some (cALIGN, BitVec.ofNat 64 a)
    | none => none

/-- `w` bits at a bit address of the local store; an element narrower than a byte lies inside one. -/
def Core.lsBits (k : Core) (bit w : Nat) : Nat := k.lsRead (bit / 8) ((w + 7) / 8) / 2 ^ (bit % 8) % 2 ^ w

/-- Writing `w` bits at a bit address; an element narrower than a byte is merged into its byte (R130). -/
def Core.lsPutBits (k : Core) (bit w x : Nat) : Core :=
  let old := k.lsRead (bit / 8) ((w + 7) / 8)
  let sh := 2 ^ (bit % 8)
  k.lsWrite (bit / 8) ((w + 7) / 8) (old - old / sh % 2 ^ w * sh + x % 2 ^ w * sh)

/-- VLD's effect (R130): the active elements, and for a scaled shape every block's scale. -/
def Core.planeLoad (k : Core) (v : Fin 32) (p : PlaneMap) (m : BitVec 8192) : Core :=
  let w := p.h.ty.width
  let k' := k.setElems v w ((active m p.h.n).map fun i => (i, k.lsBits (p.bit i) w))
  if p.h.scaled then
    let sb := p.h.scaleBytes
    k'.setStrip v (p.blocks.flatMap fun b => (List.range sb).map fun j => (sb * b + j, k.lsRead (p.scaleAt b + j) 1))
  else k'

/-- VST's effect (R130): the elements in ascending index order, then the scales. -/
def Core.planeStore (k : Core) (v : Fin 32) (p : PlaneMap) (m : BitVec 8192) : Core :=
  let w := p.h.ty.width
  let k' := (active m p.h.n).foldl (fun c i => c.lsPutBits (p.bit i) w (k.elem v w i)) k
  let sb := p.h.scaleBytes
  p.blocks.foldl (fun c b => c.lsWrite (p.scaleAt b) sb (getBits k.strip[v] (8 * (sb * b)) (8 * sb))) k'

/-- The place that VLD and VST name: `vp` is the plane, `bp` the base, and op2 the stride. -/
def Core.place (k : Core) (o : Ops) (vp bp : Operand) : PlaneMap where
  h     := k.shapeO vp
  split := o.bit 5
  base  := (addOff (k.word bp 0) o.imm).toNat
  st    := (k.word o.o2 0).toNat
  sbase := (k.word o.o4 0).toNat

/-- A plane access: the checks of R131, then the wait for its tiles (R21), then the effect.
DESIGN CHOICE, log entry 71. -/
def planeAccess (o : Ops) (vp bp : Operand) (pv : Nat) (f : Core → PlaneMap → Core) (s : State) : Act :=
  let p := s.me.place o vp bp
  match p.check pv (o.o3 == .m 7) with
  | some (cause, val) => .trap cause val
  | none => s.lsThen p.spans fun s => .go (s.setMe (f s.me p))

/-- VLD (R130). -/
def execVld (h : Hdr) (o : Ops) (s : State) : Out :=
  issue h o noPre (planeAccess o o.o0 o.o1 0 fun k p => k.planeLoad o.o0.planeNo p (k.mask o.o3)) s

/-- VST (R130). -/
def execVst (h : Hdr) (o : Ops) (s : State) : Out :=
  issue h o noPre (planeAccess o o.o1 o.o0 1 fun k p => k.planeStore o.o1.planeNo p (k.mask o.o3)) s

/-! ### Mask accesses (R132) -/

/-- A mask access of `nc` bits from `base` on: nothing for `nc = 0`, ALIGN outside the local store, the wait of R21,
then the effect. -/
def maskAccess (o : Ops) (bp : Operand) (f : Core → Nat → Nat → Core) (s : State) : Act :=
  let base := (addOff (s.me.word bp 0) o.imm).toNat
  let nc := min (s.me.word o.o2 0).toNat 8192
  let nb := (nc + 7) / 8
  if nc = 0 then .go (s.setMe (f s.me base 0))
  else if 0x80000 < base + nb then .trap cALIGN (BitVec.ofNat 64 base)
  else s.lsThen [(base, nb)] fun s => .go (s.setMe (f s.me base nc))

/-- VLDM (R132). -/
def execVldm (h : Hdr) (o : Ops) (s : State) : Out :=
  issue h o noPre (maskAccess o o.o1 fun k base nc =>
    k.setMask o.o0 (BitVec.ofNat 8192 (k.lsRead base ((nc + 7) / 8) % 2 ^ nc))) s

/-- VSTM (R132). -/
def execVstm (h : Hdr) (o : Ops) (s : State) : Out :=
  issue h o noPre (maskAccess o o.o0 fun k base nc =>
    k.lsWrite base ((nc + 7) / 8) ((k.mask o.o1).toNat % 2 ^ nc)) s

end Sys2Proof.Machine
end

