-- ==== Sys2Proof/Machine/ScalarFloat.lean ====
section
/-!
DEFINITION. Sys2Proof/Machine/ScalarFloat.lean: the meanings of class 0x2 (R109 to R112).
-/

namespace Sys2Proof.Machine

open Sys2Proof

/-- A class 0x2 instruction: a scalar float type, or ILLFMT 5 (R109); `f` is the effect on the core. -/
def fltBody (o : Ops) (f : Core → Ty → Core) (s : State) : Act :=
  if (o.ty 0).isScalarFloat then .go (s.setMe (f s.me (o.ty 0))) else illfmt 5

/-- An instruction that also names a second type of a kind, or ILLFMT 5 (R109). -/
def fltBody2 (o : Ops) (ok : Ty → Bool) (f : Core → Ty → Ty → Core) (s : State) : Act :=
  if (o.ty 0).isScalarFloat && ok (o.ty 9) then .go (s.setMe (f s.me (o.ty 0) (o.ty 9))) else illfmt 5

/-- Rounding a result into a destination: the draw, the flags and the encoding, zero-extended (R88, R92, R110). -/
def Core.roundInto (k : Core) (o : Ops) (t : Ty) (x : XRes) : Core :=
  let (b, st) := roundRes (k.scalarCtx o) t x k.rst
  (k.merge st).setWord o.o0 (BitVec.ofNat 64 b)

/-- Does the instruction round under RD, which gives an exact zero sum its sign (R91)? -/
def Core.roundsDown (k : Core) (o : Ops) : Bool := (k.scalarCtx o).mode == .rd

/-- One operation on one or two float values, rounded once (R111). -/
def fltOp (o : Ops) (g : Core → XVal → XVal → XRes) : State → Act :=
  fltBody o fun k t => k.roundInto o t (g k (k.fltOf t o.o1 o) (k.fltOf t o.o2 o))

/-- The exact value of `a * b + c` with its flags. DEDUCED, log entry 16. -/
def fmaRes (rd : Bool) (a b c : XVal) : XRes :=
  let p := a.mul b
  let r := XVal.add rd p.1 c
  (r.1, p.2 ||| r.2)

/-- FADD (R111). -/
def execFadd (h : Hdr) (o : Ops) (s : State) : Out :=
  issue h o noPre (fltOp o fun k a b => XVal.add (k.roundsDown o) a b) s
/-- FSUB (R111). -/
def execFsub (h : Hdr) (o : Ops) (s : State) : Out :=
  issue h o noPre (fltOp o fun k a b => XVal.add (k.roundsDown o) a b.negate) s
/-- FMUL (R111). -/
def execFmul (h : Hdr) (o : Ops) (s : State) : Out := issue h o noPre (fltOp o fun _ a b => a.mul b) s
/-- FDIV (R111). -/
def execFdiv (h : Hdr) (o : Ops) (s : State) : Out := issue h o noPre (fltOp o fun _ a b => a.div b) s
/-- FSQRT (R111). -/
def execFsqrt (h : Hdr) (o : Ops) (s : State) : Out := issue h o noPre (fltOp o fun _ a _ => a.sqrt) s
/-- FMA (R111): one rounding. -/
def execFma (h : Hdr) (o : Ops) (s : State) : Out :=
  issue h o noPre (fltOp o fun k a b => fmaRes (k.roundsDown o) a b (k.fltOf (o.ty 0) o.o3 o)) s

/-! ### Exact operations (R93, R112) -/

/-- The encoding of an immediate or register operand of type `t`: for FP64 an immediate is the widened FP32 (R110). -/
def Core.fltEnc (k : Core) (t : Ty) (x : Operand) (o : Ops) : Nat :=
  if x = .imm ∧ t = .f64 then (fmt64.round false false .rne 0 (Ty.f32.decodeF false o.imm.toNat)).1
  else k.fltBits t x o

/-- The encoding that FMIN or FMAX answers: the operand chosen, or the canonical NaN (R81, R93). -/
def minmaxEnc (t : Ty) (mx : Bool) (ea eb : Nat) (a b : XVal) : Nat :=
  if a.isNaN || b.isNaN then (t.ffmt.bind (·.nan)).getD 0
  else if mx then (if a.lt b then eb else ea)
  else if b.lt a then eb else ea

/-- FMIN and FMAX (R93). -/
def minmaxBody (o : Ops) (mx : Bool) : State → Act :=
  fltBody o fun k t => k.setWord o.o0 (BitVec.ofNat 64
    (minmaxEnc t mx (k.fltEnc t o.o1 o) (k.fltEnc t o.o2 o) (k.fltOf t o.o1 o) (k.fltOf t o.o2 o)))

/-- FMIN (R93). -/
def execFmin (h : Hdr) (o : Ops) (s : State) : Out := issue h o noPre (minmaxBody o false) s
/-- FMAX (R93). -/
def execFmax (h : Hdr) (o : Ops) (s : State) : Out := issue h o noPre (minmaxBody o true) s

/-- The sign bit of a type's encoding. -/
def Ty.signMask (t : Ty) : Nat := 2 ^ (t.width - 1)

/-- FABS (R111): the sign bit cleared. -/
def execFabs (h : Hdr) (o : Ops) (s : State) : Out :=
  issue h o noPre (fltBody o fun k t => k.setWord o.o0 (BitVec.ofNat 64 (k.fltBits t o.o1 o % Ty.signMask t))) s
/-- FNEG (R111): the sign bit inverted. -/
def execFneg (h : Hdr) (o : Ops) (s : State) : Out :=
  issue h o noPre (fltBody o fun k t => k.setWord o.o0 (BitVec.ofNat 64 (k.fltBits t o.o1 o ^^^ Ty.signMask t))) s
/-- FCMP (R112): raises no flag. -/
def execFcmp (h : Hdr) (o : Ops) (s : State) : Out :=
  issue h o noPre (fltBody o fun k t => k.setPred o.o0 (ccFloat (o.mod 9 3) (k.fltOf t o.o1 o) (k.fltOf t o.o2 o))) s

/-! ### Conversions (R94, R109) -/

/-- FCVT: type2 is the source, the type field the destination. -/
def execFcvt (h : Hdr) (o : Ops) (s : State) : Out :=
  issue h o noPre (fltBody2 o Ty.isScalarFloat fun k t t2 => k.roundInto o t (k.fltOf t2 o.o1 o, 0)) s

/-- FCVTI: the type field is the source, type2 the integer destination, always saturating; the result is written by
R99. -/
def execFcvti (h : Hdr) (o : Ops) (s : State) : Out :=
  issue h o noPre (fltBody2 o Ty.isInt fun k t t2 =>
    let (b, st) := roundTo (k.scalarCtx o) t2 (k.fltOf t o.o1 o) k.rst
    (k.merge st).setInt o.o0 (t2.val b)) s

/-- ICVTF: type2 is the integer source. -/
def execIcvtf (h : Hdr) (o : Ops) (s : State) : Out :=
  issue h o noPre (fltBody2 o Ty.isInt fun k t t2 => k.roundInto o t (XVal.ofInt (k.valOf t2 o.o1 0), 0)) s

/-- The bit of FCLASS for an encoding of a format (R111). -/
def FFmt.classBit (f : FFmt) (x : Nat) : Nat :=
  let neg := f.signBit x
  let m := f.magBits x
  if f.largest + 1 < m then 8
  else if m = f.largest + 1 then (if neg then 0 else 7)
  else if m = 0 then (if neg then 3 else 4)
  else if m < 2 ^ f.frac then (if neg then 2 else 5)
  else if neg then 1 else 6

/-- FCLASS (R111): one bit set. -/
def execFclass (h : Hdr) (o : Ops) (s : State) : Out :=
  issue h o noPre (fltBody o fun k t => k.setWord o.o0
    (BitVec.ofNat 64 (match t.ffmt with
      | some f => 2 ^ FFmt.classBit f (k.fltBits t o.o1 o)
      | none => 0))) s

end Sys2Proof.Machine
end

