-- ==== Sys2Proof/Machine/PlaneFloat.lean ====
section
/-!
DEFINITION. Sys2Proof/Machine/PlaneFloat.lean: the meanings of class 0x5 (R133, R134).
-/

namespace Sys2Proof.Machine

open Sys2Proof

/-- A class 0x5 instruction: FP32, FP16 or BF16 (R133), every plane operand of that type, unscaled, and of one shape
(R125); `f` is the effect on the core. -/
def vfBody (o : Ops) (f : Core → Ty → Core) (s : State) : Act :=
  let t := o.ty 0
  if !t.isPlaneFloat then illfmt 5
  else match s.me.planesBad t o with
    | some i => illfmt i
    | none => .go (s.setMe (f s.me t))

/-- The active elements of an instruction whose mask is op4 (R126). -/
def Core.actives (k : Core) (o : Ops) : List Nat := active (k.mask o.o4) (k.refShape o).n

/-- Does the instruction round under RD? -/
def Core.planeDown (k : Core) (o : Ops) : Bool := (k.planeCtx o false).mode == .rd

/-- The element `i` of op1, op2 or op3 as a value, subnormals flushed under fpmode bit 6 (R86). -/
def Core.vsrc (k : Core) (o : Ops) (t : Ty) (x : Operand) (i : Nat) : XVal := k.srcX t x o k.ftz i

/-- Rounding one value per active element into op0, in ascending order (R126, R134). -/
def vfRound (o : Ops) (g : Core → Ty → Nat → XRes) : State → Act :=
  vfBody o fun k t =>
    let (l, st) := mapRound (fun i => roundRes (k.planeCtx o false) t (g k t i)) (k.actives o) k.rst
    (k.merge st).setElems o.o0.planeNo t.width l

/-- Delivering one exact bit string per active element into op0, without flags or draws. -/
def vfMove (o : Ops) (g : Core → Ty → Nat → Nat) : State → Act :=
  vfBody o fun k t => k.setElems o.o0.planeNo t.width ((k.actives o).map fun i => (i, g k t i))

/-- An operation on the elements of op1 and op2, rounded. -/
def vf2 (o : Ops) (g : Core → XVal → XVal → XRes) : State → Act :=
  vfRound o fun k t i => g k (k.vsrc o t o.o1 i) (k.vsrc o t o.o2 i)

/-- A function of op1's element, rounded. -/
def vf1 (o : Ops) (g : XVal → XRes) : State → Act := vfRound o fun k t i => g (k.vsrc o t o.o1 i)

/-- The encoding of a value that the type holds exactly; NaN becomes canonical (R81). -/
def encExact (t : Ty) (x : XVal) : Nat :=
  match t.ffmt with
  | some f => (f.round false false .rne 0 x).1
  | none => 0

/-- VADD (R133). -/
def execVadd (h : Hdr) (o : Ops) (s : State) : Out :=
  issue h o noPre (vf2 o fun k a b => XVal.add (k.planeDown o) a b) s
/-- VSUB (R133). -/
def execVsub (h : Hdr) (o : Ops) (s : State) : Out :=
  issue h o noPre (vf2 o fun k a b => XVal.add (k.planeDown o) a b.negate) s
/-- VMUL (R133). -/
def execVmul (h : Hdr) (o : Ops) (s : State) : Out := issue h o noPre (vf2 o fun _ a b => a.mul b) s
/-- VDIV (R133). -/
def execVdiv (h : Hdr) (o : Ops) (s : State) : Out := issue h o noPre (vf2 o fun _ a b => a.div b) s

/-- The value with its sign inverted where `n` is set. -/
def XVal.negIf (n : Bool) (x : XVal) : XVal := if n then x.negate else x

/-- VFMA (R133): np negates the product, na the addend. -/
def execVfma (h : Hdr) (o : Ops) (s : State) : Out :=
  issue h o noPre (vfRound o fun k t i =>
    fmaRes (k.planeDown o) (XVal.negIf (o.bit 9) (k.vsrc o t o.o1 i)) (k.vsrc o t o.o2 i)
      (XVal.negIf (o.bit 10) (k.vsrc o t o.o3 i))) s

/-- VMIN (R93). -/
def execVmin (h : Hdr) (o : Ops) (s : State) : Out :=
  issue h o noPre (vfMove o fun k t i => encExact t ((k.vsrc o t o.o1 i).min (k.vsrc o t o.o2 i))) s
/-- VMAX (R93). -/
def execVmax (h : Hdr) (o : Ops) (s : State) : Out :=
  issue h o noPre (vfMove o fun k t i => encExact t ((k.vsrc o t o.o1 i).max (k.vsrc o t o.o2 i))) s
/-- VABS (R134): moves bits, the sign cleared. -/
def execVabs (h : Hdr) (o : Ops) (s : State) : Out :=
  issue h o noPre (vfMove o fun k t i => k.srcBits t o.o1 o i % Ty.signMask t) s
/-- VNEG (R134): moves bits, the sign inverted. -/
def execVneg (h : Hdr) (o : Ops) (s : State) : Out :=
  issue h o noPre (vfMove o fun k t i => k.srcBits t o.o1 o i ^^^ Ty.signMask t) s
/-- VSQRT (R134). -/
def execVsqrt (h : Hdr) (o : Ops) (s : State) : Out := issue h o noPre (vf1 o XVal.sqrt) s
/-- VRCP (R134). -/
def execVrcp (h : Hdr) (o : Ops) (s : State) : Out := issue h o noPre (vf1 o XVal.recip) s
/-- VRSQ (R134). -/
def execVrsq (h : Hdr) (o : Ops) (s : State) : Out := issue h o noPre (vf1 o XVal.rsqrt) s
/-- VEXP2 (R134). -/
def execVexp2 (h : Hdr) (o : Ops) (s : State) : Out := issue h o noPre (vf1 o XVal.exp2) s
/-- VLOG2 (R134). -/
def execVlog2 (h : Hdr) (o : Ops) (s : State) : Out := issue h o noPre (vf1 o XVal.log2) s
/-- VTANH (R134). -/
def execVtanh (h : Hdr) (o : Ops) (s : State) : Out := issue h o noPre (vf1 o XVal.tanh) s

/-- A mask of `n` elements: the bit of an active element is `f`, every other bit 0 (R17, R134, R138). -/
def Core.maskBy (k : Core) (o : Ops) (f : Nat → Bool) : BitVec 8192 :=
  let m := k.mask o.o4
  maskOf ((List.range (k.refShape o).n).map fun i => m.getLsbD i && f i)

/-- VFCMP (R134). -/
def execVfcmp (h : Hdr) (o : Ops) (s : State) : Out :=
  issue h o noPre (vfBody o fun k t =>
    k.setMask o.o0 (k.maskBy o fun i => ccFloat (o.mod 9 3) (k.vsrc o t o.o1 i) (k.vsrc o t o.o2 i))) s

/-- VCLAMP (R133): the minimum of the maximum with b, and c. -/
def execVclamp (h : Hdr) (o : Ops) (s : State) : Out :=
  issue h o noPre (vfMove o fun k t i =>
    encExact t (((k.vsrc o t o.o1 i).max (k.vsrc o t o.o2 i)).min (k.vsrc o t o.o3 i))) s

end Sys2Proof.Machine
end

