-- ==== Sys2Proof/Machine/ScalarInt.lean ====
section
/-!
DEFINITION. Sys2Proof/Machine/ScalarInt.lean: the meanings of class 0x1 (R99 to R108).
-/

namespace Sys2Proof.Machine

open Sys2Proof

/-- A class 0x1 instruction: an integer type, or ILLFMT 5 (R100); `f` is the effect on the core. -/
def intBody (o : Ops) (f : Core → Ty → Core) (s : State) : Act :=
  if (o.ty 0).isInt then .go (s.setMe (f s.me (o.ty 0))) else illfmt 5

/-- An operation on two values, reduced by R102: `g t a b` is the exact result, `sat` may clamp it. -/
def intOp2 (o : Ops) (g : Ty → Int → Int → Int) : State → Act :=
  intBody o fun k t => k.setInt o.o0 (t.reduce (o.bit 9) (g t (k.valOf t o.o1 o.sext) (k.valOf t o.o2 o.sext)))

/-- The upper half of an exact product (R102): bits `2w - 1 : w` read in the type. -/
def mulHigh (t : Ty) (n : Int) : Int := t.val (wrapI t.width (n / 2 ^ t.width))

/-- A bitwise operation on the two values' bits (R102). -/
def bitwise (f : Nat → Nat → Nat) (t : Ty) (a b : Int) : Int := t.val (f (wrapI t.width a) (wrapI t.width b))

/-- AND NOT on `w`-bit strings. -/
def andNot (a b : Nat) : Nat := a ^^^ (a &&& b)

/-- DIV (R103): division by zero gives all ones; the one overflow gives the minimum again. -/
def divVal (t : Ty) (a b : Int) : Int :=
  if b = 0 then (if t.isSigned then -1 else t.maxI) else t.reduce false (Int.tdiv a b)

/-- REM (R103): the remainder takes the dividend's sign; division by zero gives the dividend. -/
def remVal (a b : Int) : Int := if b = 0 then a else Int.tmod a b

/-- ADD (R102). -/
def execAdd (h : Hdr) (o : Ops) (s : State) : Out := issue h o noPre (intOp2 o fun _ a b => a + b) s
/-- SUB (R102). -/
def execSub (h : Hdr) (o : Ops) (s : State) : Out := issue h o noPre (intOp2 o fun _ a b => a - b) s
/-- MUL (R102). -/
def execMul (h : Hdr) (o : Ops) (s : State) : Out := issue h o noPre (intOp2 o fun _ a b => a * b) s
/-- MULH (R102). -/
def execMulh (h : Hdr) (o : Ops) (s : State) : Out := issue h o noPre (intOp2 o fun t a b => mulHigh t (a * b)) s
/-- DIV (R103). -/
def execDiv (h : Hdr) (o : Ops) (s : State) : Out := issue h o noPre (intOp2 o divVal) s
/-- REM (R103). -/
def execRem (h : Hdr) (o : Ops) (s : State) : Out := issue h o noPre (intOp2 o fun _ a b => remVal a b) s
/-- MIN (R102). -/
def execMin (h : Hdr) (o : Ops) (s : State) : Out := issue h o noPre (intOp2 o fun _ a b => min a b) s
/-- MAX (R102). -/
def execMax (h : Hdr) (o : Ops) (s : State) : Out := issue h o noPre (intOp2 o fun _ a b => max a b) s
/-- AND (R102). -/
def execAnd (h : Hdr) (o : Ops) (s : State) : Out := issue h o noPre (intOp2 o (bitwise (· &&& ·))) s
/-- OR (R102). -/
def execOr (h : Hdr) (o : Ops) (s : State) : Out := issue h o noPre (intOp2 o (bitwise (· ||| ·))) s
/-- XOR (R102). -/
def execXor (h : Hdr) (o : Ops) (s : State) : Out := issue h o noPre (intOp2 o (bitwise (· ^^^ ·))) s
/-- ANDN (R102). -/
def execAndn (h : Hdr) (o : Ops) (s : State) : Out := issue h o noPre (intOp2 o (bitwise andNot)) s

/-! ### Shifts (R104) -/

/-- The count of a shift: the whole 64-bit value of op2, an immediate sign-extended and read as unsigned. -/
def Core.shiftCount (k : Core) (o : Ops) : Nat := (k.word o.o2 o.sext).toNat

/-- SHL: `a * 2^c`, reduced or saturated. A count beyond the width is cut to it, which changes neither. -/
def shlVal (t : Ty) (sat : Bool) (a : Int) (c : Nat) : Int := t.reduce sat (a * 2 ^ min c (t.width + 1))

/-- SHR on the `w` bits of `a`. -/
def shrVal (t : Ty) (a : Int) (c : Nat) : Int := t.val (wrapI t.width a / 2 ^ min c t.width)

/-- SRA: the `w` bits read as signed whatever the type, divided by `2^c` towards minus infinity. -/
def sraVal (t : Ty) (a : Int) (c : Nat) : Int :=
  t.val (wrapI t.width (signedOf t.width (wrapI t.width a) / 2 ^ min c t.width))

/-- ROT: the `w` bits rotated towards bit 0. -/
def rotVal (t : Ty) (a : Int) (c : Nat) : Int :=
  let b := wrapI t.width a
  let n := c % t.width
  t.val (b / 2 ^ n + b % 2 ^ n * 2 ^ (t.width - n))

/-- A shift of op1 by the count. -/
def shiftBody (o : Ops) (g : Ty → Int → Nat → Int) : State → Act :=
  intBody o fun k t => k.setInt o.o0 (g t (k.valOf t o.o1 o.sext) (k.shiftCount o))

/-- SHL (R104). -/
def execShl (h : Hdr) (o : Ops) (s : State) : Out := issue h o noPre (shiftBody o fun t a c => shlVal t (o.bit 9) a c) s
/-- SHR (R104). -/
def execShr (h : Hdr) (o : Ops) (s : State) : Out := issue h o noPre (shiftBody o shrVal) s
/-- SRA (R104). -/
def execSra (h : Hdr) (o : Ops) (s : State) : Out := issue h o noPre (shiftBody o sraVal) s
/-- ROT (R104). -/
def execRot (h : Hdr) (o : Ops) (s : State) : Out := issue h o noPre (shiftBody o rotVal) s

/-! ### Bit fields and counts (R105, R106) -/

/-- The lowest bit of a bit field. -/
def Ops.pos (o : Ops) : Nat := o.mod 10 6
/-- The length of a bit field. -/
def Ops.len (o : Ops) : Nat := o.mod 16 6 + 1

/-- A bit-field instruction: ILLFMT 5 where the field reaches beyond the type (R105). -/
def fieldBody (o : Ops) (f : Core → Ty → Core) (s : State) : Act :=
  if (o.ty 0).width < Ops.pos o + Ops.len o then illfmt 5 else intBody o f s

/-- BFX: the field in the type's signedness (R105). -/
def bfxVal (t : Ty) (pos len : Nat) (x : Word) : Int :=
  let f := getBits x pos len
  if t.isSigned then signedOf len f else (f : Int)

/-- BFI: the low bits of op2 put into the field of op1 (R105). -/
def bfiVal (t : Ty) (pos len : Nat) (x y : Word) : Int :=
  let n := getBits x 0 t.width
  t.val (n - getBits x pos len * 2 ^ pos + getBits y 0 len * 2 ^ pos)

/-- BFX (R105). -/
def execBfx (h : Hdr) (o : Ops) (s : State) : Out :=
  issue h o noPre (fieldBody o fun k t => k.setInt o.o0 (bfxVal t (Ops.pos o) (Ops.len o) (k.word o.o1 0))) s
/-- BFI (R105). -/
def execBfi (h : Hdr) (o : Ops) (s : State) : Out :=
  issue h o noPre (fieldBody o fun k t =>
    k.setInt o.o0 (bfiVal t (Ops.pos o) (Ops.len o) (k.word o.o1 0) (k.word o.o2 0))) s

/-- The zero bits of a `w`-bit value above its highest set bit; `w` for zero (R106). -/
def clzN (w x : Nat) : Nat := if x = 0 then w else w - 1 - Nat.log2 x
/-- The zero bits below the lowest set bit; `w` for zero. -/
def ctzN (w x : Nat) : Nat := ((List.range w).find? (x.testBit ·)).getD w
/-- The set bits of a `w`-bit value. -/
def popN (w x : Nat) : Nat := ((List.range w).filter (x.testBit ·)).length

/-- A count over the `w` bits of op1, written zero-extended (R106). -/
def countBody (o : Ops) (f : Nat → Nat → Nat) : State → Act :=
  intBody o fun k t => k.setWord o.o0 (BitVec.ofNat 64 (f t.width (getBits (k.word o.o1 0) 0 t.width)))

/-- CLZ (R106). -/
def execClz (h : Hdr) (o : Ops) (s : State) : Out := issue h o noPre (countBody o clzN) s
/-- CTZ (R106). -/
def execCtz (h : Hdr) (o : Ops) (s : State) : Out := issue h o noPre (countBody o ctzN) s
/-- POPC (R106). -/
def execPopc (h : Hdr) (o : Ops) (s : State) : Out := issue h o noPre (countBody o popN) s

/-! ### CMP, SEL, MOVHI (R107, R108) -/

/-- CMP (R107). -/
def execCmp (h : Hdr) (o : Ops) (s : State) : Out :=
  issue h o noPre (intBody o fun k t =>
    k.setPred o.o0 (ccInt (o.mod 10 3) (k.valOf t o.o1 o.sext) (k.valOf t o.o2 o.sext))) s

/-- SEL (R108): the predicate is a source. -/
def execSel (h : Hdr) (o : Ops) (s : State) : Out :=
  issue h o noPre (intBody o fun k t => k.setInt o.o0 (k.valOf t (if k.pred o.o3 then o.o1 else o.o2) o.sext)) s

/-- MOVHI (R108): only the 64-bit types. -/
def movhiAct (o : Ops) (s : State) : Act :=
  if o.ty 0 = .s64 ∨ o.ty 0 = .n64 then
    .go (s.setMe (s.me.setWord o.o0 (o.imm ++ (s.me.word o.o1 0).truncate 32)))
  else illfmt 5

/-- MOVHI (R108). -/
def execMovhi (h : Hdr) (o : Ops) (s : State) : Out := issue h o noPre (movhiAct o) s

end Sys2Proof.Machine
end

