-- ==== Sys2Proof/Machine/PlaneInt.lean ====
section
/-!
DEFINITION. Sys2Proof/Machine/PlaneInt.lean: the meanings of class 0x6 (R135 to R139).
-/

namespace Sys2Proof.Machine

open Sys2Proof

/-- A class 0x6 instruction: a type that the entry accepts, or ILLFMT 5 (R135), then the planes of R125. -/
def viBody (o : Ops) (ok : Ty → Bool) (f : Core → Ty → Core) (s : State) : Act :=
  let t := o.ty 0
  if !ok t then illfmt 5
  else match s.me.planesBad t o with
    | some i => illfmt i
    | none => .go (s.setMe (f s.me t))

/-- The types of the logic instructions: every code but FP64 (R135). -/
def Ty.isLogic (t : Ty) : Bool := t != .f64

/-- One integer result per active element into op0, already in the type's range. -/
def viMap (o : Ops) (g : Core → Ty → Nat → Int) : State → Act :=
  viBody o Ty.isInt fun k t =>
    k.setElems o.o0.planeNo t.width ((k.actives o).map fun i => (i, wrapI t.width (g k t i)))

/-- An operation on the elements of op1 and op2, reduced as R102 (R136). -/
def vi2 (o : Ops) (g : Ty → Int → Int → Int) : State → Act :=
  viMap o fun k t i => t.reduce (o.bit 9) (g t (k.srcI t o.o1 o i) (k.srcI t o.o2 o i))

/-- The count of a shift: a plane's element, or a scalar's whole value (R136). -/
def Core.viCount (k : Core) (o : Ops) (t : Ty) (i : Nat) : Nat :=
  match o.o2 with
  | .v _ => k.srcBits t o.o2 o i
  | _ => k.shiftCount o

/-- VIADD (R136). -/
def execViadd (h : Hdr) (o : Ops) (s : State) : Out := issue h o noPre (vi2 o fun _ a b => a + b) s
/-- VISUB (R136). -/
def execVisub (h : Hdr) (o : Ops) (s : State) : Out := issue h o noPre (vi2 o fun _ a b => a - b) s
/-- VIMUL (R136). -/
def execVimul (h : Hdr) (o : Ops) (s : State) : Out := issue h o noPre (vi2 o fun _ a b => a * b) s
/-- VIMULH (R136). -/
def execVimulh (h : Hdr) (o : Ops) (s : State) : Out := issue h o noPre (vi2 o fun t a b => mulHigh t (a * b)) s
/-- VIMIN (R136). -/
def execVimin (h : Hdr) (o : Ops) (s : State) : Out := issue h o noPre (vi2 o fun _ a b => min a b) s
/-- VIMAX (R136). -/
def execVimax (h : Hdr) (o : Ops) (s : State) : Out := issue h o noPre (vi2 o fun _ a b => max a b) s
/-- VIABS (R136). -/
def execViabs (h : Hdr) (o : Ops) (s : State) : Out :=
  issue h o noPre (vi2 o fun _ a _ => (a.natAbs : Int)) s
/-- VSHL (R136). -/
def execVshl (h : Hdr) (o : Ops) (s : State) : Out :=
  issue h o noPre (viMap o fun k t i => shlVal t (o.bit 9) (k.srcI t o.o1 o i) (k.viCount o t i)) s
/-- VSHR (R136): SRA for a signed type, SHR for an unsigned one. -/
def execVshr (h : Hdr) (o : Ops) (s : State) : Out :=
  issue h o noPre (viMap o fun k t i =>
    if t.isSigned then sraVal t (k.srcI t o.o1 o i) (k.viCount o t i)
    else shrVal t (k.srcI t o.o1 o i) (k.viCount o t i)) s

/-- A bitwise operation on the elements' bits (R136). -/
def viLogic (o : Ops) (g : Nat → Nat → Nat) : State → Act :=
  viBody o Ty.isLogic fun k t =>
    k.setElems o.o0.planeNo t.width ((k.actives o).map fun i => (i, g (k.srcBits t o.o1 o i) (k.srcBits t o.o2 o i)))

/-- VAND (R136). -/
def execVand (h : Hdr) (o : Ops) (s : State) : Out := issue h o noPre (viLogic o (· &&& ·)) s
/-- VOR (R136). -/
def execVor (h : Hdr) (o : Ops) (s : State) : Out := issue h o noPre (viLogic o (· ||| ·)) s
/-- VXOR (R136). -/
def execVxor (h : Hdr) (o : Ops) (s : State) : Out := issue h o noPre (viLogic o (· ^^^ ·)) s
/-- VANDN (R136). -/
def execVandn (h : Hdr) (o : Ops) (s : State) : Out := issue h o noPre (viLogic o andNot) s

/-- One bit of VLUT4 (R137). -/
def lutBit (table : Nat) (a b c d : Bool) : Bool := table.testBit (8 * a.toNat + 4 * b.toNat + 2 * c.toNat + d.toNat)

/-- VLUT4 on `w`-bit strings (R137). -/
def lutBits (table w a b c d : Nat) : Nat :=
  (List.range w).foldr (fun j acc =>
    acc + (if lutBit table (a.testBit j) (b.testBit j) (c.testBit j) (d.testBit j) then 2 ^ j else 0)) 0

/-- VLUT4 (R137): op0 is read and written. -/
def execVlut4 (h : Hdr) (o : Ops) (s : State) : Out :=
  issue h o noPre (viBody o Ty.isLogic fun k t =>
    k.setElems o.o0.planeNo t.width ((k.actives o).map fun i =>
      (i, lutBits (o.imm.toNat % 65536) t.width (k.srcBits t o.o1 o i) (k.srcBits t o.o2 o i) (k.srcBits t o.o3 o i)
        (k.srcBits t o.o0 o i)))) s

/-- VICMP (R138). -/
def execVicmp (h : Hdr) (o : Ops) (s : State) : Out :=
  issue h o noPre (viBody o Ty.isInt fun k t =>
    k.setMask o.o0 (k.maskBy o fun i => ccInt (o.mod 10 3) (k.srcI t o.o1 o i) (k.srcI t o.o2 o i))) s

/-- The bits of an element of a source of a moving instruction: a broadcast immediate is `Val(t, ·)` of R124, read as
R110 gives for a float type. -/
def Core.moveBits (k : Core) (o : Ops) (t : Ty) (x : Operand) (i : Nat) : Nat := k.srcBits t x o i

/-- VSEL (R138): no element is inactive. -/
def execVsel (h : Hdr) (o : Ops) (s : State) : Out :=
  issue h o noPre (viBody o Ty.isLogic fun k t =>
    let m := k.mask o.o4
    k.setElems o.o0.planeNo t.width ((List.range (k.refShape o).n).map fun i =>
      (i, k.moveBits o t (if m.getLsbD i then o.o1 else o.o2) i))) s

/-! ### VBCAST, VMOV, VIOTA, VPOPC (R139) -/

/-- Does the source of VBCAST .row or .col have the destination's type and its cols or rows? -/
def bcastFits (row : Bool) (t : Ty) (d r : Shape) : Bool :=
  r.ty == t && !r.scaled && (if row then r.cols == d.cols else r.rows == d.rows)

/-- The element of op1 that VBCAST .row or .col repeats at element `i` of the destination. -/
def bcastIdx (row : Bool) (d r : Shape) (q i : Nat) : Nat :=
  if row then q % r.rows * r.cols + i % d.cols else i / d.cols * r.cols + q % r.cols

/-- VBCAST (R139). The row or column of .row and .col is sign-extended where it is an immediate. DESIGN CHOICE, log entry 95. -/
def vbcastAct (o : Ops) (s : State) : Act :=
  let t := o.ty 0
  let k := s.me
  let d := k.shapeO o.o0
  let mode := o.mod 10 2
  if t == .f64 then illfmt 5
  else if !d.fits t d then illfmt 0
  else if mode = 0 then
    .go (s.setMe (k.setElems o.o0.planeNo t.width ((k.actives o).map fun i => (i, k.moveBits o t o.o1 i))))
  else if !bcastFits (mode = 1) t d (k.shapeO o.o1) then illfmt 1
  else
    let q := (k.word o.o2 o.sext).toNat
    .go (s.setMe (k.setElems o.o0.planeNo t.width ((k.actives o).map fun i =>
      (i, k.srcBits t o.o1 o (bcastIdx (mode = 1) d (k.shapeO o.o1) q i)))))

/-- VBCAST (R139). -/
def execVbcast (h : Hdr) (o : Ops) (s : State) : Out := issue h o noPre (vbcastAct o) s

/-- VMOV (R139): reshapes without converting; a scaled one also copies the strip bits of its blocks. -/
def vmovAct (o : Ops) (s : State) : Act :=
  let t := o.ty 0
  let k := s.me
  let d := k.shapeO o.o0
  let r := k.shapeO o.o1
  if t == .f64 then illfmt 5
  else if d.ty != t then illfmt 0
  else if r.ty.width != t.width || r.n != d.n || r.scaled != d.scaled then illfmt 1
  else if d.scaled && o.o4 != .m 7 then illfmt 4
  else
    let w := t.width
    let k' := k.setElems o.o0.planeNo w ((k.actives o).map fun i => (i, k.elem o.o1.planeNo w i))
    let nb := d.n / 32 * (if t.isBx then 2 else 1)
    .go (s.setMe (if d.scaled then
      k'.setStrip o.o0.planeNo ((List.range nb).map fun j => (j, k.stripByte o.o1.planeNo j)) else k'))

/-- VMOV (R139). -/
def execVmov (h : Hdr) (o : Ops) (s : State) : Out := issue h o noPre (vmovAct o) s

/-- VIOTA (R139). An immediate x is sign-extended. DESIGN CHOICE, log entry 95. -/
def execViota (h : Hdr) (o : Ops) (s : State) : Out :=
  issue h o noPre (viMap o fun k t i =>
    let c := (k.refShape o).cols
    let x := (k.word o.o1 o.sext).toNat
    let n := match o.mod 10 2 with
      | 0 => i
      | 1 => i / c
      | _ => i % c
    t.val (x + n)) s

/-- VPOPC (R136). -/
def execVpopc (h : Hdr) (o : Ops) (s : State) : Out :=
  issue h o noPre (viMap o fun k t i => ((popN t.width (k.srcBits t o.o1 o i) : Nat) : Int)) s

end Sys2Proof.Machine
end

