-- ==== Sys2Proof/Machine/PlaneConv.lean ====
section
/-!
DEFINITION. Sys2Proof/Machine/PlaneConv.lean: the meanings of class 0x7 (R140 to R148): conversion, quantization,
reductions, selection, scan, sort and segmented reduction.
-/

namespace Sys2Proof.Machine

open Sys2Proof

/-! ### Checks of class 0x7 (R125, R140) -/

/-- Has a shape the type, unscaled unless scaled shapes are named? -/
def Shape.hasTy (h : Shape) (t : Ty) (scaledToo : Bool) : Bool := h.ty == t && (scaledToo || !h.scaled)

/-- Have two shapes the same rows and cols? -/
def Shape.sameDims (h r : Shape) : Bool := h.rows == r.rows && h.cols == r.cols

/-- The first operand number whose check fails. DEDUCED, log entry 21. -/
def firstBad : List (Nat × Bool) → Option Nat
  | [] => none
  | (i, ok) :: l => if ok then firstBad l else some i

/-- A class 0x7 instruction: the modifier on its own, then the operands in order (R125), then the effect. -/
def c7Body (modOk : Bool) (checks : Core → List (Nat × Bool)) (f : Core → Core) (s : State) : Act :=
  if !modOk then illfmt 5
  else match firstBad (checks s.me) with
    | some i => illfmt i
    | none => .go (s.setMe (f s.me))

/-- The result type of a class 0x7 instruction. -/
def Ops.dstTy (o : Ops) : Ty := o.ty 0
/-- The source type. -/
def Ops.srcTy (o : Ops) : Ty := o.ty 10

/-- The rounding context of class 0x7. -/
def Core.ctx7 (k : Core) (o : Ops) : RCtx := k.planeCtx o (o.bit 9)

/-- Is the mask mall? -/
def Ops.mall (o : Ops) : Bool := o.o4 == .m 7

/-- Element `i` of a plane operand under its shape (R86). -/
def Core.elemO (k : Core) (x : Operand) (i : Nat) : XVal := k.elemX x.planeNo (k.shapeO x) k.ftz i

/-! ### Conversion (R141, R143) -/

/-- VCVT of one element (R94, R95); B1 to an integer type is the path of R95, which draws nothing (R141). DEDUCED, log entry 92. -/
def Core.cvtElem (k : Core) (o : Ops) (i : Nat) (st : RSt) : Nat × RSt :=
  let t := Ops.dstTy o
  let u := Ops.srcTy o
  if t.isInt && (u.isInt || u == .b1) then
    (wrapI t.width (t.reduce (o.bit 9) (k.elemI o.o1.planeNo (k.shapeO o.o1) i)), st)
  else roundTo (k.ctx7 o) t (k.elemO o.o1 i) st

/-- The effect of an element-wise conversion into op0. -/
def Core.convert (k : Core) (o : Ops) (f : Nat → RSt → Nat × RSt) : Core :=
  let (l, st) := mapRound f (k.actives o) k.rst
  (k.merge st).setElems o.o0.planeNo (Ops.dstTy o).width l

/-- VCVT (R141): a BX or B1 destination type fails at operand 0. DEDUCED, log entry 21. -/
def execVcvt (h : Hdr) (o : Ops) (s : State) : Out :=
  let t := Ops.dstTy o
  let u := Ops.srcTy o
  issue h o noPre (c7Body (t != .f64 && u != .f64)
    (fun k =>
      let d := k.shapeO o.o0
      [(0, !t.isBx && t != .b1 && d.hasTy t false), (1, (k.shapeO o.o1).hasTy u true && (k.shapeO o.o1).sameDims d)])
    fun k => k.convert o (k.cvtElem o)) s

/-- The FP32 scale of VQUANT and VDEQUANT (R142); it stands for no element and is never flushed (R86). DEDUCED, log entry 20. -/
def Core.scaleOf (k : Core) (o : Ops) : XVal := Ty.f32.decodeF false ((k.word o.o2 o.zext).toNat % 2 ^ 32)

/-- VDEQUANT (R143). -/
def execVdequant (h : Hdr) (o : Ops) (s : State) : Out :=
  let t := Ops.dstTy o
  let u := Ops.srcTy o
  issue h o noPre (c7Body (t.isPlaneFloat && u != .f64 && u != .b1)
    (fun k =>
      let d := k.shapeO o.o0
      [(0, d.hasTy t false), (1, (k.shapeO o.o1).hasTy u true && (k.shapeO o.o1).sameDims d)])
    fun k => k.convert o fun i => roundRes (k.ctx7 o) t ((k.elemO o.o1 i).mul (k.scaleOf o))) s

/-! ### Quantization (R96, R97, R142) -/

/-- The destination types of VQUANT (R142). -/
def Ty.isQuant : Ty → Bool
  | .s8 | .n8 | .s16 | .n16 | .s32 | .n32 | .f16 | .bf16 | .e4m3 | .e5m2 | .e2m1 | .bx8 | .bx4 => true
  | _ => false

/-- `floor(log2 |y|)` of the largest finite non-zero value of a list. -/
def maxLog2 : List XVal → Option Int
  | [] => none
  | .fin _ a b :: l => match maxLog2 l with
    | some e => some (max e (floorLog2 a b))
    | none => some (floorLog2 a b)
  | _ :: l => maxLog2 l

/-- A ratio's magnitude times `2^e`. -/
def scaleMag (a b : Nat) (e : Int) : Nat × Nat := if 0 ≤ e then (a * 2 ^ e.toNat, b) else (a, b * 2 ^ (-e).toNat)

/-- The exponent of a type's largest binade (R96). -/
def Ty.emaxE : Ty → Int
  | .e4m3 => 8
  | .e5m2 => 15
  | _ => 2

/-- Clamping into 0 to 254. -/
def clampE (e : Int) : Int := max 0 (min e 254)

/-- Rounding a list of values one after the other. -/
def roundList (f : XVal → RSt → Nat × RSt) : List XVal → RSt → List Nat × RSt
  | [], st => ([], st)
  | y :: l, st =>
    let (b, st) := f y st
    let (r, st) := roundList f l st
    (b :: r, st)

/-- A block quantized to a scaled MX type: its scale byte and its codes (R96). The zeros of an all-zero block are kept as
they are and draw nothing under SR. DEDUCED, log entry 73. -/
def mxBlock (c : RCtx) (t : Ty) (ys : List XVal) (st : RSt) : Nat × List Nat × RSt :=
  if ys.any fun y => y.isNaN || y.isInf then (255, ys.map fun _ => 0, st.raise flInvalid)
  else match maxLog2 ys with
    | none => (127, ys.map fun y => encExact t y, st)
    | some lg =>
      let x := clampE (lg - Ty.emaxE t + 127)
      let f := fun y st => roundTo { c with sat := true } t (match y with
        | .fin n a b => let r := scaleMag a b (127 - x); .fin n r.1 r.2
        | y => y) st
      let (l, st) := roundList f ys st
      (x.toNat, l, st)

/-- The code of a BX element (R83). DEDUCED, log entry 74. -/
def bxCode (four : Bool) (sel neg : Bool) (m : Nat) : Nat :=
  if four then 8 * sel.toNat + 4 * neg.toNat + m else 128 * sel.toNat + 64 * neg.toNat + m

/-- One element quantized under the two exponents of its block (R97). -/
def bxElem (mode : Rnd) (four : Bool) (e0 e1 : Int) (y : XVal) (st : RSt) : Nat × RSt :=
  let lf : Int := if four then 1 else 5
  let mmax := if four then 3 else 63
  let (st, rnd) := st.draw mode
  match y with
  | .fin n a b =>
    let try1 := fun e => let r := scaleMag a b (lf - (e - 127)); roundMag mode rnd false r.1 r.2
    let m0 := try1 e0
    let sel := decide (mmax < m0)
    let e := if sel then e1 else e0
    let m1 := if sel then try1 e1 else m0
    let m := min m1 mmax
    let r := scaleMag a b (lf - (e - 127))
    let st := if sel && decide (mmax < m1) then st.raise flOverflow else st
    let st := if m * r.2 ≠ r.1 then st.raise flInexact else st
    let st := if m = 0 then st.raise flUnderflow else st
    (bxCode four sel n m, st)
  | y => (bxCode four false y.neg 0, st)

/-- A block quantized to a BX type: its two exponents and its codes (R97). The sign of a NaN quotient is +, that of the
canonical NaN. DEDUCED, log entry 74. A block that holds a NaN or an infinity raises invalid alone, and no inexact for its finite
elements. DEDUCED, log entry 102. -/
def bxBlock (mode : Rnd) (four : Bool) (d : Nat) (ys : List XVal) (st : RSt) : (Nat × Nat) × List Nat × RSt :=
  if ys.any fun y => y.isNaN || y.isInf then
    ((255, 255), ys.map fun y => bxCode four true y.neg 0, st.raise flInvalid)
  else match maxLog2 ys with
    | none => ((0, 0), ys.map fun y => bxCode four false y.neg 0, st)
    | some lg =>
      let e1 := clampE (lg + 127)
      let e0 := max 0 (e1 - d)
      let (l, st) := roundList (bxElem mode four e0 e1) ys st
      ((e0.toNat, e1.toNat), l, st)

/-- The gap of a BX quantization (R97, R142). -/
def Ops.gap (o : Ops) : Nat := if o.bit 19 then o.mod 15 4 else if Ops.dstTy o = .bx8 then 4 else 3

/-- Element `i` divided by the scale, its flags raised (R96). -/
def Core.quot (k : Core) (o : Ops) (i : Nat) : XRes := (k.elemO o.o1 i).div (k.scaleOf o)

/-- The quotients of a list of elements; their flags are raised. -/
def quots (f : Nat → XRes) (l : List Nat) (st : RSt) : List XVal × RSt :=
  (l.map fun i => (f i).1, l.foldl (fun st i => st.raise (f i).2) st)

/-- Quantizing block after block, elements and strip bytes together (R142). -/
def Core.quantBlocks (k : Core) (o : Ops) : List Nat → RSt → List (Nat × Nat) × List (Nat × Nat) × RSt
  | [], st => ([], [], st)
  | b :: l, st =>
    let idx := (List.range 32).map fun j => 32 * b + j
    let (ys, st) := quots (k.quot o) idx st
    let t := Ops.dstTy o
    let (sb, codes, st) := if t.isBx then
        let (e, codes, st) := bxBlock (k.ctx7 o).mode (t == .bx4) (Ops.gap o) ys st
        ([(2 * b, e.1), (2 * b + 1, e.2)], codes, st)
      else
        let (x, codes, st) := mxBlock (k.ctx7 o) t ys st
        ([(b, x)], codes, st)
    let (es, ss, st) := k.quantBlocks o l st
    (idx.zip codes ++ es, sb ++ ss, st)

/-- VQUANT's effect (R142). -/
def Core.quantize (k : Core) (o : Ops) : Core :=
  let d := k.shapeO o.o0
  let t := Ops.dstTy o
  if d.scaled then
    let (es, ss, st) := k.quantBlocks o (List.range (d.n / 32)) k.rst
    ((k.merge st).setElems o.o0.planeNo t.width es).setStrip o.o0.planeNo ss
  else k.convert o fun i => roundRes (k.ctx7 o) t (k.quot o i)

/-- VQUANT (R142). -/
def execVquant (h : Hdr) (o : Ops) (s : State) : Out :=
  let t := Ops.dstTy o
  let u := Ops.srcTy o
  issue h o noPre (c7Body (u.isPlaneFloat && Ty.isQuant t && (!o.bit 19 || t.isBx))
    (fun k =>
      let d := k.shapeO o.o0
      [(0, d.hasTy t true), (1, (k.shapeO o.o1).hasTy u false && (k.shapeO o.o1).sameDims d),
       (4, !d.scaled || Ops.mall o)])
    fun k => k.quantize o) s

/-! ### Reductions (R144) -/

/-- The groups of a reduction, scan or sort: the whole plane, its rows, or its columns. -/
def groupsOf (h : Shape) (whole col : Bool) : List (List Nat) :=
  if whole then [List.range h.n]
  else if col then (List.range h.cols).map fun c => (List.range h.rows).map fun r => r * h.cols + c
  else (List.range h.rows).map fun r => (List.range h.cols).map fun c => r * h.cols + c

/-- The exact sum of values, the empty one +0; a sum that meets both infinities raises invalid (R91, R144).
DEDUCED, log entry 15. -/
def sumX (rd : Bool) (l : List XVal) : XRes :=
  if l.contains (.inf false) && l.contains (.inf true) then (.nan, flInvalid)
  else match l with
    | [] => (.zero false, 0)
    | x :: r => (r.foldl (fun a y => (XVal.add rd a y).1) x, 0)

/-- The float reduction of a group (R144): 0 adds, 1 takes the least, 2 the greatest. -/
def foldX (op : Nat) (rd : Bool) (l : List XVal) : XRes :=
  match op with
  | 0 => sumX rd l
  | 1 => (l.foldl XVal.min (.inf false), 0)
  | _ => (l.foldl XVal.max (.inf true), 0)

/-- The integer reduction of a group of type `u` (R144). -/
def foldI (op : Nat) (u : Ty) (l : List Int) : Int :=
  match op with
  | 0 => l.foldl (· + ·) 0
  | 1 => l.foldl min u.maxI
  | 2 => l.foldl max u.minI
  | 3 => l.foldl (bitwise (· &&& ·) u) (u.val (2 ^ u.width - 1))
  | 4 => l.foldl (bitwise (· ||| ·) u) 0
  | _ => l.foldl (bitwise (· ^^^ ·) u) 0

/-- The result of one group as the result type's bits (R144); a scalar result is never flushed (R89). Under SR each group draws
once, one of integers too. DEDUCED, log entry 79. -/
def Core.reduceGroup (k : Core) (o : Ops) (plane : Bool) (g : List Nat) (st : RSt) : Nat × RSt :=
  let c : RCtx := { k.ctx7 o with flush := k.ftz && plane }
  let t := Ops.dstTy o
  let u := Ops.srcTy o
  let op := o.mod 15 3
  let act := g.filter fun i => (k.mask o.o4).getLsbD i
  if u.isInt then
    (wrapI t.width (t.reduce (o.bit 9) (foldI op u (act.map (k.elemI o.o1.planeNo (k.shapeO o.o1))))),
      (st.draw c.mode).1)
  else roundRes c t (foldX op (c.mode == .rd) (act.map (k.elemO o.o1))) st

/-- The type pairings of a reduction (R144); FP64 is a result of VREDS alone. -/
def redTypes (t u : Ty) (op : Nat) (fp64 : Bool) : Bool :=
  if u.isInt then t.isInt
  else u.isFloat && u != .f64 && decide (op < 3) && (t.isPlaneFloat || (fp64 && t == .f64))

/-- VREDS (R144). -/
def execVreds (h : Hdr) (o : Ops) (s : State) : Out :=
  let t := Ops.dstTy o
  let u := Ops.srcTy o
  issue h o noPre (c7Body (redTypes t u (o.mod 15 3) true) (fun k => [(1, (k.shapeO o.o1).hasTy u true)])
    fun k =>
      let (b, st) := k.reduceGroup o false (List.range (k.shapeO o.o1).n) k.rst
      (k.merge st).setInt o.o0 (if t.isInt then t.val b else (b : Int))) s

/-- Applying a function with draws and flags to the groups in ascending order. -/
def mapGroups (f : List Nat → RSt → Nat × RSt) : List (List Nat) → Nat → RSt → List (Nat × Nat) × RSt
  | [], _, st => ([], st)
  | g :: l, j, st =>
    let (b, st) := f g st
    let (r, st) := mapGroups f l (j + 1) st
    ((j, b) :: r, st)

/-- VREDR (R144). -/
def execVredr (h : Hdr) (o : Ops) (s : State) : Out :=
  let t := Ops.dstTy o
  let u := Ops.srcTy o
  let col := o.bit 18
  issue h o noPre (c7Body (redTypes t u (o.mod 15 3) false)
    (fun k =>
      let d := k.shapeO o.o0
      let r := k.shapeO o.o1
      [(0, d.hasTy t false && (if col then d.rows == 1 && d.cols == r.cols else d.rows == r.rows && d.cols == 1)),
       (1, r.hasTy u true)])
    fun k =>
      let (l, st) := mapGroups (k.reduceGroup o true) (groupsOf (k.shapeO o.o1) false col) 0 k.rst
      (k.merge st).setElems o.o0.planeNo t.width l) s

/-! ### Selection (R145) -/

/-- The index of the least or greatest value among numbered values that are not NaN; a tie keeps the lower index. -/
def argBest (mx : Bool) : List (Nat × XVal) → Option (Nat × XVal)
  | [] => none
  | (i, x) :: l =>
    match argBest mx l with
    | none => if x.isNaN then none else some (i, x)
    | some (j, y) => if x.isNaN then some (j, y)
      else if (if mx then x.lt y else y.lt x) then some (j, y) else some (i, x)

/-- VARGX of one group of numbered active values: the first NaN's index where every value is NaN, all ones where there
is none (R145). -/
def argOf (mx : Bool) (w : Nat) (l : List (Nat × XVal)) : Nat :=
  match argBest mx l with
  | some (i, _) => i
  | none => match l with
    | (i, _) :: _ => i
    | [] => 2 ^ w - 1

/-- The numbered active values of a group: a scalar destination takes the element index, a plane the column. -/
def Core.argGroup (k : Core) (o : Ops) (plane : Bool) (g : List Nat) : List (Nat × XVal) :=
  (g.filter fun i => (k.mask o.o4).getLsbD i).map fun i =>
    (if plane then i % (k.shapeO o.o1).cols else i, k.elemO o.o1 i)

/-- Is op0 a plane? -/
def Ops.planeDst (o : Ops) : Bool := o.o0.cls == some .v

/-- VARGX (R145): a scaled shape only of a block type, which has no other. DEDUCED, log entry 80. -/
def execVargx (h : Hdr) (o : Ops) (s : State) : Out :=
  let t := Ops.dstTy o
  let u := Ops.srcTy o
  let plane := Ops.planeDst o
  issue h o noPre (c7Body (t.isInt && u != .f64 && u != .b1)
    (fun k =>
      let d := k.shapeO o.o0
      let r := k.shapeO o.o1
      let top : Int := ((if plane then r.cols else r.n : Nat) : Int) - 1
      [(0, !plane || (d.hasTy t false && d.rows == r.rows && d.cols == 1)),
       (1, r.hasTy u u.isBx && decide (top ≤ t.maxI) && (t.isSigned || decide (top ≠ t.maxI)))])
    fun k =>
      let f := fun g => argOf (o.bit 15) t.width (k.argGroup o plane g)
      let gs := groupsOf (k.shapeO o.o1) (!plane) false
      if plane then k.setElems o.o0.planeNo t.width (gs.zipIdx.map fun x => (x.2, f x.1))
      else k.setInt o.o0 (t.val (f (gs.headD [])))) s

/-! ### Scan (R146) -/

/-- The float recurrence along a group, inactive elements passed over. -/
def Core.scanX (k : Core) (o : Ops) (t : Ty) : List Nat → XVal → RSt → List (Nat × Nat) × RSt
  | [], _, st => ([], st)
  | i :: l, hv, st =>
    let c := k.ctx7 o
    let (b, st) := roundRes c t (fmaRes (c.mode == .rd) (k.srcX t o.o1 o k.ftz i) hv (k.srcX t o.o2 o k.ftz i)) st
    let (r, st) := k.scanX o t l (t.decodeF false b) st
    ((i, b) :: r, st)

/-- The integer recurrence along a group; under SR each element draws once here too. DEDUCED, log entry 79. -/
def Core.scanI (k : Core) (o : Ops) (t : Ty) : List Nat → Int → RSt → List (Nat × Nat) × RSt
  | [], _, st => ([], st)
  | i :: l, hv, st =>
    let n := t.reduce (o.bit 9) (k.srcI t o.o1 o i * hv + k.srcI t o.o2 o i)
    let (r, st) := k.scanI o t l n (st.draw (k.ctx7 o).mode).1
    ((i, wrapI t.width n) :: r, st)

/-- The recurrence over every group (R146); a starting value is read as a broadcast source is, and flushed like one.
DEDUCED, log entry 20. -/
def Core.scanGroups (k : Core) (o : Ops) (t : Ty) : List (List Nat) → RSt → List (Nat × Nat) × RSt
  | [], st => ([], st)
  | g :: l, st =>
    let act := g.filter fun i => (k.mask o.o4).getLsbD i
    let (a, st) := if t.isInt then k.scanI o t act (k.srcI t o.o3 o 0) st
      else k.scanX o t act (k.srcX t o.o3 o k.ftz 0) st
    let (r, st) := k.scanGroups o t l st
    (a ++ r, st)

/-- A plane operand of type `t` and of the destination's rows and cols, unscaled; a broadcast passes. -/
def Core.planeOk (k : Core) (x : Operand) (t : Ty) (d : Shape) : Bool :=
  match x with
  | .v p => (k.shape p).fits t d
  | _ => true

/-- The types of VSCAN, VSEGRED values and VSORTK keys. -/
def Ty.isPlaneNum (t : Ty) : Bool := t.isInt || t.isPlaneFloat

/-- VSCAN (R146). -/
def execVscan (h : Hdr) (o : Ops) (s : State) : Out :=
  let t := Ops.dstTy o
  issue h o noPre (c7Body (Ops.srcTy o == t && Ty.isPlaneNum t)
    (fun k =>
      let d := k.shapeO o.o0
      [(0, d.hasTy t false), (1, k.planeOk o.o1 t d), (2, k.planeOk o.o2 t d)])
    fun k =>
      let (l, st) := k.scanGroups o t (groupsOf (k.shapeO o.o0) (o.bit 15) false) k.rst
      (k.merge st).setElems o.o0.planeNo t.width l) s

/-! ### Sort (R147) -/

/-- Does key `a` stand strictly before key `b`: NaN keys stand last in both directions? -/
def keyBefore (desc : Bool) (a b : XVal) : Bool :=
  if a.isNaN then false else if b.isNaN then true else if desc then b.lt a else a.lt b

/-- Inserting an index into an ordered list, before the first that its key does not stand behind. -/
def insertKey (key : Nat → XVal) (desc : Bool) (i : Nat) : List Nat → List Nat
  | [] => [i]
  | j :: l => if keyBefore desc (key j) (key i) then j :: insertKey key desc i l else i :: j :: l

/-- The stable order of some indices by key (R147). -/
def sortKeys (key : Nat → XVal) (desc : Bool) (l : List Nat) : List Nat :=
  l.foldr (insertKey key desc) []

/-- VSORTK (R147): pairs of an active position and the index whose key and value it receives. -/
def Core.sortMoves (k : Core) (o : Ops) : List (Nat × Nat) :=
  (groupsOf (k.shapeO o.o0) (o.bit 15) false).flatMap fun g =>
    let act := g.filter fun i => (k.mask o.o4).getLsbD i
    act.zip (sortKeys (k.elemO o.o2) (o.bit 16) act)

/-- VSORTK (R147). DEDUCED, log entries 23 and 76. -/
def execVsortk (h : Hdr) (o : Ops) (s : State) : Out :=
  let t := Ops.dstTy o
  let u := Ops.srcTy o
  issue h o noPre (c7Body (Ty.isPlaneNum t && u != .f64)
    (fun k =>
      let d := k.shapeO o.o0
      [(0, d.hasTy t false), (1, (k.shapeO o.o1).fits u d), (2, (k.shapeO o.o2).fits t d),
       (3, (k.shapeO o.o3).fits u d)])
    fun k =>
      let mv := k.sortMoves o
      (k.setElems o.o0.planeNo t.width (mv.map fun x => (x.1, k.elem o.o2.planeNo t.width x.2))).setElems
        o.o1.planeNo u.width (mv.map fun x => (x.1, k.elem o.o3.planeNo u.width x.2))) s

/-! ### Segmented reduction (R148) -/

/-- The running results of a list of active elements: `seg` holds the values of the open segment, `key` its key. Under SR each
element draws once, an integer too. DEDUCED, log entry 79. -/
def Core.segRun (k : Core) (o : Ops) (t u : Ty) :
    List Nat → Nat → List Nat → RSt → List (Nat × Nat) × RSt
  | [], _, _, st => ([], st)
  | i :: l, key, seg, st =>
    let b := k.elem o.o2.planeNo u.width i
    let seg' := if seg.isEmpty || b != key then [i] else seg ++ [i]
    let op := o.mod 16 2
    let c := k.ctx7 o
    let (x, st) := if t.isInt then
        (wrapI t.width (t.reduce (o.bit 9) (foldI op t (seg'.map (k.elemI o.o3.planeNo (k.shapeO o.o3))))),
          (st.draw c.mode).1)
      else roundRes c t (foldX op (c.mode == .rd) (seg'.map (k.elemO o.o3))) st
    let (r, st) := k.segRun o t u l b seg' st
    ((i, x) :: r, st)

/-- The last active elements of their segments. -/
def Core.segEnds (k : Core) (o : Ops) (u : Ty) : List Nat → List Nat
  | [] => []
  | [i] => [i]
  | i :: j :: l =>
    if k.elem o.o2.planeNo u.width i = k.elem o.o2.planeNo u.width j then k.segEnds o u (j :: l)
    else i :: k.segEnds o u (j :: l)

/-- The segments of every group. -/
def Core.segGroups (k : Core) (o : Ops) (t u : Ty) : List (List Nat) → RSt → List (Nat × Nat) × RSt
  | [], st => ([], st)
  | g :: l, st =>
    let act := g.filter fun i => (k.mask o.o4).getLsbD i
    let (a, st) := k.segRun o t u act 0 [] st
    let (r, st) := k.segGroups o t u l st
    (a ++ r, st)

/-- VSEGRED (R148): keys of a block type have scaled shapes, which it has no other of. DEDUCED, log entry 80. -/
def execVsegred (h : Hdr) (o : Ops) (s : State) : Out :=
  let t := Ops.dstTy o
  let u := Ops.srcTy o
  issue h o noPre (c7Body (Ty.isPlaneNum t && u != .f64)
    (fun k =>
      let d := k.shapeO o.o0
      [(0, d.hasTy t false), (2, (k.shapeO o.o2).hasTy u u.isBx && (k.shapeO o.o2).sameDims d), (3, (k.shapeO o.o3).fits t d)])
    fun k =>
      let gs := groupsOf (k.shapeO o.o0) (o.bit 15) false
      let (l, st) := k.segGroups o t u gs k.rst
      let ends := gs.flatMap fun g => k.segEnds o u (g.filter fun i => (k.mask o.o4).getLsbD i)
      ((k.merge st).setElems o.o0.planeNo t.width l).setMask o.o1
        (maskOf ((List.range (k.shapeO o.o0).n).map ends.contains))) s

end Sys2Proof.Machine
end

