-- ==== Sys2Proof/Machine/Lattice.lean ====
section
/-!
DEFINITION. Sys2Proof/Machine/Lattice.lean: the meanings of class 0x8 (R149 to R162) and the arrival of a HALO edge (R155,
R156, R202).
-/

namespace Sys2Proof.Machine

open Sys2Proof

/-! ### Directions (R149, R150) -/

/-- The row step of a direction code. -/
def dirRow (d : Nat) : Int :=
  match d with
  | 0 | 1 | 7 => -1
  | 3 | 4 | 5 => 1
  | _ => 0

/-- The column step of a direction code. -/
def dirCol (d : Nat) : Int :=
  match d with
  | 1 | 2 | 3 => 1
  | 5 | 6 | 7 => -1
  | _ => 0

/-- Is a direction diagonal? -/
def dirDiag (d : Nat) : Bool := d % 2 == 1

/-- The boundary modes of a shift (R151). -/
inductive Bound where
  | zero | const | clamp | wrap | edge | halo
  deriving DecidableEq, Repr

/-- The mode of a modifier; codes 6 and 7 are refused by the decoder. -/
def boundOf (n : Nat) : Bound :=
  match n with
  | 1 => .const
  | 2 => .clamp
  | 3 => .wrap
  | 4 => .edge
  | 5 => .halo
  | _ => .zero

/-- The direction of a shift. -/
def Ops.dir (o : Ops) : Nat := o.mod 0 3
/-- The mode of a shift. -/
def Ops.bound (o : Ops) : Bound := boundOf (o.mod 3 3)
/-- The .gw bit of a shift. -/
def Ops.gw (o : Ops) : Bool := o.bit 6

/-- Where a site of a shift's destination takes its element from (R153): a site of the source, a site of the edge
plane, the fill, or element `j` of the incoming edge. -/
inductive From where
  | src (i : Nat)
  | edge (i : Nat)
  | fill
  | halo (j : Nat)
  deriving DecidableEq, Repr

/-- `n mod m` of an integer, in 0 to m − 1. -/
def modN (n : Int) (m : Nat) : Nat := (n % (m : Int)).toNat

/-- Clamping an integer index into 0 to m − 1. -/
def clampN (n : Int) (m : Nat) : Nat := (min (max n 0) ((m : Int) - 1)).toNat

/-- The origin of site `i` of a destination of `rows × cols` sites (R153). -/
def shiftFrom (d : Nat) (b : Bound) (rows cols i : Nat) : From :=
  let sr : Int := ((i / cols : Nat) : Int) - dirRow d
  let sc : Int := ((i % cols : Nat) : Int) - dirCol d
  if 0 ≤ sr ∧ sr < rows ∧ 0 ≤ sc ∧ sc < cols then .src (sr.toNat * cols + sc.toNat)
  else match b with
    | .zero | .const => .fill
    | .clamp => .src (clampN sr rows * cols + clampN sc cols)
    | .wrap => .src (modN sr rows * cols + modN sc cols)
    | .edge => .edge (modN sr rows * cols + modN sc cols)
    | .halo => .halo (if dirRow d = 0 then i / cols else i % cols)

/-! ### VSHIFT (R151 to R156) -/

/-- The checks of VSHIFT (R152): a diagonal with .edge or .halo, then the shapes. -/
def Core.shiftBad (k : Core) (o : Ops) : Option Nat :=
  let d := k.shapeO o.o0
  let b := Ops.bound o
  if dirDiag (Ops.dir o) && (b == .edge || b == .halo) then some 5
  else firstBad [(0, !d.scaled), (1, (k.shapeO o.o1).fits d.ty d), (2, b != .edge || (k.shapeO o.o2).fits d.ty d)]

/-- The partner of a core in the gang at `sign` times the direction's steps: modulo the gang under .gw, else inside it
(R154). -/
def haloPartner (g : Gang) (gx gy d : Nat) (sign : Int) (gw : Bool) : Option (Nat × Nat) :=
  let x : Int := (gx : Int) + sign * dirCol d
  let y : Int := (gy : Int) + sign * dirRow d
  let w := 2 * g.launch.w
  let h := 2 * g.launch.h
  if gw then some (modN x w, modN y h)
  else if 0 ≤ x ∧ x < w ∧ 0 ≤ y ∧ y < h then some (x.toNat, y.toNat)
  else none

/-- The sites of the outgoing edge of an axis direction, in order (R154). -/
def edgeSites (d rows cols : Nat) : List Nat :=
  match d with
  | 0 => List.range cols
  | 2 => (List.range rows).map fun r => r * cols + (cols - 1)
  | 4 => (List.range cols).map fun c => (rows - 1) * cols + c
  | _ => (List.range rows).map fun r => r * cols

/-- A list of elements of width `w` concatenated from element 0 upward (R155). -/
def concatBits (w : Nat) (l : List Nat) : Nat := l.foldr (fun x acc => x % 2 ^ w + 2 ^ w * acc) 0

/-- The elements that a shift writes when the incoming edge is not there: every site but those of the edge. -/
def Core.shiftElems (k : Core) (o : Ops) (fill : Nat) : List (Nat × Nat) :=
  let d := k.shapeO o.o0
  let w := d.ty.width
  (List.range d.n).filterMap fun i =>
    match shiftFrom (Ops.dir o) (Ops.bound o) d.rows d.cols i with
    | .src j => some (i, k.elem o.o1.planeNo w j)
    | .edge j => some (i, k.elem o.o2.planeNo w j)
    | .fill => some (i, fill)
    | .halo _ => none

/-- The elements of the edge of a destination of shape `h`, taken from a message's bits (R155). -/
def haloElems (d : Nat) (h : Shape) (bits : Nat) : List (Nat × Nat) :=
  (List.range h.n).filterMap fun i =>
    match shiftFrom d .halo h.rows h.cols i with
    | .halo j => some (i, bits / 2 ^ (j * h.ty.width) % 2 ^ h.ty.width)
    | _ => none

/-- The bits of an edge message whose every element is the fill value. -/
def fillBits (h : Shape) (x : Nat) : Nat := concatBits h.ty.width (List.replicate (max h.rows h.cols) x)

/-- Writing a pending destination, its interior and its edge together (R156). -/
def Core.fillHalo (k : Core) (p : HaloPend) (bits : Nat) : Core :=
  let h := shapeOf p.shp
  k.setElems p.dst h.ty.width (p.inner ++ haloElems p.dir h bits)

/-- The fill value of a .const or .halo shift: the register, or imm32 sign-extended. -/
def Core.shiftFill (k : Core) (o : Ops) : Nat := if Ops.bound o = .zero then 0 else (k.word o.o2 o.sext).toNat

/-- Sending the outgoing edge to a partner: the census rises (R154, R202). -/
def State.sendEdge (s : State) (g : Gang) (o : Ops) : State :=
  match haloPartner g s.me.gx s.me.gy (Ops.dir o) 1 (Ops.gw o) with
  | none => s
  | some (x, y) =>
    let h := s.me.shapeO o.o1
    let w := h.ty.width
    let bits := concatBits w ((edgeSites (Ops.dir o) h.rows h.cols).map (s.me.elem o.o1.planeNo w))
    s.setGang { g with edges := g.edges ++ [⟨Fin.ofNat 8 (Ops.dir o), x, y, bits⟩], census := g.census + 1 }

/-- The first buffered edge of a direction, and the buffer without it. -/
def takeEdge (d : Fin 8) : List (Fin 8 × Nat) → Option (Nat × List (Fin 8 × Nat))
  | [] => none
  | (e, b) :: l =>
    if e = d then some (b, l)
    else match takeEdge d l with
      | some (x, r) => some (x, (e, b) :: r)
      | none => none

/-- Receiving the incoming edge at issue (R154 to R156): the destination is written at once where there is no incoming partner, or where an
edge of the direction is buffered and no earlier shift waits for one; otherwise the destination stays pending and the
census rises. A shift without an incoming partner takes no edge. DEDUCED, log entries 30 and 77. -/
def State.recvEdge (s : State) (g : Gang) (o : Ops) : State :=
  let k := s.me
  let d : Fin 8 := Fin.ofNat 8 (Ops.dir o)
  let p : HaloPend := ⟨d, o.o0.planeNo, k.shp[o.o0.planeNo], k.shiftElems o (k.shiftFill o)⟩
  match haloPartner g k.gx k.gy (Ops.dir o) (-1) (Ops.gw o) with
  | none => s.setMe (k.fillHalo p (fillBits (shapeOf p.shp) (k.shiftFill o)))
  | some _ =>
    match k.haloPend.any (·.dir == d), takeEdge d k.edges with
    | false, some (bits, rest) => (s.setMe ({ k with edges := rest }.fillHalo p bits)).lower g.gid 1
    | _, _ => (s.setMe { k with haloPend := k.haloPend ++ [p] }).raise g.gid 1

/-- VSHIFT (R153, R154). DEDUCED, log entry 30. -/
def vshiftAct (o : Ops) (s : State) : Act :=
  match s.me.shiftBad o with
  | some i => illfmt i
  | none =>
    let k := s.me
    let k' := k.setElems o.o0.planeNo (k.shapeO o.o0).ty.width (k.shiftElems o (k.shiftFill o))
    if Ops.bound o = .halo then
      match s.gangAt k with
      | none => .go (s.setMe k')
      | some g => .go ((s.sendEdge g o).recvEdge g o)
    else .go (s.setMe k')

/-- VSHIFT (R151). -/
def execVshift (h : Hdr) (o : Ops) (s : State) : Out := issue h o noPre (vshiftAct o) s

/-- The first edge in the mesh for a core and a direction, and the others. -/
def takeMesh (d : Fin 8) (gx gy : Nat) : List Edge → Option (Edge × List Edge)
  | [] => none
  | e :: l =>
    if e.dir = d ∧ e.gx = gx ∧ e.gy = gy then some (e, l)
    else match takeMesh d gx gy l with
      | some (x, r) => some (x, e :: r)
      | none => none

/-- The first shift of a direction that waits for its edge, and the others. -/
def takePend (d : Fin 8) : List HaloPend → Option (HaloPend × List HaloPend)
  | [] => none
  | p :: l =>
    if p.dir = d then some (p, l)
    else match takePend d l with
      | some (x, r) => some (x, p :: r)
      | none => none

/-- The core of a gang that sent an edge: the one against its direction, around the gang where the edge came so (R154). -/
def Gang.edgeFrom (g : Gang) (gx gy : Nat) (dir : Fin 8) : CoreId := match haloPartner g gx gy dir.val (-1) true with
  | some (x, y) => g.coreAt x y
  | none => g.coreAt gx gy

/-- HALO_EDGE_ARRIVAL (R155, R156): the oldest edge in the mesh for the core and direction completes the oldest shift
that waits for it, which lowers the census for the edge and for the shift; or it is buffered while fewer than four of
the direction are. It waits at its sender while the port there has no credit (R203, R220). -/
def execHaloEdgeArrival (c : CoreId) (dir : Fin 8) (s : State) : Out :=
  let k := s.core c
  match s.gangAt k with
  | none => .next s
  | some g =>
    if g.phase = .killing || !s.portOpen (corePort (g.edgeFrom k.gx k.gy dir)) then .next s
    else match takeMesh dir k.gx k.gy g.edges with
      | none => .next s
      | some (e, rest) =>
        match takePend dir k.haloPend with
        | some (p, ps) =>
          .next (((s.setGang { g with edges := rest }).setCore c
            ({ k with haloPend := ps }.fillHalo p e.bits)).lower g.gid 2)
        | none =>
          if (k.edges.filter (·.1 == dir)).length < 4 then
            .next ((s.setGang { g with edges := rest }).setCore c { k with edges := k.edges ++ [(dir, e.bits)] })
          else .next s

/-! ### Mask logic (R157, R158) -/

/-- A mask operation over all 8,192 bits. -/
def maskOp (o : Ops) (f : BitVec 8192 → BitVec 8192 → BitVec 8192) : State → Act :=
  onCore fun k => k.setMask o.o0 (f (k.mask o.o1) (k.mask o.o2))

/-- MAND (R157). -/
def execMand (h : Hdr) (o : Ops) (s : State) : Out := issue h o noPre (maskOp o fun a b => a &&& b) s
/-- MOR (R157). -/
def execMor (h : Hdr) (o : Ops) (s : State) : Out := issue h o noPre (maskOp o fun a b => a ||| b) s
/-- MXOR (R157). -/
def execMxor (h : Hdr) (o : Ops) (s : State) : Out := issue h o noPre (maskOp o fun a b => a ^^^ b) s
/-- MANDN (R157). -/
def execMandn (h : Hdr) (o : Ops) (s : State) : Out := issue h o noPre (maskOp o fun a b => a &&& ~~~b) s
/-- MNOT (R157). -/
def execMnot (h : Hdr) (o : Ops) (s : State) : Out := issue h o noPre (maskOp o fun a _ => ~~~a) s
/-- MMOV (R157). -/
def execMmov (h : Hdr) (o : Ops) (s : State) : Out := issue h o noPre (maskOp o fun a _ => a) s

/-- The count of MPOP and MANY (R158). -/
def Core.maskCount (k : Core) (o : Ops) : Nat := min (k.word o.o2 o.sext).toNat 8192

/-- MPOP (R158). -/
def execMpop (h : Hdr) (o : Ops) (s : State) : Out :=
  issue h o noPre (onCore fun k =>
    k.setWord o.o0 (BitVec.ofNat 64 (active (k.mask o.o1) (k.maskCount o)).length)) s

/-- MANY (R158). -/
def execMany (h : Hdr) (o : Ops) (s : State) : Out :=
  issue h o noPre (onCore fun k =>
    let l := (List.range (k.maskCount o)).map fun i => (k.mask o.o1).getLsbD i
    k.setPred o.o0 (if o.bit 0 then l.all id else l.any id)) s

/-! ### MSHIFT, MRULE, MEDGE (R159 to R161) -/

/-- MSHIFT (R159): the shift of R153 with element width 1. -/
def mshiftAct (o : Ops) (s : State) : Act :=
  let b := Ops.bound o
  let d := Ops.dir o
  let k := s.me
  let h := k.shapeO o.o2
  if b == .halo || (b == .edge && dirDiag d) then illfmt 5
  else
    let bit := fun i => match shiftFrom d b h.rows h.cols i with
      | .src j => (k.mask o.o1).getLsbD j
      | .edge j => (k.mask o.o3).getLsbD j
      | .fill => b == .const && o.imm.getLsbD 0
      | .halo _ => false
    .go (s.setMe (k.setMask o.o0 (maskOf ((List.range h.n).map bit))))

/-- MSHIFT (R159). -/
def execMshift (h : Hdr) (o : Ops) (s : State) : Out := issue h o noPre (mshiftAct o) s

/-- The rule-presence set of some identifiers (R160). -/
def ruleSet (l : List Nat) : Word := l.foldl (fun acc n => acc ||| (1 <<< min n 63)) 0

/-- MRULE (R160). -/
def mruleAct (o : Ops) (s : State) : Act :=
  let k := s.me
  let h := k.shapeO o.o2
  if !((h.ty == .n8 || h.ty == .n16) && !h.scaled) then illfmt 2
  else
    let m := k.mask o.o4
    let id := k.elem o.o2.planeNo h.ty.width
    let key := (k.word o.o3 o.sext).toNat
    let k' := k.setMask o.o0 (maskOf ((List.range h.n).map fun i => m.getLsbD i && id i == key))
    .go (s.setMe (k'.setWord o.o1 (ruleSet ((active m h.n).map id))))

/-- MRULE (R160). -/
def execMrule (h : Hdr) (o : Ops) (s : State) : Out := issue h o noPre (mruleAct o) s

/-- The side bits of MEDGE (R161). -/
def edgeBits (m : BitVec 8192) (h : Shape) : Word :=
  let at_ := fun r c => m.getLsbD (r * h.cols + c)
  let row := fun r => (List.range h.cols).any (at_ r)
  let col := fun c => (List.range h.rows).any fun r => at_ r c
  let bits := [row 0, at_ 0 (h.cols - 1), col (h.cols - 1), at_ (h.rows - 1) (h.cols - 1), row (h.rows - 1),
    at_ (h.rows - 1) 0, col 0, at_ 0 0]
  BitVec.ofNat 64 (bits.foldr (fun b acc => b.toNat + 2 * acc) 0)

/-- MEDGE (R161). -/
def execMedge (h : Hdr) (o : Ops) (s : State) : Out :=
  issue h o noPre (onCore fun k => k.setWord o.o0 (edgeBits (k.mask o.o1) (k.shapeO o.o2))) s

/-! ### Activity bitmaps (R162) -/

/-- An activity access at `a`: alignment and range, then the wait of R21. It does not wait for a remote access of its firing that
names its own core, to which R198 gives no place in the core's program order. DEDUCED, log entry 24; DEDUCED, log entry 70. -/
def actAccess (a : Word) (f : Core → Core) (s : State) : Act :=
  if !lsOk a.toNat 8 then .trap cALIGN a
  else s.lsThen [(a.toNat, 8)] fun s => .go (s.setMe (f s.me))

/-- ACTRD (R162): the immediate is the index, and leaves no offset. A base plus offset wraps at 2^64. DEDUCED, log entry 24.
DEDUCED, log entry 94. -/
def execActrd (h : Hdr) (o : Ops) (s : State) : Out :=
  issue h o noPre (fun s =>
    let a := if o.o2 = .imm then s.me.word o.o1 0 else addOff (s.me.word o.o1 0) o.imm
    actAccess a (fun k =>
      k.setPred o.o0 ((k.lsRead a.toNat 8).testBit ((k.word o.o2 o.zext).toNat % 64))) s) s

/-- Is the value of ACTWR.put non-zero? -/
def Core.putBit (k : Core) (x : Operand) : Bool :=
  match x with
  | .p i => k.getP i
  | x => k.word x 0 != 0

/-- The new word of ACTWR (R162). -/
def actNew (op : Nat) (old x : Word) (put : Bool) : Word :=
  let j := x.toNat % 64
  let bit : Word := 1 <<< j
  match op with
  | 0 => old ||| bit
  | 1 => old &&& ~~~bit
  | 2 => if put then old ||| bit else old &&& ~~~bit
  | _ => old ||| x

/-- ACTWR (R162). A base plus offset wraps at 2^64. DEDUCED, log entry 94. -/
def execActwr (h : Hdr) (o : Ops) (s : State) : Out :=
  issue h o noPre (fun s =>
    let a := if o.o1 = .imm then s.me.word o.o0 0 else addOff (s.me.word o.o0 0) o.imm
    actAccess a (fun k =>
      let old := BitVec.ofNat 64 (k.lsRead a.toNat 8)
      k.lsWrite a.toNat 8 (actNew (o.mod 0 2) old (k.word o.o1 o.zext) (k.putBit o.o2)).toNat) s) s

end Sys2Proof.Machine
end

