-- ==== Sys2Proof/Machine/Matrix.lean ====
section
/-!
DEFINITION. Sys2Proof/Machine/Matrix.lean: the meanings of class 0x9 (R164 to R175): the accumulators, dense and sparse
products, and the moves between accumulators and planes.
-/

namespace Sys2Proof.Machine

open Sys2Proof

/-! ### Accumulators (R164) -/

/-- Element `i` of an accumulator, its 32 bits. -/
def Core.accBits (k : Core) (a : Fin 4) (i : Nat) : Nat := getBits k.acc[a] (32 * i) 32

/-- Writing elements of an accumulator; every other one keeps its bits. -/
def Core.setAcc (k : Core) (a : Fin 4) (l : List (Nat × Nat)) : Core :=
  { k with acc := k.acc.set a (putElems k.acc[a] 32 l) }

/-- MZERO (R167). -/
def execMzero (h : Hdr) (o : Ops) (s : State) : Out :=
  issue h o noPre (onCore fun k => { k with acc := k.acc.set o.o0.accNo 0 }) s

/-! ### Products (R168 to R172) -/

/-- The groups of R168; a type outside them takes no part in a product. -/
inductive Group where
  | bf16 | f16 | float8 | int8 | float4
  deriving DecidableEq, Repr

/-- The group of a type. -/
def groupOf : Ty → Option Group
  | .bf16 => some .bf16
  | .f16 => some .f16
  | .e4m3 | .e5m2 | .bx8 => some .float8
  | .s8 | .n8 => some .int8
  | .e2m1 | .bx4 => some .float4
  | _ => none

/-- The greatest K of a group (R168). -/
def Group.kMax : Group → Nat
  | .bf16 | .f16 => 32
  | .float8 | .int8 => 64
  | .float4 => 128

/-- Is a rounding code other than RNE named (R168, R170)? -/
def Ops.notRne (o : Ops) : Bool := o.bit 8 && o.mod 5 3 != 0

/-- The sum of R169: NaN where both infinities, a NaN or 0 · ∞ take part; the flags are those of the terms and of
infinities that meet. DEDUCED, log entry 15. -/
def macSum (c : XVal) (terms : List XRes) : XRes :=
  let f := terms.foldl (fun acc x => acc ||| x.2) (0 : FpFlags)
  let r := sumX false (c :: terms.map (·.1))
  (r.1, f ||| r.2)

/-- One element of a float product: the exact dot product added to the accumulator, rounded once to FP32 (R169). -/
def macFloat (z : Bool) (acc : Nat) (terms : List XRes) (st : RSt) : Nat × RSt :=
  let c := if z then XVal.zero true else Ty.f32.decodeF false acc
  roundRes ⟨.rne, false, false⟩ .f32 (macSum c terms) st

/-- One element of an integer product (R169): wraps, no flag. -/
def macInt (z : Bool) (acc : Nat) (d : Int) : Nat := wrapI 32 ((if z then 0 else signedOf 32 acc) + d)

/-- The window of an `M × N` product in an accumulator: accumulator index, row and column. -/
def window (m n : Nat) : List (Nat × Nat × Nat) :=
  (List.range m).flatMap fun i => (List.range n).map fun j => (i * 64 + j, i, j)

/-- A product's effect: `a i e` is element `e` of row `i` of A, `b i e j` the element of B that it multiplies. -/
def Core.product (k : Core) (o : Ops) (isInt : Bool) (m n kk : Nat) (ax : Nat → Nat → XVal) (bx : Nat → Nat → Nat → XVal)
    (ai : Nat → Nat → Int) (bi : Nat → Nat → Nat → Int) : Core :=
  let acc := o.o0.accNo
  let z := o.bit 14
  let w := window m n
  if isInt then
    k.setAcc acc (w.map fun x =>
      (x.1, macInt z (k.accBits acc x.1)
        ((List.range kk).foldl (fun d e => d + ai x.2.1 e * bi x.2.1 e x.2.2) 0)))
  else
    let f := fun (x : Nat × Nat × Nat) st =>
      macFloat z (k.accBits acc x.1) ((List.range kk).map fun e => (ax x.2.1 e).mul (bx x.2.1 e x.2.2)) st
    let r := w.foldl (fun (p : List (Nat × Nat) × RSt) x =>
      let y := f x p.2
      (p.1 ++ [(x.1, y.1)], y.2)) ([], k.rst)
    (k.merge r.2).setAcc acc r.1

/-- Element `i` of a plane operand, never flushed (R170). -/
def Core.matX (k : Core) (x : Fin 32) (i : Nat) : XVal := k.elemX x (k.shape x) false i

/-- Element `i` of an integer or B1 plane operand. -/
def Core.matI (k : Core) (x : Fin 32) (i : Nat) : Int := k.elemI x (k.shape x) i

/-- The checks of MMA (R168). -/
def Core.mmaBad (k : Core) (o : Ops) : Option Nat :=
  match groupOf (o.ty 0) with
  | none => some 5
  | some g =>
    let a := k.shapeO o.o1
    let b := k.shapeO o.o2
    if groupOf (o.ty 9) != some g || Ops.notRne o then some 5
    else firstBad [(1, a.ty == o.ty 0 && decide (a.cols ≤ g.kMax)), (2, b.ty == o.ty 9 && b.cols == a.cols)]

/-- MMA (R169). -/
def mmaAct (o : Ops) (s : State) : Act :=
  let k := s.me
  match k.mmaBad o with
  | some i => illfmt i
  | none =>
    let a := k.shapeO o.o1
    let b := k.shapeO o.o2
    let pa := o.o1.planeNo
    let pb := o.o2.planeNo
    .go (s.setMe (k.product o (o.ty 0).isInt a.rows b.rows a.cols
      (fun i e => k.matX pa (i * a.cols + e)) (fun _ e j => k.matX pb (j * a.cols + e))
      (fun i e => k.matI pa (i * a.cols + e)) (fun _ e j => k.matI pb (j * a.cols + e))))

/-- MMA (R168). -/
def execMma (h : Hdr) (o : Ops) (s : State) : Out := issue h o noPre (mmaAct o) s

/-- The types of a sparse product (R172). -/
def sparseTypes (t u : Ty) : Bool :=
  (t == .bf16 && u == .bf16) || ((t == .e4m3 || t == .e5m2) && (u == .e4m3 || u == .e5m2))

/-- The second plane of a B pair (R171). -/
def pairNo (p : Fin 32) : Fin 32 := p + 1

/-- The checks of MMAS (R172): the modifier and the scaled shapes of A and of both planes of B, then the operands. An odd op2
names no pair, so that the register behind it is no operand.
DEDUCED, log entry 21. -/
def Core.mmasBad (k : Core) (o : Ops) : Option Nat :=
  let a := k.shapeO o.o1
  let b := k.shapeO o.o2
  let m := k.shapeO o.o3
  let kMax := if o.ty 0 = .bf16 then 32 else 64
  let even := o.o2.planeNo.val % 2 == 0
  if !sparseTypes (o.ty 0) (o.ty 9) || Ops.notRne o || a.scaled || b.scaled ||
      (even && (k.shape (pairNo o.o2.planeNo)).scaled) then some 5
  else firstBad
    [(1, a.ty == o.ty 0 && a.cols % 2 == 0 && decide (a.cols ≤ kMax)),
     (2, even && b.ty == o.ty 9 && b == k.shape (pairNo o.o2.planeNo) && b.cols == a.cols),
     (3, m.ty == .b1 && m.rows == a.rows && m.cols == 2 * a.cols)]

/-- The logical column of kept element `e` of row `i` (R171). -/
def Core.keptCol (k : Core) (o : Ops) (ka i e : Nat) : Nat :=
  let bit := fun j => k.elem o.o3.planeNo 1 (i * 2 * ka + j)
  4 * (e / 2) + bit (2 * e) + 2 * bit (2 * e + 1)

/-- Element `(c, j)` of the logical B of a pair (R171). -/
def Core.pairX (k : Core) (o : Ops) (ka c j : Nat) : XVal :=
  if c < ka then k.matX o.o2.planeNo (j * ka + c) else k.matX (pairNo o.o2.planeNo) (j * ka + (c - ka))

/-- MMAS (R171): it waits for the second plane of the pair too. -/
def mmasAct (o : Ops) (s : State) : Act :=
  let k := s.me
  match k.mmasBad o with
  | some i => illfmt i
  | none =>
    if s.regPending (.v (pairNo o.o2.planeNo)) then .wait
    else
      let a := k.shapeO o.o1
      let b := k.shapeO o.o2
      .go (s.setMe (k.product o false a.rows b.rows a.cols
        (fun i e => k.matX o.o1.planeNo (i * a.cols + e)) (fun i e j => k.pairX o a.cols (k.keptCol o a.cols i e) j)
        (fun _ _ => 0) (fun _ _ _ => 0)))

/-- MMAS (R172). -/
def execMmas (h : Hdr) (o : Ops) (s : State) : Out := issue h o noPre (mmasAct o) s

/-! ### Moves between accumulators and planes (R173 to R175) -/

/-- The accumulator index of plane element `i` under the origin of op2 (R173). -/
def Core.winIdx (k : Core) (o : Ops) (cols i : Nat) : Nat :=
  let org := k.word o.o2 o.zext
  (getBits org 0 6 + i / cols) % 64 * 64 + (getBits org 8 6 + i % cols) % 64

/-- The types of ACCRD (R174). -/
def accrdTypes (int : Bool) (t : Ty) : Bool := t.isInt || t.isPlaneFloat || (!int && t.isMx)

/-- The checks of ACCRD: a BX or B1 type fails at operand 0, another that the entry does not accept in the modifier. -/
def Core.accrdBad (k : Core) (o : Ops) : Option Nat :=
  let t := o.ty 0
  let d := k.shapeO o.o0
  if t.isBx || t == .b1 then some 0
  else if !accrdTypes (o.bit 9) t then some 5
  else firstBad [(0, d.hasTy t false && decide (d.cols ≤ 64))]

/-- One element of ACCRD (R174): under SR it draws once, an integer from an integer too. DEDUCED, log entry 79. -/
def accrdElem (c : RCtx) (int : Bool) (t : Ty) (bits : Nat) (st : RSt) : Nat × RSt :=
  let n := signedOf 32 bits
  if int && t.isInt then (wrapI t.width (t.reduce c.sat n), (st.draw c.mode).1)
  else roundTo c t (if int then XVal.ofInt n else Ty.f32.decodeF false bits) st

/-- ACCRD (R174). -/
def accrdAct (o : Ops) (s : State) : Act :=
  let k := s.me
  let t := o.ty 0
  match k.accrdBad o with
  | some i => illfmt i
  | none =>
    let d := k.shapeO o.o0
    let c := k.accCtx o (o.bit 10)
    let (l, st) := mapRound (fun i =>
      accrdElem c (o.bit 9) t (k.accBits o.o1.accNo (k.winIdx o d.cols i))) (active (k.mask o.o4) d.n) k.rst
    .go (s.setMe ((k.merge st).setElems o.o0.planeNo t.width l))

/-- ACCRD (R173). -/
def execAccrd (h : Hdr) (o : Ops) (s : State) : Out := issue h o noPre (accrdAct o) s

/-- The checks of ACCWR (R175): a block type, whose shapes are all scaled, fails at the plane. DEDUCED, log entry 21. -/
def Core.accwrBad (k : Core) (o : Ops) : Option Nat :=
  let t := o.ty 0
  let r := k.shapeO o.o1
  if !(t.isInt || (!o.bit 9 && t.isFloat && t != .f64)) then some 5
  else firstBad [(1, r.hasTy t false && decide (r.cols ≤ 64))]

/-- One element of ACCWR (R175): `acc` is the accumulator element's bits. A sum is rounded once, with the element exact, and
so draws once. DEDUCED, log entry 83. -/
def accwrElem (c : RCtx) (int add : Bool) (acc : Nat) (n : Int) (y : XVal) (st : RSt) : Nat × RSt :=
  if int then
    let v := Ty.s32.reduce c.sat n
    (wrapI 32 (if add then Ty.s32.reduce c.sat (signedOf 32 acc + v) else v), st)
  else if add then roundRes c .f32 (XVal.add (c.mode == .rd) (Ty.f32.decodeF false acc) y) st
  else roundTo c .f32 y st

/-- ACCWR (R175). -/
def accwrAct (o : Ops) (s : State) : Act :=
  let k := s.me
  match k.accwrBad o with
  | some i => illfmt i
  | none =>
    let r := k.shapeO o.o1
    let p := o.o1.planeNo
    let c := k.accCtx o (o.bit 10)
    let a := o.o0.accNo
    let (l, st) := mapRound (fun i =>
      accwrElem c (o.bit 9) (o.bit 11) (k.accBits a (k.winIdx o r.cols i)) (k.matI p i) (k.matX p i))
      (active (k.mask o.o4) r.n) k.rst
    .go (s.setMe ((k.merge st).setAcc a (l.map fun x => (k.winIdx o r.cols x.1, x.2))))

/-- ACCWR (R173). -/
def execAccwr (h : Hdr) (o : Ops) (s : State) : Out := issue h o noPre (accwrAct o) s

end Sys2Proof.Machine
end

