-- ==== Sys2Proof/Machine/Dispatch.lean ====
section
/-!
DEFINITION. Sys2Proof/Machine/Dispatch.lean: one arm per row of the opcode table, each one direct call of its meaning.
-/

namespace Sys2Proof.Machine

open Sys2Proof

def exec (i : Instr) (s : State) : Host.Outcome State Fault Refusal :=
  match i with
  | .nop h o => Sys2Proof.Machine.execNop h o s
  | .br h o => Sys2Proof.Machine.execBr h o s
  | .jmp h o => Sys2Proof.Machine.execJmp h o s
  | .call h o => Sys2Proof.Machine.execCall h o s
  | .ret h o => Sys2Proof.Machine.execRet h o s
  | .loop h o => Sys2Proof.Machine.execLoop h o s
  | .fin h o => Sys2Proof.Machine.execFin h o s
  | .brk h o => Sys2Proof.Machine.execBrk h o s
  | .eret h o => Sys2Proof.Machine.execEret h o s
  | .kill h o => Sys2Proof.Machine.execKill h o s
  | .add h o => Sys2Proof.Machine.execAdd h o s
  | .sub h o => Sys2Proof.Machine.execSub h o s
  | .mul h o => Sys2Proof.Machine.execMul h o s
  | .mulh h o => Sys2Proof.Machine.execMulh h o s
  | .div h o => Sys2Proof.Machine.execDiv h o s
  | .rem h o => Sys2Proof.Machine.execRem h o s
  | .min h o => Sys2Proof.Machine.execMin h o s
  | .max h o => Sys2Proof.Machine.execMax h o s
  | .and h o => Sys2Proof.Machine.execAnd h o s
  | .or h o => Sys2Proof.Machine.execOr h o s
  | .xor h o => Sys2Proof.Machine.execXor h o s
  | .andn h o => Sys2Proof.Machine.execAndn h o s
  | .shl h o => Sys2Proof.Machine.execShl h o s
  | .shr h o => Sys2Proof.Machine.execShr h o s
  | .sra h o => Sys2Proof.Machine.execSra h o s
  | .rot h o => Sys2Proof.Machine.execRot h o s
  | .bfx h o => Sys2Proof.Machine.execBfx h o s
  | .bfi h o => Sys2Proof.Machine.execBfi h o s
  | .clz h o => Sys2Proof.Machine.execClz h o s
  | .ctz h o => Sys2Proof.Machine.execCtz h o s
  | .popc h o => Sys2Proof.Machine.execPopc h o s
  | .cmp h o => Sys2Proof.Machine.execCmp h o s
  | .sel h o => Sys2Proof.Machine.execSel h o s
  | .movhi h o => Sys2Proof.Machine.execMovhi h o s
  | .fadd h o => Sys2Proof.Machine.execFadd h o s
  | .fsub h o => Sys2Proof.Machine.execFsub h o s
  | .fmul h o => Sys2Proof.Machine.execFmul h o s
  | .fdiv h o => Sys2Proof.Machine.execFdiv h o s
  | .fsqrt h o => Sys2Proof.Machine.execFsqrt h o s
  | .fma h o => Sys2Proof.Machine.execFma h o s
  | .fmin h o => Sys2Proof.Machine.execFmin h o s
  | .fmax h o => Sys2Proof.Machine.execFmax h o s
  | .fabs h o => Sys2Proof.Machine.execFabs h o s
  | .fneg h o => Sys2Proof.Machine.execFneg h o s
  | .fcmp h o => Sys2Proof.Machine.execFcmp h o s
  | .fcvt h o => Sys2Proof.Machine.execFcvt h o s
  | .fcvti h o => Sys2Proof.Machine.execFcvti h o s
  | .icvtf h o => Sys2Proof.Machine.execIcvtf h o s
  | .fclass h o => Sys2Proof.Machine.execFclass h o s
  | .pand h o => Sys2Proof.Machine.execPand h o s
  | .por h o => Sys2Proof.Machine.execPor h o s
  | .pxor h o => Sys2Proof.Machine.execPxor h o s
  | .pandn h o => Sys2Proof.Machine.execPandn h o s
  | .pnot h o => Sys2Proof.Machine.execPnot h o s
  | .pset h o => Sys2Proof.Machine.execPset h o s
  | .pget h o => Sys2Proof.Machine.execPget h o s
  | .mfc h o => Sys2Proof.Machine.execMfc h o s
  | .mtc h o => Sys2Proof.Machine.execMtc h o s
  | .ldl h o => Sys2Proof.Machine.execLdl h o s
  | .stl h o => Sys2Proof.Machine.execStl h o s
  | .vld h o => Sys2Proof.Machine.execVld h o s
  | .vst h o => Sys2Proof.Machine.execVst h o s
  | .vldm h o => Sys2Proof.Machine.execVldm h o s
  | .vstm h o => Sys2Proof.Machine.execVstm h o s
  | .vadd h o => Sys2Proof.Machine.execVadd h o s
  | .vsub h o => Sys2Proof.Machine.execVsub h o s
  | .vmul h o => Sys2Proof.Machine.execVmul h o s
  | .vdiv h o => Sys2Proof.Machine.execVdiv h o s
  | .vfma h o => Sys2Proof.Machine.execVfma h o s
  | .vmin h o => Sys2Proof.Machine.execVmin h o s
  | .vmax h o => Sys2Proof.Machine.execVmax h o s
  | .vabs h o => Sys2Proof.Machine.execVabs h o s
  | .vneg h o => Sys2Proof.Machine.execVneg h o s
  | .vsqrt h o => Sys2Proof.Machine.execVsqrt h o s
  | .vrcp h o => Sys2Proof.Machine.execVrcp h o s
  | .vrsq h o => Sys2Proof.Machine.execVrsq h o s
  | .vexp2 h o => Sys2Proof.Machine.execVexp2 h o s
  | .vlog2 h o => Sys2Proof.Machine.execVlog2 h o s
  | .vtanh h o => Sys2Proof.Machine.execVtanh h o s
  | .vfcmp h o => Sys2Proof.Machine.execVfcmp h o s
  | .vclamp h o => Sys2Proof.Machine.execVclamp h o s
  | .viadd h o => Sys2Proof.Machine.execViadd h o s
  | .visub h o => Sys2Proof.Machine.execVisub h o s
  | .vimul h o => Sys2Proof.Machine.execVimul h o s
  | .vimulh h o => Sys2Proof.Machine.execVimulh h o s
  | .vimin h o => Sys2Proof.Machine.execVimin h o s
  | .vimax h o => Sys2Proof.Machine.execVimax h o s
  | .viabs h o => Sys2Proof.Machine.execViabs h o s
  | .vshl h o => Sys2Proof.Machine.execVshl h o s
  | .vshr h o => Sys2Proof.Machine.execVshr h o s
  | .vand h o => Sys2Proof.Machine.execVand h o s
  | .vor h o => Sys2Proof.Machine.execVor h o s
  | .vxor h o => Sys2Proof.Machine.execVxor h o s
  | .vandn h o => Sys2Proof.Machine.execVandn h o s
  | .vlut4 h o => Sys2Proof.Machine.execVlut4 h o s
  | .vicmp h o => Sys2Proof.Machine.execVicmp h o s
  | .vsel h o => Sys2Proof.Machine.execVsel h o s
  | .vbcast h o => Sys2Proof.Machine.execVbcast h o s
  | .vmov h o => Sys2Proof.Machine.execVmov h o s
  | .viota h o => Sys2Proof.Machine.execViota h o s
  | .vpopc h o => Sys2Proof.Machine.execVpopc h o s
  | .vcvt h o => Sys2Proof.Machine.execVcvt h o s
  | .vquant h o => Sys2Proof.Machine.execVquant h o s
  | .vdequant h o => Sys2Proof.Machine.execVdequant h o s
  | .vreds h o => Sys2Proof.Machine.execVreds h o s
  | .vredr h o => Sys2Proof.Machine.execVredr h o s
  | .vscan h o => Sys2Proof.Machine.execVscan h o s
  | .vsortk h o => Sys2Proof.Machine.execVsortk h o s
  | .vsegred h o => Sys2Proof.Machine.execVsegred h o s
  | .vargx h o => Sys2Proof.Machine.execVargx h o s
  | .vshift h o => Sys2Proof.Machine.execVshift h o s
  | .mand h o => Sys2Proof.Machine.execMand h o s
  | .mor h o => Sys2Proof.Machine.execMor h o s
  | .mxor h o => Sys2Proof.Machine.execMxor h o s
  | .mandn h o => Sys2Proof.Machine.execMandn h o s
  | .mnot h o => Sys2Proof.Machine.execMnot h o s
  | .mmov h o => Sys2Proof.Machine.execMmov h o s
  | .mpop h o => Sys2Proof.Machine.execMpop h o s
  | .many h o => Sys2Proof.Machine.execMany h o s
  | .mrule h o => Sys2Proof.Machine.execMrule h o s
  | .medge h o => Sys2Proof.Machine.execMedge h o s
  | .actrd h o => Sys2Proof.Machine.execActrd h o s
  | .actwr h o => Sys2Proof.Machine.execActwr h o s
  | .mshift h o => Sys2Proof.Machine.execMshift h o s
  | .mzero h o => Sys2Proof.Machine.execMzero h o s
  | .mma h o => Sys2Proof.Machine.execMma h o s
  | .mmas h o => Sys2Proof.Machine.execMmas h o s
  | .accrd h o => Sys2Proof.Machine.execAccrd h o s
  | .accwr h o => Sys2Proof.Machine.execAccwr h o s
  | .send h o => Sys2Proof.Machine.execSend h o s
  | .recv h o => Sys2Proof.Machine.execRecv h o s
  | .peek h o => Sys2Proof.Machine.execPeek h o s
  | .steer h o => Sys2Proof.Machine.execSteer h o s
  | .merge h o => Sys2Proof.Machine.execMerge h o s
  | .rld h o => Sys2Proof.Machine.execRld h o s
  | .rst h o => Sys2Proof.Machine.execRst h o s
  | .ratom h o => Sys2Proof.Machine.execRatom h o s
  | .barg h o => Sys2Proof.Machine.execBarg h o s
  | .ld h o => Sys2Proof.Machine.execLd h o s
  | .st h o => Sys2Proof.Machine.execSt h o s
  | .ldro h o => Sys2Proof.Machine.execLdro h o s
  | .atom h o => Sys2Proof.Machine.execAtom h o s
  | .red h o => Sys2Proof.Machine.execRed h o s
  | .redv h o => Sys2Proof.Machine.execRedv h o s
  | .pref h o => Sys2Proof.Machine.execPref h o s
  | .cinv h o => Sys2Proof.Machine.execCinv h o s
  | .cflush h o => Sys2Proof.Machine.execCflush h o s
  | .dscinv h o => Sys2Proof.Machine.execDscinv h o s
  | .fence h o => Sys2Proof.Machine.execFence h o s
  | .afence h o => Sys2Proof.Machine.execAfence h o s
  | .dep h o => Sys2Proof.Machine.execDep h o s
  | .depw h o => Sys2Proof.Machine.execDepw h o s
  | .take h o => Sys2Proof.Machine.execTake h o s
  | .takep h o => Sys2Proof.Machine.execTakep h o s
  | .cpy h o => Sys2Proof.Machine.execCpy h o s
  | .cpyp h o => Sys2Proof.Machine.execCpyp h o s
  | .pcancel h o => Sys2Proof.Machine.execPcancel h o s
  | .clcount h o => Sys2Proof.Machine.execClcount h o s
  | .mxpose h o => Sys2Proof.Machine.execMxpose h o s
  | .mxout h o => Sys2Proof.Machine.execMxout h o s
  | .mseq h o => Sys2Proof.Machine.execMseq h o s
  | .own h o => Sys2Proof.Machine.execOwn h o s
  | .copy h o => Sys2Proof.Machine.execCopy h o s
  | .gather h o => Sys2Proof.Machine.execGather h o s
  | .iwalk h o => Sys2Proof.Machine.execIwalk h o s
  | .rast h o => Sys2Proof.Machine.execRast h o s
  | .resolve h o => Sys2Proof.Machine.execResolve h o s
  | .rmarch h o => Sys2Proof.Machine.execRmarch h o s
  | .rclear h o => Sys2Proof.Machine.execRclear h o s
  | .tlbi h o => Sys2Proof.Machine.execTlbi h o s
  | .shapeRegisterWrite n v => Sys2Proof.Machine.execShapeRegisterWrite n v s
  | .fpmodeWrite v => Sys2Proof.Machine.execFpmodeWrite v s
  | .fpflagsWrite v => Sys2Proof.Machine.execFpflagsWrite v s
  | .fpflagsRead d => Sys2Proof.Machine.execFpflagsRead d s
  | .lfsrWrite v => Sys2Proof.Machine.execLfsrWrite v s
  | .waysWrite c => Sys2Proof.Machine.execWaysWrite c s
  | .ptrootWrite v => Sys2Proof.Machine.execPtrootWrite v s
  | .walkctlWrite v => Sys2Proof.Machine.execWalkctlWrite v s
  | .wcfgWrite c => Sys2Proof.Machine.execWcfgWrite c s
  | .ctlregWrite n v => Sys2Proof.Machine.execCtlregWrite n v s
  | .schedSettingsWrite margin aging cap compaction => Sys2Proof.Machine.execSchedSettingsWrite margin aging cap compaction s
  | .bucketControlWrite port v => Sys2Proof.Machine.execBucketControlWrite port v s
  | .wdogLimitWrite limit => Sys2Proof.Machine.execWdogLimitWrite limit s
  | .firingSelect c => Sys2Proof.Machine.execFiringSelect c s
  | .trapActorStart c => Sys2Proof.Machine.execTrapActorStart c s
  | .engineFaultDelivery c slot => Sys2Proof.Machine.execEngineFaultDelivery c slot s
  | .loadReturn id => Sys2Proof.Machine.execLoadReturn id s
  | .writeAck id => Sys2Proof.Machine.execWriteAck id s
  | .tokenVisible id => Sys2Proof.Machine.execTokenVisible id s
  | .haloEdgeArrival c dir => Sys2Proof.Machine.execHaloEdgeArrival c dir s
  | .remoteLsAccess id => Sys2Proof.Machine.execRemoteLsAccess id s
  | .sliceAccess id => Sys2Proof.Machine.execSliceAccess id s
  | .pageWalk id => Sys2Proof.Machine.execPageWalk id s
  | .superblockMigration sb dst => Sys2Proof.Machine.execSuperblockMigration sb dst s
  | .sliceScrub q => Sys2Proof.Machine.execSliceScrub q s
  | .mittenScrub q => Sys2Proof.Machine.execMittenScrub q s
  | .clocheDepositArrival id => Sys2Proof.Machine.execClocheDepositArrival id s
  | .clocheMatchArrival id => Sys2Proof.Machine.execClocheMatchArrival id s
  | .clocheCancelArrival id => Sys2Proof.Machine.execClocheCancelArrival id s
  | .clocheCountArrival id => Sys2Proof.Machine.execClocheCountArrival id s
  | .clocheDelivery id => Sys2Proof.Machine.execClocheDelivery id s
  | .hostDeposit h body => Sys2Proof.Machine.execHostDeposit h body s
  | .hostWaitingDeposit h body => Sys2Proof.Machine.execHostWaitingDeposit h body s
  | .hostParkedTake h body => Sys2Proof.Machine.execHostParkedTake h body s
  | .hostParkedCopy h body => Sys2Proof.Machine.execHostParkedCopy h body s
  | .hostCancel h body => Sys2Proof.Machine.execHostCancel h body s
  | .hostBadRequest h body => Sys2Proof.Machine.execHostBadRequest h body s
  | .hostMemoryRead off n => Sys2Proof.Machine.execHostMemoryRead off n s
  | .hostMemoryWrite off data => Sys2Proof.Machine.execHostMemoryWrite off data s
  | .hostLineRecall pa data => Sys2Proof.Machine.execHostLineRecall pa data s
  | .launchTake => Sys2Proof.Machine.execLaunchTake s
  | .gangPlacement => Sys2Proof.Machine.execGangPlacement s
  | .gangMove g => Sys2Proof.Machine.execGangMove g s
  | .preemptDecision => Sys2Proof.Machine.execPreemptDecision s
  | .gangPreempt g => Sys2Proof.Machine.execGangPreempt g s
  | .saveImageMove g dst => Sys2Proof.Machine.execSaveImageMove g dst s
  | .gangRestore g => Sys2Proof.Machine.execGangRestore g s
  | .agingStep => Sys2Proof.Machine.execAgingStep s
  | .completionDeposit n => Sys2Proof.Machine.execCompletionDeposit n s
  | .completionRetry n => Sys2Proof.Machine.execCompletionRetry n s
  | .dusk g => Sys2Proof.Machine.execDusk g s
  | .gangRetire g => Sys2Proof.Machine.execGangRetire g s
  | .gangKill g => Sys2Proof.Machine.execGangKill g s
  | .killComplete g => Sys2Proof.Machine.execKillComplete g s
  | .wdogExpiry g => Sys2Proof.Machine.execWdogExpiry g s
  | .commandAccept c slot => Sys2Proof.Machine.execCommandAccept c slot s
  | .renderSlotAccept c slot => Sys2Proof.Machine.execRenderSlotAccept c slot s
  | .engineBurst c slot n => Sys2Proof.Machine.execEngineBurst c slot n s
  | .commandComplete c slot => Sys2Proof.Machine.execCommandComplete c slot s
  | .completionTokenSend c slot => Sys2Proof.Machine.execCompletionTokenSend c slot s
  | .binWork c slot bin => Sys2Proof.Machine.execBinWork c slot bin s
  | .rayMarch c slot => Sys2Proof.Machine.execRayMarch c slot s
  | .mittenCommandStart q => Sys2Proof.Machine.execMittenCommandStart q s
  | .mittenCommandComplete q => Sys2Proof.Machine.execMittenCommandComplete q s
  | .tlbiAck c => Sys2Proof.Machine.execTlbiAck c s
  | .fenceComplete c => Sys2Proof.Machine.execFenceComplete c s
  | .dscinvAck c => Sys2Proof.Machine.execDscinvAck c s
  | .windowPackageFold w => Sys2Proof.Machine.execWindowPackageFold w s
  | .leafFold w epoch leaf same others => Sys2Proof.Machine.execLeafFold w epoch leaf same others s
  | .spineFold w epoch => Sys2Proof.Machine.execSpineFold w epoch s
  | .windowHomeMerge w => Sys2Proof.Machine.execWindowHomeMerge w s
  | .epochDone w => Sys2Proof.Machine.execEpochDone w s
  | .linkFailure l => Sys2Proof.Machine.execLinkFailure l s
  | .switchFailure x => Sys2Proof.Machine.execSwitchFailure x s
  | .glarikFailure => Sys2Proof.Machine.execGlarikFailure s
  | .thermalThrottle => Sys2Proof.Machine.execThermalThrottle s
  | .thermalShutdown => Sys2Proof.Machine.execThermalShutdown s
  | .packageFatalError reason pa => Sys2Proof.Machine.execPackageFatalError reason pa s
  | .bonnetAccessRefused addr => Sys2Proof.Machine.execBonnetAccessRefused addr s
  | .dawn b => Sys2Proof.Machine.execDawn b s
  | .smbusAccess a => Sys2Proof.Machine.execSmbusAccess a s
  | .linkRetrain l within => Sys2Proof.Machine.execLinkRetrain l within s
  | .gddr7Refresh => Sys2Proof.Machine.execGddr7Refresh s
  | .boundaryScan internal => Sys2Proof.Machine.execBoundaryScan internal s

end Sys2Proof.Machine
end

