-- ==== Sys2Proof/Machine/Fetch.lean ====
section
/-!
DEFINITION. Sys2Proof/Machine/Fetch.lean: fetching an instruction (R56, R57): its translation, its faults, its 16 bytes,
and what a word that decodes to no instruction does (R72, R398).
-/

namespace Sys2Proof.Machine

open Sys2Proof

/-- What a fetch gives: a word, with the translation now in the TLBs, or the state that its fault leaves, or its wait. -/
inductive Fetched where
  | word (s : State) (w : IWord)
  | fault (s : State)

/-- A fatal fault of the fetch of the core whose turn it is (R57, R362): fpc and faddr are the fetched VA, save for an
error that the walk meets. -/
def State.fetchFault (s : State) (e : WalkErr) : State :=
  match s.me.gang, e.pa with
  | none, _ => s
  | some g, some pa => s.doom g ⟨stFault, e.cause, 0, BitVec.ofNat 64 pa, BitVec.ofNat 32 (coreIdVal s.cur), 0, 0⟩
  | some g, none => s.fatal g e.cause s.me.pc s.me.pc s.cur

/-- The fetch at the pc of the core whose turn it is. What its walk meets on the way stays where it faults (R236). It waits for the
credit of the homes that answer it (R220). -/
def State.fetch (s : State) (asid : BitVec 16) : Fetched :=
  let va := s.me.pc.toNat
  if inWindow va then .fault (s.fetchFault ⟨cSCRX, none⟩)
  else if s.xlateShut s.cur asid va then .fault s
  else match s.pageOf s.cur asid va with
    | .error e => .fault ((s.walkedFor s.cur asid va).fetchFault e)
    | .ok p => match s.placeIn .fetch p va with
      | .error c => .fault ((s.walkedFor s.cur asid va).fetchFault ⟨c, none⟩)
      | .ok pl =>
        let l := s.placeSites .fetch pl 16
        let t := ((s.walkedFor s.cur asid va).fillTlb s.cur p).correct (s.homeOf pl) l
        if !s.placeOpen pl then .fault s
        else if s.hardAt l then .fault (t.fetchFault ⟨cECCU, none⟩)
        else .word (t.countAccess s.cur pl) (BitVec.ofNat 128 (s.readAt pl 16))

/-- The trapval of a word that the decoder refuses: ERET and KILL outside a trap actor give 0, whatever their other
fields hold (R360, R361). DEDUCED, log entry 48. -/
def State.refusedVal (s : State) (w : IWord) (e : Nat) : Word :=
  let op := (w.extractLsb' 0 10).toNat
  if (op = 8 ∨ op = 9) ∧ !s.me.inTrap then 0 else BitVec.ofNat 64 e

/-- The drain bit of a word (R56). -/
def drainBit (w : IWord) : Bool := w.getLsbD 28

/-- A word that is no instruction takes ILLOP, once the drain that it asks for is over (R64, R71, R72). -/
def State.illop (s : State) (w : IWord) (e : Nat) : State :=
  if drainBit w && !s.drained then s else s.takeTrap s.cur cILLOP (s.refusedVal w e)

end Sys2Proof.Machine
end

