-- ==== Sys2Proof/Machine/Turns.lean ====
section
/-!
DEFINITION. Sys2Proof/Machine/Turns.lean: who moves next, where the agenda does not say: the cores in turn, and between
their instructions the steps that the machine has waiting. Also what an entry of the agenda that is no instruction does.
-/

namespace Sys2Proof.Machine

open Sys2Proof

/-! ### Waiting steps -/

/-- The step that an access waits for. -/
def Access.nextStep (a : Access) : Instr :=
  match a.phase, a.req with
  | .new, _ | .walk _ _, _ | .bad _, _ => .pageWalk a.id
  | .sent _, .cloche _ (.dep _) _ => .clocheDepositArrival a.id
  | .sent _, .cloche _ (.depw _ _) _ => .clocheDepositArrival a.id
  | .sent _, .cloche _ (.cancel _ _) _ => .clocheCancelArrival a.id
  | .sent _, .cloche _ (.count _) _ => .clocheCountArrival a.id
  | .sent _, .cloche _ _ _ => .clocheMatchArrival a.id
  | .sent _, r => if r.isRemote then .remoteLsAccess a.id else .sliceAccess a.id
  | _, r => if r.returns then .loadReturn a.id else .writeAck a.id

/-- The step that ends a hold. -/
def holdStep (c : CoreId) : Hold → List Instr
  | .fence _ _ _ _ => [.fenceComplete c]
  | .ways _ => [.waysWrite c]
  | .wcfg _ _ => [.wcfgWrite c]
  | .tlbi _ => [.tlbiAck c]
  | .dscinv => [.dscinvAck c]
  | .barrier => []

/-- The first open burst of a command that is not done; their number, with which the next row or non-zero opens, where none is. -/
def Cmd.nextBurst (c : Cmd) : Nat := c.bursts.findIdx fun b => !b.2.2.1

/-- The steps that a slot waits for. -/
def slotSteps (c : CoreId) (slot : Fin 8) (e : EngSlot) : List Instr :=
  (if e.fault.isSome then [.engineFaultDelivery c slot] else []) ++
  (match e.state, e.cmd with
    | .issued, some x => [if x.op.isData then .commandAccept c slot else .renderSlotAccept c slot]
    | .running, some x =>
      (if x.op.isData then [.engineBurst c slot x.nextBurst]
        else if x.op = .rmarch then [.rayMarch c slot]
        else ((x.binList.find? fun b => !x.done.contains b).map fun b => Instr.binWork c slot b).toList) ++
      [.commandComplete c slot]
    | .token, _ => [.completionTokenSend c slot]
    | _, _ => [])

/-- The steps that a core waits for. -/
def coreSteps (c : CoreId) (k : Core) : List Instr :=
  if k.gang.isNone then []
  else
    (if k.fire.isNone then [.firingSelect c] else []) ++ (if k.starting then [.trapActorStart c] else []) ++
    (match k.hold with
      | some h => holdStep c h
      | none => []) ++
    (((List.range 8).map (Fin.ofNat 8)).flatMap fun i => slotSteps c i k.eng[i])

/-- The tokens, the edges and the phases of a gang. One that was told to stop may reach Dusk and retire all the same (R205, R372). -/
def Gang.steps (g : Gang) : List Instr :=
  (g.insts.flatMap fun x => (x.toks.filter fun t => !t.visible).map fun t => .tokenVisible t.id) ++
  (g.edges.map fun e => .haloEdgeArrival (g.coreAt e.gx e.gy) e.dir) ++
  (if g.doom.isSome then [if g.phase = .killing then .killComplete g.gid else .gangKill g.gid]
    else match g.order, g.phase with
      | some (.save _), _ => [.dusk g.gid, .gangPreempt g.gid, .gangRetire g.gid]
      | some (.move _ _ _), _ => [.dusk g.gid, .gangMove g.gid, .gangRetire g.gid]
      | none, .resident => [.dusk g.gid]
      | none, .dusk => [.gangRetire g.gid]
      | none, .saved => [.gangRestore g.gid]
      | none, .killing => [])

/-- The steps that a slice waits for. -/
def sliceSteps (q : SliceId) (z : Slice) : List Instr :=
  (match z.mcmds with
    | [] => []
    | c :: _ => [if c.ended then .mittenCommandComplete q else .mittenCommandStart q]) ++
  ((z.parked.filter (·.got.isSome)).map fun p => .clocheDelivery p.id)

/-- The steps that a window waits for. A leaf's fold needs the other members' partial sums, which an agenda brings where
there are others. -/
def winSteps (w : Fin 4) (x : Win) : List Instr :=
  (if x.closed.isEmpty then [] else [.windowPackageFold w]) ++
  (x.leaf.map fun b => .leafFold w b.epoch (b.src / 64) true []) ++
  (x.spine.map fun b => .spineFold w b.epoch) ++
  (if x.home.isEmpty then [] else [.windowHomeMerge w]) ++
  (if x.merged.contains x.doneTo then [.epochDone w] else [])

/-- The steps of the dispatchers. -/
def State.dispatcherSteps (s : State) : List Instr :=
  (if s.head.isSome then [.gangPlacement, .preemptDecision] else if s.accepting then [.launchTake] else []) ++
  (if s.sched.aging = 0 then [] else [.agingStep]) ++
  (s.comps.map fun x => if x.busy then .completionRetry x.id else .completionDeposit x.id)

/-- The scrub that comes next, where an error stands anywhere. -/
def State.scrubSteps (s : State) : List Instr :=
  if s.upsets.isEmpty then [] else [.sliceScrub (Fin.ofNat 128 s.steps), .mittenScrub (Fin.ofNat 128 s.steps)]

/-- Every step that the machine has waiting. -/
def State.waitingSteps (s : State) : List Instr :=
  s.flight.map Access.nextStep ++
  (allCores.flatMap fun c => coreSteps c (s.core c)) ++
  s.gangs.flatMap Gang.steps ++
  (((List.range 128).map (Fin.ofNat 128)).flatMap fun q => sliceSteps q (s.slice q)) ++
  (s.far.flatMap fun x => sliceSteps x.q { x.sl with mcmds := [] }) ++
  (((List.range 4).map (Fin.ofNat 4)).flatMap fun w => winSteps w s.wins[w]) ++
  s.dispatcherSteps ++
  (s.movCount.filterMap fun x => if 4 ≤ x.2.2 then some (.superblockMigration x.1 x.2.1) else none) ++
  s.scrubSteps

/-! ### The choice -/

/-- The first core that can issue, from the one after the core that moved last. -/
def State.nextCore (s : State) : Option CoreId :=
  ((List.range 512).map fun i => Fin.ofNat 512 (s.cur.val + 1 + i)).find? s.canIssue

/-- The waiting step whose turn it is. -/
def State.nextEvent (s : State) : Option Instr :=
  let l := s.waitingSteps
  l[s.steps / 2 % l.length]?

/-- Who moves next where the agenda is empty: a core and a waiting step by turns, as far as there are both. DESIGN CHOICE,
log entry 1. -/
def State.choose (s : State) : Option Turn :=
  let core := s.nextCore.map Turn.core
  if s.steps % 2 = 0 then core <|> s.nextEvent.map Turn.event else s.nextEvent.map Turn.event <|> core

/-! ### Entries of an agenda -/

/-- A slice evicts a superblock of this package, which it writes back: it has its hashed home again (R234, R236, R237). No slice here
keeps a superblock of another package (R381). -/
def State.evictSuper (s : State) (sb : Nat) : State :=
  match s.memHome (512 * sb) with
  | none => s
  | some q =>
    let t := s.sweep q (superWords sb)
    { t with moved := t.moved.filter (·.1 != sb) }

/-- A replacement (R229, R231, R234, R273, R329). DESIGN CHOICE, log entry 46. -/
def State.evict (s : State) (e : Evict) : State :=
  match e with
  | .l1 c i => let k := s.core c; s.setCore c { k with l1 := dropNth k.l1 i }
  | .tlb c i => let k := s.core c; s.setCore c { k with tlb := dropNth k.tlb i }
  | .quadTlb q i => let z := s.slice q; s.setSlice q { z with tlb := dropNth z.tlb i }
  | .cdesc c i => let k := s.core c; s.setCore c { k with cdesc := dropNth k.cdesc i }
  | .edesc c i => let k := s.core c; s.setCore c { k with edesc := dropNth k.edesc i }
  | .tlb2 c i => let k := s.core c; s.setCore c { k with tlb2 := dropNth k.tlb2 i }
  | .renderDesc d i => { s with rdescs := s.rdescs.set d (dropNth s.rdescs[d] i) }
  | .dispDesc d i => { s with ddescs := s.ddescs.set d (dropNth s.ddescs[d] i) }
  | .hostDesc i => { s with hdescs := dropNth s.hdescs i }
  | .superblock sb => s.evictSuper sb

/-- Does a read of some bytes of plaintext memory meet an uncorrectable error? -/
def State.memHard (s : State) (pa n : Nat) : Bool := s.hardAt (s.readSites 0 pa n)

/-- Gauntlet deposits a launch tuple in the system LAUNCH region, which only it can reach (R207); a full region takes nothing, nor
does one whose descriptor or home has no credit for its answer (R220). An uncorrectable error in the descriptor is a fatal package
error (R237). DEDUCED, log entry 50. -/
def State.sysDeposit (s : State) (t : BitVec 512) : State :=
  match s.boot with
  | none => s
  | some b =>
    let pa := b.sysLaunch.toNat
    let d := BitVec.ofNat 512 (s.physRead 0 pa 64)
    let r := homeReq pa d (tupTag t)
    if !s.memOpen pa 64 then s
    else
      let u := s.correctMem 0 pa 64
      if s.memHard pa 64 then u.packageError 1 cECCU pa
      else if !s.dscOk d then u
      else if s.homeOpen r then (u.offer r t).getD u else s

/-- The home of a tuple in a region that other packages share; none where the descriptor has an uncorrectable error, which is theirs
to report. DEDUCED, log entry 50. -/
def State.remoteHome (s : State) (region : Nat) (t : BitVec 512) : Option HomeReq :=
  let d := BitVec.ofNat 512 (s.physRead 0 region 64)
  if region % 64 = 0 ∧ s.paOk region = true ∧ s.sysRegion region = false ∧ s.dscOk d = true ∧ s.memHard region 64 = false then
    some (homeReq region d (tupTag t))
  else none

/-- Has what another package sends to a line of a package credit to enter the mesh there: at the port of the link of a rail on which
the line's path from one of them runs (R219, R220, R387)? Only the mesh of this package is modelled. -/
def State.linkOpen (s : State) (pkg pa : Nat) : Bool :=
  pkg != s.pkg.toNat || s.pod.any fun p => p != s.pkg.toNat && s.portOpen (railPort (s.wayOf p s.pkg.toNat pa).1)

/-- Has this package's own part in an access of another package to some bytes of memory credit for its answer (R220)? -/
def State.ownOpen (s : State) (pa n : Nat) : Bool := paPkg pa != s.pkg.toNat || s.memOpen pa n

/-- Has what another package sends to a region, and what this one answers, credit: at the link, at the home, and at the homes of the
descriptor (R220)? -/
def State.regionOpen (s : State) (h : HomeReq) : Bool :=
  s.linkOpen h.pkg h.region && (h.pkg != s.pkg.toNat || s.homeOpen h) && s.ownOpen h.region 64

/-- What another package's read of a region's descriptor meets here, where nothing waits: its single-bit errors are corrected (R236). -/
def State.regionMeets (s : State) (region : Nat) : State :=
  if region % 64 = 0 ∧ s.paOk region = true ∧ s.sysRegion region = false ∧ s.linkOpen (paPkg region) region = true ∧
      s.ownOpen region 64 = true then s.correctMem 0 region 64 else s

/-- Another package of the pod writes memory, deposits a tuple or takes one (R222, R272 to R276, R381); a pod of one package
has no other. It waits for the credit of its link and of the homes here that answer it (R220). The single-bit errors that it meets are
corrected (R236); what meets an uncorrectable one is not performed, since the gang that it ends is another package's.
DEDUCED, log entry 50. -/
def State.remote (s : State) (r : Remote) : State :=
  if s.pod.all (· == s.pkg.toNat) then s
  else match r with
  | .write pa key data =>
    if ((List.range data.length).all fun i =>
        s.paOk (pa + i) && s.linkOpen (paPkg (pa + i)) (pa + i) && s.ownOpen (pa + i) 1) then
      let t := s.correctWrite key pa data.length
      if s.hardAt (s.writeSites key pa data.length) then t
      else
        let u := t.claim key pa data.length
        { u with mem := memWriteBytes u.mem pa data }
    else s
  | .deposit region t =>
    match s.remoteHome region t with
    | none => s.regionMeets region
    | some h =>
      let u := s.correctMem 0 region 64
      if s.regionOpen h then (u.offer h t).getD u else s
  | .take region pat =>
    match s.remoteHome region pat with
    | none => s.regionMeets region
    | some h =>
      let u := s.correctMem 0 region 64
      let t := u.examineAt h (tupTag pat)
      if !s.regionOpen h then s
      else if s.matchHard h (tupTag pat) then u.matchMeets h (tupTag pat)
      else match t.selectAt h pat with
        | some x => t.removeStored h.pkg h.q x.seq
        | none => t

/-- Is a row a step of its own, which an agenda may name? The instructions run where a core fetches them, and the inner
writes of MTC and MFC run within those. DESIGN CHOICE, log entry 61. -/
def Instr.ownStep (i : Instr) : Bool :=
  match i with
  | .shapeRegisterWrite _ _ | .fpmodeWrite _ | .fpflagsWrite _ | .fpflagsRead _ | .lfsrWrite _ | .ptrootWrite _
  | .walkctlWrite _ | .ctlregWrite _ _ => false
  | i => i.parts.isNone

/-! ### Time -/

/-- The credit of a bucket after some cycles and the flits that entered, each of which took a credit of 1 that was there (R220).
DESIGN CHOICE, log entry 13. -/
def Bucket.refill (b : Bucket) (cycles flits : Nat) : Bucket :=
  if bucketEn b.word then
    let full := min (bucketDepth b.word * 256) (b.credit + bucketRate b.word * cycles)
    { b with credit := full - 256 * min flits (full / 256) }
  else b

/-- The cycles of a step pass, and the buckets with them. DESIGN CHOICE, log entry 6. -/
def State.pass (s : State) : State :=
  let n := Config.elapsed s.steps
  { s with
    steps := s.steps + 1, tick := s.tick + n
    buckets := s.buckets.map fun b => b.refill n (Config.flits s.steps b.port) }

/-- The uncorrectable errors that tuples met on their way out of a Cloche way are a fatal package error (R237, R277, R375).
DEDUCED, log entry 57. -/
def State.reportStore (s : State) : State :=
  if s.storeErrs = 0 then s else ({ s with storeErrs := 0 } : State).packageError 2 cECCU 0

/-- The uncorrectable errors that slices met as they wrote lines back, and on which no access waits, enter their error logs and are a
fatal package error (R237). DEDUCED, log entry 57. -/
def State.reportBack (s : State) : State :=
  if s.backErrs.isEmpty then s
  else
    let t : State := { s with backErrs := [] }
    match s.backErrs.filter fun x => !s.awaited (.mem x.2) with
    | [] => t
    | x :: l => ((x :: l).foldl (fun (s : State) y => s.logErrors y.1 1) t).packageError (s.errorKind (.mem x.2)) cECCU (8 * x.2)

/-- The watchdog of every gang, which no step of another agent goes before (R365). -/
def State.watch (s : State) : State := s.gangs.foldl (fun s g => wdogStep g.gid s) s

/-- A step begins: its cycles pass, and what comes of itself has come: the errors that the step before met as it wrote tuples or lines
back, and the watchdog counts that have reached their limits (R237, R365). DESIGN CHOICE, log entry 6. -/
def State.advance (s : State) : State := s.reportStore.reportBack.pass.watch

end Sys2Proof.Machine
end

