-- ==== Sys2Proof/Machine/Step.lean ====
section
/-!
DEFINITION. Sys2Proof/Machine/Step.lean: one step of the machine, and the placing of a word for its next step.
-/

namespace Sys2Proof.Machine

open Sys2Proof

/-- The turn of a core: it fetches at its pc and runs the instruction that the word decodes to; a word that decodes to
none takes ILLOP (R57, R71, R72). -/
def coreTurn (c : CoreId) (s : State) : Out :=
  let s : State := { s with cur := c }
  if !s.canIssue c then .next s
  else match s.fetch s.asid with
    | .fault t => .next t
    | .word t w => match decode w with
      | .ok i => exec i t
      | .error e => .next (t.illop w e)

/-- One turn. An agenda may name only steps of their own; an instruction runs where a core fetches it.
DESIGN CHOICE, log entry 61. -/
def turn (t : Turn) (s : State) : Out :=
  match t with
  | .core c => coreTurn c s
  | .event i => if Instr.ownStep i then exec i s else .next s
  | .evict e => .next (s.evict e)
  | .upset u => .next { s with upsets := s.upsets ++ [u] }
  | .gauntlet t => .next (s.sysDeposit t)
  | .remote r => .next (s.remote r)

/-- One step: time passes, then the head of the agenda moves, or where there is none the agent that is chosen. A package
that has been powered down takes no step (R396). -/
def step (s : State) : Out :=
  if !s.powered then .fault .powerOff
  else
    let s := s.advance
    match s.agenda with
    | t :: r => turn t { s with agenda := r }
    | [] => match s.choose with
      | some t => turn t s
      | none => .next s

/-! ### A word as the next instruction

A program comes to run through a launch: Dawn, a launch tuple that the host deposits, LAUNCH_TAKE, GANG_PLACEMENT and
FIRING_SELECT. `withFetchWord` stands for that whole way: a gang of one quad on die 0, one of whose firings runs on core
0 at the word. -/

/-- The gang that `withFetchWord` places: one quad, one source actor on its first core. DESIGN CHOICE, log entry 2. -/
def probeGang : Gang where
  gid      := 1
  launch   := ⟨1, 1, false, false, 1, 0, 0, 0, 0, 0, 0, 0⟩
  img      := ⟨0, 0, none, none, [⟨0, 0, true, none, 0, 0, 1, 1, 0⟩], [], 0, 0⟩
  phase    := .resident
  qx       := 0
  qy       := 0
  onQuads  := true
  dusked   := false
  order    := none
  ways     := 0
  census   := 0
  insts    := []
  edges    := []
  barCount := none
  barIn    := []
  doom     := none
  limit    := 0
  placedAt := 0
  waitFrom := 0
  idleMark := 0
  cores    := []
  scratch  := []
  mcmds    := []
  resends  := []
  image    := []
  resvs    := []

/-- The page that holds the word: virtual page 0 on frame 0, kind RC. -/
def probePage : Page := ⟨1, 0, 0x1000, 0, 1, false, true, false, false, 0⟩

/-- Core 0 with a firing of the probe gang at address 0. -/
def Core.probe (k : Core) : Core :=
  { k with
    fire := some ⟨0, .normal, 0⟩, starting := false, susp := none, hold := none, gang := some 1, gx := 0, gy := 0, pc := 0
    tlb := probePage :: k.tlb }

/-- The word `w` as the instruction that the next step fetches and runs. DESIGN CHOICE, log entry 2. -/
def State.withFetchWord (s : State) (nbits w : Nat) : State :=
  { s.setCore 0 (s.core 0).probe with
    mem := memWriteN s.mem 0 (w % 2 ^ nbits) 16
    lineKeys := s.lineKeys.filter (·.1 != 0)
    gangs := probeGang :: s.gangs.filter (·.gid != 1)
    agenda := [.core 0] }

end Sys2Proof.Machine
end

