-- ==== Sys2Proof/WellFormed.lean ====
section
/-!
DEFINITION. Sys2Proof/WellFormed.lean: which instructions have a word (R58 to R70): the hint only on a memory
instruction, every operand of a class that its position accepts, imm32 and the modifier within the entry's values.
-/

namespace Sys2Proof

/-- A hint stands only on a memory instruction (R62, R70); a KILL has neither guard nor delay nor drain (R361). -/
def Hdr.wf (h : Hdr) (t : Fmt) : Bool := (h.hint == .normal || t.mem) && (!t.bare || h == ⟨.none, .normal, 0, false⟩)

/-- Every operand is accepted at its position, the immediate standing at most once (R59), imm32 and the modifier
within the format's values (R65). -/
def Ops.wf (o : Ops) (t : Fmt) : Bool :=
  t.p0.accepts o.o0 false &&
  t.p1.accepts o.o1 (o.o0 == .imm) &&
  t.p2.accepts o.o2 (o.o0 == .imm || o.o1 == .imm) &&
  t.p3.accepts o.o3 (o.o0 == .imm || o.o1 == .imm || o.o2 == .imm) &&
  t.p4.accepts o.o4 (o.o0 == .imm || o.o1 == .imm || o.o2 == .imm || o.o3 == .imm) &&
  (t.imm.err o.imm).isNone && (modErr t.mods o.md).isNone

/-- An instruction is well-formed when its format accepts it. The steps that no word encodes are not instructions of
a program and are never well-formed. -/
def Instr.wf (i : Instr) : Bool :=
  match i.parts with
  | none => false
  | some (op, h, o) =>
    match (fieldsOf op h o).fmt with
    | none => false
    | some t => h.wf t && o.wf t

/-- Well-formedness as a proposition; it is decidable. -/
abbrev WellFormed (i : Instr) : Prop := i.wf = true

end Sys2Proof
end

