-- ==== Sys2Proof/Safety.lean ====
section
/-!
DEFINITION. Sys2Proof/Safety.lean: the words in which claims about the machine are made: when an instruction may issue,
what it leaves of its core, and the invariant that every step keeps.
-/

namespace Sys2Proof.Machine

open Sys2Proof

/-- Is no drain outstanding that an instruction with header `h` asks for (R64)? -/
def State.clear (s : State) (h : Hdr) : Bool := !(h.drain && !s.drained)

/-- May an instruction with header `h` and operands `o` issue on the core whose turn it is: no drain is outstanding
(R64), its guard is known and true (R61), and no register that it names is still to be written (R8)? -/
def State.ready (s : State) (h : Hdr) (o : Ops) : Bool :=
  s.clear h && !h.guard.preds.any s.regPending && s.me.guard h.guard && !o.regs.any s.regPending

/-- The next state of an instruction that changes its own core alone, to `k`: the firing goes on to the next word. -/
def State.put (s : State) (k : Core) : State := (s.setMe k).issued s.cur s.nextPc

/-- Every instruction of constructor `i` completes where it may issue and `ok` holds: its core becomes `f`, nothing else
of the package changes, and the firing goes on to the next word. -/
def Completes (i : Hdr → Ops → Instr) (ok : Ops → State → Bool) (f : Ops → State → Core) : Prop :=
  ∀ (h : Hdr) (o : Ops) (s : State), s.ready h o = true → ok o s = true → exec (i h o) s = .next (s.put (f o s))

/-- Every instruction of constructor `i` completes where it may issue and `ok` holds: the package becomes `f`, and the
firing goes on at `pc`. -/
def Reaches (i : Hdr → Ops → Instr) (ok : Ops → State → Bool) (f : Ops → State → State) (pc : Ops → State → Word) : Prop :=
  ∀ (h : Hdr) (o : Ops) (s : State), s.ready h o = true → ok o s = true →
    exec (i h o) s = .next ((f o s).issued s.cur (pc o s))

/-- The address of the next word, as a target. -/
def onward (_ : Ops) (s : State) : Word := s.nextPc

/-- Every instruction of constructor `i` takes a trap where it may issue and `bad` holds. -/
def Traps (i : Hdr → Ops → Instr) (bad : Ops → State → Bool) (cause : Byte) (val : Ops → State → Word) : Prop :=
  ∀ (h : Hdr) (o : Ops) (s : State), s.ready h o = true → bad o s = true →
    exec (i h o) s = .next (s.takeTrap s.cur cause (val o s))

/-- Every instruction of constructor `i` waits at issue where `busy` holds: the step changes nothing. -/
def Waits (i : Hdr → Ops → Instr) (busy : Ops → State → Bool) : Prop :=
  ∀ (h : Hdr) (o : Ops) (s : State), s.ready h o = true → busy o s = true → exec (i h o) s = .next s

/-! ### Class 0x1 in the terms of R99 to R102 -/

/-- An instruction of class 0x1 has an integer type. -/
def intTyped (o : Ops) (_ : State) : Bool := (o.ty 0).isInt

/-- `Val(t, op1)` of R99. -/
def val1 (o : Ops) (s : State) : Int := s.me.valOf (o.ty 0) o.o1 o.sext
/-- `Val(t, op2)` of R99. -/
def val2 (o : Ops) (s : State) : Int := s.me.valOf (o.ty 0) o.o2 o.sext

/-- The core with an integer written to op0 by R99. -/
def wrote (o : Ops) (s : State) (n : Int) : Core := s.me.setWord o.o0 (BitVec.ofInt 64 n)

/-- The end of R102: clamped with sat, otherwise the low bits in the type. -/
def narrowed (o : Ops) (n : Int) : Int :=
  if o.bit 9 then min (max n (o.ty 0).minI) (o.ty 0).maxI else (o.ty 0).val (wrapI (o.ty 0).width n)

/-- The constructors of class 0x1 whose only check at issue is their type. -/
def intOps : List (Hdr → Ops → Instr) :=
  [.add, .sub, .mul, .mulh, .div, .rem, .min, .max, .and, .or, .xor, .andn, .shl, .shr, .sra, .rot, .clz, .ctz, .popc,
    .cmp, .sel]

/-! ### Floats in the terms of R78, R87 and R110 -/

/-- An instruction of class 0x2 has a scalar float type. -/
def fltTyped (o : Ops) (_ : State) : Bool := (o.ty 0).isScalarFloat

/-- The values of op1 and op2 under the type field (R110). -/
def flt1 (o : Ops) (s : State) : XVal := s.me.fltOf (o.ty 0) o.o1 o
/-- The value of op2. -/
def flt2 (o : Ops) (s : State) : XVal := s.me.fltOf (o.ty 0) o.o2 o

/-- The core with a result rounded once into type `t` and written to op0, zero-extended: the draw has advanced lfsr, and
the flags have entered fpflags (R87, R88, R92). -/
def rounded (o : Ops) (s : State) (t : Ty) (x : XRes) : Core :=
  let r := roundRes ⟨modeOf o s.me.scalarMode, false, false⟩ t x ⟨s.me.lfsr, 0⟩
  ({ s.me with lfsr := r.2.lfsr, fpflags := s.me.fpflags ||| r.2.flags } : Core).setWord o.o0 (BitVec.ofNat 64 r.1)

/-- Does the instruction round under RD, which gives an exact zero sum its sign (R91)? -/
def downward (o : Ops) (s : State) : Bool := modeOf o s.me.scalarMode == .rd

/-- The bits of op1 in its type. -/
def fltBits1 (o : Ops) (s : State) : Nat := s.me.fltBits (o.ty 0) o.o1 o

/-- A value is a number of a format that no other encoding holds: neither NaN nor an infinity. -/
def XVal.isNum : XVal → Bool
  | .zero _ | .fin _ _ _ => true
  | _ => false

/-! ### The local store in the terms of R20, R116 and R130 -/

/-- The address of LDL: the base in op1, and its offset. -/
def loadAt (o : Ops) (s : State) : Nat := (addOff (s.me.word o.o1 0) o.imm).toNat
/-- The address of STL, VSTM and ACTWR: the base in op0, and its offset. -/
def storeAt (o : Ops) (s : State) : Nat := (addOff (s.me.word o.o0 0) o.imm).toNat
/-- The bytes of a value of the type field. -/
def tyBytes (o : Ops) : Nat := (o.ty 0).width / 8

/-- Lie `n` bytes from `a` on inside the local store, aligned to their size (R20)? -/
def inLs (a n : Nat) : Bool := a % n == 0 && decide (a + n ≤ 0x80000)

/-- Must an access to some ranges of the local store of the core whose turn it is wait (R7, R21)? -/
def lsBusy (s : State) (l : List (Nat × Nat)) : Bool := l.any fun x => s.lsBusy x.1 x.2

/-- The address of the first uncorrectable error in some ranges of that local store (R237). -/
def lsHard (s : State) (l : List (Nat × Nat)) : Option Word := l.findSome? fun x => s.lsHard s.cur x.1 x.2

/-- The package with the single-bit errors in those ranges corrected and counted (R236). -/
def mended (s : State) (l : List (Nat × Nat)) : State := l.foldl (fun s x => s.lsCorrect s.cur x.1 x.2) s

/-- An instruction that accesses ranges `l` of the local store ends in one of three ways: it waits with no effect (R21); an
uncorrectable error ends its gang (R237); or it completes, its core becomes `k`, and the firing goes on. -/
def LsEnds (i : Instr) (s : State) (l : List (Nat × Nat)) (k : Core) : Prop :=
  (lsBusy s l = true → exec i s = .next s) ∧
  (∀ v, lsBusy s l = false → lsHard s l = some v →
    exec i s = .next (s.fatal (s.me.gang.getD 0) cECCU s.me.pc v s.cur)) ∧
  (lsBusy s l = false → lsHard s l = none → exec i s = .next (((mended s l).setMe k).issued s.cur s.nextPc))

/-- Every instruction of constructor `i` that may issue where `ok` holds accesses ranges `l` of the local store, and completes
with its core as `f` where it need not wait and meets no uncorrectable error. -/
def LsAccess (i : Hdr → Ops → Instr) (ok : Ops → State → Bool) (l : Ops → State → List (Nat × Nat))
    (f : Ops → State → Core) : Prop :=
  ∀ (h : Hdr) (o : Ops) (s : State), s.ready h o = true → ok o s = true → LsEnds (i h o) s (l o s) (f o s)

/-- The core with the low `n` bytes of a number written to its local store from `a` on. -/
def stored (s : State) (a n x : Nat) : Core := { s.me with ls := memWriteN s.me.ls a x n }

/-! ### Planes in the terms of R11, R124 to R126 -/

/-- A plane instruction of a type that its entry accepts, whose planes pass R125. -/
def planesOk (ok : Ty → Bool) (o : Ops) (s : State) : Bool := ok (o.ty 0) && (s.me.planesBad (o.ty 0) o).isNone

/-- The number of the first plane operand, op0 to op3, whose plane fails R125: it has not the modifier's type, is scaled, or has
not the rows and cols of the destination, or of op1 where the destination is no plane. -/
def firstUnlike (o : Ops) (s : State) : Option Nat :=
  let k := s.me
  let ref := match o.o0 with
    | .v _ => o.o0
    | _ => o.o1
  ([o.o0, o.o1, o.o2, o.o3].zipIdx.find? fun x => match x.1 with
    | .v p => !((k.shape p).ty == o.ty 0 && !(k.shape p).scaled && (k.shape p).rows == (k.shapeO ref).rows &&
      (k.shape p).cols == (k.shapeO ref).cols)
    | _ => false).map (·.2)

/-- The checks of R125: an instruction of constructor `i` with a type that `ok` does not accept takes ILLFMT with trapval 5, and
otherwise one with a plane that fails takes it with the number of the first such operand. -/
def TrapsPlanes (i : Hdr → Ops → Instr) (ok : Ty → Bool) : Prop :=
  Traps i (fun o _ => !ok (o.ty 0)) cILLFMT (fun _ _ => 5) ∧
  Traps i (fun o s => ok (o.ty 0) && (firstUnlike o s).isSome) cILLFMT (fun o s => BitVec.ofNat 64 ((firstUnlike o s).getD 0))

/-- The active elements (R126). -/
def actives (o : Ops) (s : State) : List Nat :=
  (List.range (s.me.refShape o).n).filter fun i => (s.me.mask o.o4).getLsbD i

/-- Element `i` of a float source, subnormals read as zero under fpmode bit 6 (R86). -/
def elt (o : Ops) (s : State) (x : Operand) (i : Nat) : XVal := s.me.srcX (o.ty 0) x o s.me.ftz i

/-- The rounding context of a plane instruction: its mode, its sat bit, and flushing under fpmode bit 6 (R67, R89). -/
def planeRnd (o : Ops) (s : State) (sat : Bool) : RCtx := ⟨modeOf o s.me.planeMode, sat, s.me.ftz⟩

/-- The core with values rounded element after element into op0: one draw each in ascending index (R88), the flags of
the active elements raised together (R126). -/
def planeOf (o : Ops) (s : State) (w : Nat) (idx : List Nat) (f : Nat → RSt → Nat × RSt) : Core :=
  let r := mapRound f idx ⟨s.me.lfsr, 0⟩
  ({ s.me with lfsr := r.2.lfsr, fpflags := s.me.fpflags ||| r.2.flags } : Core).setElems o.o0.planeNo w r.1

/-- Class 0x5: one rounded value per active element. -/
def planeRounded (o : Ops) (s : State) (g : Nat → XRes) : Core :=
  planeOf o s (o.ty 0).width (actives o s) fun i => roundRes (planeRnd o s false) (o.ty 0) (g i)

/-- One bit string per active element, moved without a flag or a draw. -/
def planeMoved (o : Ops) (s : State) (g : Nat → Nat) : Core :=
  s.me.setElems o.o0.planeNo (o.ty 0).width ((actives o s).map fun i => (i, g i))

/-- The value of element `i` of an integer source, and the low bits of any source. -/
def eltI (o : Ops) (s : State) (x : Operand) (i : Nat) : Int := s.me.srcI (o.ty 0) x o i
/-- The bits of element `i` of a source. -/
def eltBits (o : Ops) (s : State) (x : Operand) (i : Nat) : Nat := s.me.srcBits (o.ty 0) x o i

/-- One integer per active element, wrapped to the type's width. -/
def planeInts (o : Ops) (s : State) (g : Nat → Int) : Core :=
  planeMoved o s fun i => wrapI (o.ty 0).width (g i)

/-- A mask whose bit `i` is set for the active elements with `f`, every other bit 0 (R17, R134, R138). -/
def maskWith (o : Ops) (s : State) (f : Nat → Bool) : BitVec 8192 :=
  maskOf ((List.range (s.me.refShape o).n).map fun i => (s.me.mask o.o4).getLsbD i && f i)

/-! ### Classes 0x7 to 0x9 in the terms of their rules -/

/-- The rounding context of class 0x7, with its sat bit. -/
def convRnd (o : Ops) (s : State) : RCtx := planeRnd o s (o.bit 9)

/-- An unscaled plane of a type. -/
def plain (x : Operand) (t : Ty) (s : State) : Bool := (s.me.shapeO x).ty == t && !(s.me.shapeO x).scaled
/-- Two planes of one size. -/
def alike (x y : Operand) (s : State) : Bool :=
  (s.me.shapeO x).rows == (s.me.shapeO y).rows && (s.me.shapeO x).cols == (s.me.shapeO y).cols

/-- The active elements of a class 0x7 instruction whose elements are those of plane `x`. -/
def activeIn (x : Operand) (o : Ops) (s : State) : List Nat :=
  (List.range (s.me.shapeO x).n).filter fun i => (s.me.mask o.o4).getLsbD i

/-- The row and column steps of the direction codes (R149). -/
def steps8 : List (Int × Int) := [(-1, 0), (-1, 1), (0, 1), (1, 1), (1, 0), (1, -1), (0, -1), (-1, -1)]

/-- An always-met condition. -/
def always (_ : Ops) (_ : State) : Bool := true

/-! ### Frames -/


/-- Two cores agree but for the planes, which agree but for `d`: the frame of an instruction with one plane destination.
See `Core.PlaneOnly`. -/
abbrev Core.OtherPlanes (d : Fin 32) (k k' : Core) : Prop := ∀ p : Fin 32, p ≠ d → k'.v[p] = k.v[p] ∧ k'.strip[p] = k.strip[p]

/-- Two cores agree but for plane `d`, its strip, lfsr, fpflags, the pc and the marks of the last issue. -/
structure Core.PlaneOnly (d : Fin 32) (k k' : Core) : Prop where
  planes : Core.OtherPlanes d k k'
  rest   : { k' with
    v := k.v, strip := k.strip, lfsr := k.lfsr, fpflags := k.fpflags, pc := k.pc,
    issueMark := k.issueMark, lastIssue := k.lastIssue } = k


/-- The core of a state whose turn it is agrees with that of another in everything but operand `d`, its pc and the marks
of its last issue. -/
structure Core.SameBut (d : Operand) (k k' : Core) : Prop where
  word  : ∀ x, x ≠ d → k'.word x 0 = k.word x 0
  pred  : ∀ x, x ≠ d → k'.pred x = k.pred x
  mask  : ∀ x, x ≠ d → k'.mask x = k.mask x
  bank  : ∀ b : Fin 8, b ≠ k.slot → k'.keep[b] = k.keep[b]
  v     : k'.v = k.v
  strip : k'.strip = k.strip
  shp   : k'.shp = k.shp
  acc   : k'.acc = k.acc
  lc    : k'.lc = k.lc
  lcl   : k'.lcl = k.lcl
  ls    : k'.ls = k.ls
  eng   : k'.eng = k.eng
  fpm   : k'.fpmode = k.fpmode
  held  : k'.heldFlags = k.heldFlags
  trap  : k'.trapcause = k.trapcause ∧ k'.trappc = k.trappc ∧ k'.trapval = k.trapval
  fire  : k'.fire = k.fire ∧ k'.susp = k.susp ∧ k'.hold = k.hold

/-- Nothing outside the core whose turn it is differs between two states. -/
structure State.OnlyMe (s t : State) : Prop where
  cur    : t.cur = s.cur
  others : ∀ c, c ≠ s.cur → t.core c = s.core c
  rest   : { t with cores := s.cores } = s

/-- The invariant of the package's memory: its cells stand in the one canonical form. -/
abbrev State.MemInv (s : State) : Prop := Memory.wf s.mem = true

end Sys2Proof.Machine
end

