-- ==== Sys2Proof/Certificates/Slice0/Obligations.lean ====
section
/-!
DEFINITION. Sys2Proof/Certificates/Slice0/Obligations.lean: the statements about the machine, by the rules of spec/.

The statements about one instruction have its conditions on the state and the operands as hypotheses, and answer with the
next state that the rules give; an equation of next states says the frame with the result.
-/

open Sys2Proof Sys2Proof.Machine

/-! ### Encoding -/

/-- Words that the spec writes out decode to the instructions that they stand for (R56, R99, R119, R189, R359, R361), each where
its cited section prints it: ADD in "Worked encodings", LOOP in "A counted loop", SEND in the worked example of the actors,
ERET under "ERET", TLBI in the outcomes of the memory chapter. -/
def Obligations.SpecWordsDecode : Prop :=
  decode 0x0000060000000700_00E01F0100000040 =
    .ok (.add ⟨.none, .normal, 0, false⟩ ⟨.s 1, .s 31, .imm, .none, .none, 7, 6⟩) ∧
  decode 0x000000FFFFFFFD00_000000E400000005 =
    .ok (.loop ⟨.none, .normal, 0, false⟩ ⟨.lc 0, .none, .none, .none, .none, 0xFFFFFFFD, 0⟩) ∧
  decode 0x0000000000000100_0000E0A000000280 =
    .ok (.send ⟨.none, .normal, 0, false⟩ ⟨.c 0, .imm, .none, .none, .none, 1, 0⟩) ∧
  decode 0x0000010000000000_0000000000000008 =
    .ok (.eret ⟨.none, .normal, 0, false⟩ ⟨.none, .none, .none, .none, .none, 0, 1⟩) ∧
  decode 0x0000030000000000_0003020100000380 =
    .ok (.tlbi ⟨.none, .normal, 0, false⟩ ⟨.s 1, .s 2, .s 3, .none, .none, 0, 3⟩)

/-- Every well-formed instruction has a word, and the decoder reads it back from that word with every operand (R56 to
R70). -/
def Obligations.EncodingReadsBack : Prop :=
  ∀ i : Instr, WellFormed i → ∃ w, encode i = some w ∧ decode w = .ok i

/-- A word that decodes has one meaning: the instruction is well-formed, and its word is that word (R56 to R71). -/
def Obligations.WordsHaveOneMeaning : Prop :=
  ∀ (w : IWord) (i : Instr), decode w = .ok i → WellFormed i ∧ encode i = some w

/-! ### Reset, memory and the step -/

/-- R27: a core at reset: its registers are zero but for the constant ones and lfsr, and every tile is its own. -/
def Obligations.CoreAtReset : Prop :=
  (∀ i : Fin 32, Core.reset.getS i = 0) ∧ (∀ i : Fin 8, i ≠ 7 → Core.reset.getP i = false) ∧ Core.reset.getP 7 = true ∧
  (∀ i : Fin 8, i ≠ 7 → Core.reset.getM i = 0) ∧ Core.reset.getM 7 = BitVec.allOnes 8192 ∧
  (∀ i : Fin 32, Core.reset.v[i] = 0 ∧ Core.reset.strip[i] = 0 ∧ Core.reset.shp[i] = 0) ∧
  (∀ i : Fin 4, Core.reset.acc[i] = 0) ∧ (∀ (b : Fin 8) (i : Fin 16), Core.reset.getK b i = 0) ∧
  Core.reset.tiles = 0 ∧ (∀ i : Fin 4, Core.reset.lc[i] = 0 ∧ Core.reset.lcl[i] = 0) ∧
  Core.reset.fpmode = 0 ∧ Core.reset.scalarMode = .rne ∧ Core.reset.planeMode = .rne ∧ Core.reset.ftz = false ∧
  Core.reset.fpflags = 0 ∧ Core.reset.lfsr = 1 ∧
  Core.reset.trapcause = 0 ∧ Core.reset.trappc = 0 ∧ Core.reset.trapval = 0

/-- The package at reset, before Dawn (what it is then: log entry 3; that it accepts no launch: log entry 5): every core at
reset, no gang, no access under way, the settings' defaults of R214 and R366, every reduction window disabled (R388), and the
memory in canonical form. -/
def Obligations.PackageAtReset : Prop :=
  (∀ c, State.reset.core c = Core.reset) ∧ State.reset.gangs = [] ∧ State.reset.flight = [] ∧
  State.reset.sched = ⟨16, 0, 255, true⟩ ∧ State.reset.wdog = 1100000000 ∧ State.reset.accepting = false ∧
  (∀ w : Fin 4, State.reset.wins[w].en = false) ∧ State.reset.MemInv

/-- Every step of every agent keeps the memory in canonical form. -/
def Obligations.StepKeepsMemoryCanonical : Prop :=
  ∀ s t : State, s.MemInv → step s = .next t → t.MemInv

/-- The tick never falls, and each step counts once; no agent turns either back (R31: tick counts; the cycles of a step: log
entry 6). That tick runs on over a Dawn is the model's reading (log entry 60). -/
def Obligations.TickNeverFalls : Prop :=
  ∀ s t : State, step s = .next t → s.tick ≤ t.tick ∧ t.steps = s.steps + 1

/-- What was written is read, and nothing else changes (R3): `n` bytes of a little-endian number. -/
def Obligations.MemoryReadsWhatWasWritten : Prop :=
  ∀ (l : List Host.Cell) (a x n : Nat), Memory.wf l = true →
    memReadN (memWriteN l a x n) a n = x % 2 ^ (8 * n) ∧
    ∀ b, (b < a ∨ a + n ≤ b) → memRead (memWriteN l a x n) b = memRead l b

/-- A step that gives its turn to a core fetches the word at the core's pc and runs the instruction that the word
decodes to; the step has added only the passing of time, the turn itself and the translation of the fetch. A word that
decodes to none takes ILLOP, once the drain that its bit 28 asks for is over (R57, R64, R71, R72). -/
def Obligations.StepRunsDecodedInstruction : Prop :=
  ∀ (s t : State) (c : CoreId) (r : List Turn) (w : IWord),
    let u : State := { s.advance with agenda := r, cur := c }
    s.powered = true → s.agenda = .core c :: r → u.canIssue c = true → u.fetch u.asid = .word t w →
    (∀ i, decode w = .ok i → step s = exec i t) ∧
    (∀ e, decode w = .error e → step s = .next
      (if w.getLsbD 28 = true ∧ t.drained = false then t else t.takeTrap c cILLOP (t.refusedVal w e)))

/-! ### Issue -/

/-- What stands before an instruction's effect: it waits, with no effect, while a drain is outstanding (R64), which every
instruction does before any check; then while a predicate of its guard is still to be written (R61), or with its guard true
while a source register is (R8), and, which is the model's choice, while any other register that it names is, one named only for
its shape among them (log entry 78); with its guard false it only goes on to the next word (R61). The gates after the drain
for every instruction whose checks of steps 1 to 3 lie in its word alone; those that check more before their guard are shut out
there by name: ERET and KILL, MFC and MTC, TLBI, and those that name a channel port. -/
def Obligations.IssueGates : Prop :=
  ∀ (i : Instr) (n : Nat) (h : Hdr) (o : Ops) (s : State), i.parts = some (n, h, o) →
    (s.clear h = false → exec i s = .next s) ∧
    (n ∉ [8, 9, 0xC7, 0xC8, 0x280, 0x281, 0x282, 0x283, 0x284, 0x303, 0x305, 0x308, 0x309, 0x30A, 0x380, 0x341,
      0x342, 0x343, 0x344, 0x345, 0x346, 0x347] →
    (h.guard.preds.any s.regPending = true ∨
      (s.me.guard h.guard = true ∧ o.regs.any s.regPending = true) → exec i s = .next s) ∧
    (s.clear h = true → h.guard.preds.any s.regPending = false → s.me.guard h.guard = false →
      exec i s = .next (s.issued s.cur s.nextPc)))

/-! ### Registers -/

/-- R10: s31 reads as zero, p7 as 1 and every bit of m7 as 1, and a write to one of them is discarded; any other register
reads what was written, and no other changes. -/
def Obligations.ConstantRegisters : Prop :=
  ∀ (k : Core) (x : Word) (b : Bool) (m : BitVec 8192),
    k.getS 31 = 0 ∧ k.getP 7 = true ∧ k.getM 7 = BitVec.allOnes 8192 ∧
    k.setWord (.s 31) x = k ∧ k.setPred (.p 7) b = k ∧ k.setMask (.m 7) m = k ∧
    (∀ i j : Fin 32, i ≠ 31 → (k.setS i x).getS j = if j = i then x else k.getS j) ∧
    (∀ i j : Fin 8, i ≠ 7 → (k.setP i b).getP j = if j = i then b else k.getP j) ∧
    (∀ i j : Fin 8, i ≠ 7 → (k.setM i m).getM j = if j = i then m else k.getM j)

/-! ### Class 0x1: scalar integer -/

/-- R102: the sum, the difference, the product and its upper half, the least and the greatest, and the logic operations
on the bits, clamped with sat and otherwise reduced to the low bits. -/
def Obligations.IntegerArithmetic : Prop :=
  let r := fun (g : Ops → Int → Int → Int) (o : Ops) (s : State) => wrote o s (narrowed o (g o (val1 o s) (val2 o s)))
  let bits := fun (g : Nat → Nat → Nat) (o : Ops) (a b : Int) =>
    (o.ty 0).val (g (wrapI (o.ty 0).width a) (wrapI (o.ty 0).width b))
  Completes .add intTyped (r fun _ a b => a + b) ∧
  Completes .sub intTyped (r fun _ a b => a - b) ∧
  Completes .mul intTyped (r fun _ a b => a * b) ∧
  Completes .mulh intTyped (r fun o a b => (o.ty 0).val (wrapI (o.ty 0).width (a * b / 2 ^ (o.ty 0).width))) ∧
  Completes .min intTyped (r fun _ a b => min a b) ∧
  Completes .max intTyped (r fun _ a b => max a b) ∧
  Completes .and intTyped (r (bits (· &&& ·))) ∧
  Completes .or intTyped (r (bits (· ||| ·))) ∧
  Completes .xor intTyped (r (bits (· ^^^ ·))) ∧
  Completes .andn intTyped (r (bits fun a b => a ^^^ (a &&& b)))

/-- R103: DIV and REM truncate toward zero, the remainder takes the sign of the dividend, and the two corners that never
trap have their fixed results. -/
def Obligations.IntegerDivision : Prop :=
  Completes .div intTyped (fun o s => wrote o s (
    if val2 o s = 0 then (if (o.ty 0).isSigned then -1 else (2 ^ (o.ty 0).width : Int) - 1)
    else if (o.ty 0).isSigned = true ∧ val1 o s = (o.ty 0).minI ∧ val2 o s = -1 then (o.ty 0).minI
    else Int.tdiv (val1 o s) (val2 o s))) ∧
  Completes .rem intTyped (fun o s => wrote o s (
    if val2 o s = 0 then val1 o s
    else if (o.ty 0).isSigned = true ∧ val1 o s = (o.ty 0).minI ∧ val2 o s = -1 then 0
    else Int.tmod (val1 o s) (val2 o s)))

/-- R104: the shifts and the rotate, with every count of op2's 64 bits; a rotate moves bit `j + c mod w` to bit `j`. -/
def Obligations.ShiftResults : Prop :=
  let cnt := fun (o : Ops) (s : State) => (s.me.word o.o2 o.sext).toNat
  let low := fun (o : Ops) (s : State) => wrapI (o.ty 0).width (val1 o s)
  Completes .shl intTyped (fun o s => wrote o s (
    if o.bit 9 = false ∧ (o.ty 0).width ≤ cnt o s then 0 else narrowed o (val1 o s * 2 ^ cnt o s))) ∧
  Completes .shr intTyped (fun o s => wrote o s (
    if (o.ty 0).width ≤ cnt o s then 0 else (o.ty 0).val (low o s / 2 ^ cnt o s))) ∧
  Completes .sra intTyped (fun o s => wrote o s (
    (o.ty 0).val (wrapI (o.ty 0).width (signedOf (o.ty 0).width (low o s) / 2 ^ cnt o s)))) ∧
  ∀ (h : Hdr) (o : Ops) (s : State), s.ready h o = true → intTyped o s = true →
    ∃ r < 2 ^ (o.ty 0).width, (∀ j < (o.ty 0).width, r.testBit j = (low o s).testBit ((j + cnt o s) % (o.ty 0).width)) ∧
      exec (.rot h o) s = .next (s.put (wrote o s ((o.ty 0).val r)))

/-- R105, R106: BFX extracts a field in the type's signedness, BFI puts the low bits of op2 into one, and a field that
reaches beyond the type takes ILLFMT with trapval 5; CLZ and CTZ count the zero bits above the highest set bit and below
the lowest one and give the width for zero, POPC counts the set bits, and each count is written zero-extended. -/
def Obligations.FieldAndCountResults : Prop :=
  (let p := fun (o : Ops) => o.mod 10 6
  let l := fun (o : Ops) => o.mod 16 6 + 1
  let fits := fun (o : Ops) (_ : State) => (o.ty 0).isInt && decide (p o + l o ≤ (o.ty 0).width)
  let beyond := fun (o : Ops) (_ : State) => decide ((o.ty 0).width < p o + l o)
  let f := fun (o : Ops) (s : State) => (s.me.word o.o1 0).toNat / 2 ^ p o % 2 ^ l o
  Completes .bfx fits (fun o s => wrote o s (if (o.ty 0).isSigned then signedOf (l o) (f o s) else (f o s : Int))) ∧
  Completes .bfi fits (fun o s => wrote o s ((o.ty 0).val
    ((s.me.word o.o1 0).toNat % 2 ^ (o.ty 0).width - f o s * 2 ^ p o + (s.me.word o.o2 0).toNat % 2 ^ l o * 2 ^ p o))) ∧
  Traps .bfx beyond cILLFMT (fun _ _ => 5) ∧ Traps .bfi beyond cILLFMT (fun _ _ => 5)) ∧
  ∀ (h : Hdr) (o : Ops) (s : State), s.ready h o = true → (o.ty 0).isInt = true →
    let w := (o.ty 0).width
    let x := (s.me.word o.o1 0).toNat % 2 ^ w
    (∃ n, exec (.clz h o) s = .next (s.put (s.me.setWord o.o0 (BitVec.ofNat 64 n))) ∧ n ≤ w ∧ (n = w ↔ x = 0) ∧
      (x ≠ 0 → x.testBit (w - 1 - n) = true ∧ ∀ j, w - 1 - n < j → x.testBit j = false)) ∧
    (∃ n, exec (.ctz h o) s = .next (s.put (s.me.setWord o.o0 (BitVec.ofNat 64 n))) ∧ n ≤ w ∧ (n = w ↔ x = 0) ∧
      (x ≠ 0 → x.testBit n = true ∧ ∀ j < n, x.testBit j = false)) ∧
    exec (.popc h o) s = .next (s.put (s.me.setWord o.o0 (BitVec.ofNat 64 ((List.range w).countP fun j => x.testBit j))))

/-- R107, R108: CMP writes whether its condition holds; SEL chooses by its predicate; MOVHI puts the immediate above the
low half of op1, for the 64-bit types alone. -/
def Obligations.CompareSelectMovhi : Prop :=
  let cc := fun (n : Nat) (f : Int → Int → Bool) => Completes .cmp (fun o s => intTyped o s && o.mod 10 3 == n)
    (fun o s => s.me.setPred o.o0 (f (val1 o s) (val2 o s)))
  let wide := fun (o : Ops) (_ : State) => o.ty 0 == .s64 || o.ty 0 == .n64
  cc 0 (fun a b => decide (a = b)) ∧ cc 1 (fun a b => decide (a ≠ b)) ∧ cc 2 (fun a b => decide (a < b)) ∧
  cc 3 (fun a b => decide (a ≤ b)) ∧ cc 4 (fun a b => decide (a > b)) ∧ cc 5 (fun a b => decide (a ≥ b)) ∧
  Completes .sel intTyped (fun o s => wrote o s (if s.me.pred o.o3 then val1 o s else val2 o s)) ∧
  Completes .movhi wide (fun o s => s.me.setWord o.o0
    (BitVec.ofNat 64 (o.imm.toNat * 2 ^ 32 + (s.me.word o.o1 0).toNat % 2 ^ 32))) ∧
  Traps .movhi (fun o s => !wide o s) cILLFMT (fun _ _ => 5)

/-- R100, R109: a scalar instruction whose type its class does not accept takes ILLFMT with trapval 5, BFX and BFI among them
wherever their field lies, and so does a conversion whose second type is not of its kind. -/
def Obligations.ScalarTypeChecks : Prop :=
  (∀ i ∈ intOps ++ [.bfx, .bfi], Traps i (fun o s => !intTyped o s) cILLFMT (fun _ _ => 5)) ∧
  (∀ i ∈ ([.fadd, .fsub, .fmul, .fdiv, .fsqrt, .fma, .fmin, .fmax, .fabs, .fneg, .fcmp, .fcvt, .fcvti, .icvtf, .fclass] :
    List (Hdr → Ops → Instr)), Traps i (fun o s => !fltTyped o s) cILLFMT (fun _ _ => 5)) ∧
  Traps .fcvt (fun o _ => !(o.ty 9).isScalarFloat) cILLFMT (fun _ _ => 5) ∧
  Traps .fcvti (fun o _ => !(o.ty 9).isInt) cILLFMT (fun _ _ => 5) ∧
  Traps .icvtf (fun o _ => !(o.ty 9).isInt) cILLFMT (fun _ _ => 5)

/-- What an instruction of class 0x1 leaves: every register but op0, the flags and lfsr, the local store, the planes, the
accumulators, the special registers; and everything outside its core, all of memory among it. -/
def Obligations.IntegerFrame : Prop :=
  ∀ i ∈ intOps ++ [.bfx, .bfi, .movhi], ∀ (h : Hdr) (o : Ops) (s t : State), s.ready h o = true →
    exec (i h o) s = .next t → (∀ v, t ≠ s.takeTrap s.cur cILLFMT v) →
    s.OnlyMe t ∧ s.me.SameBut o.o0 t.me ∧ t.me.fpflags = s.me.fpflags ∧ t.me.lfsr = s.me.lfsr

/-! ### Numbers and class 0x2: scalar float -/

/-- R67, R80, R81, R87 to R91: Round into a format. A number that the format holds rounds to its own encoding, in every mode and for
every draw, and raises no flag; any other finite value rounds to the neighbour that its mode takes, on the grid of its own exponent,
not below the least one; a result beyond the largest number overflows as its mode and sat say; underflow comes of an exact value
below the least normal one that is not hit; flush gives a zero of the same sign. Round into an integer type, the draw of SR, and the
exact sum, product and quotient of finite values, as the instructions take them. -/
def Obligations.RoundingKeepsRepresentable : Prop :=
  let all := [fmt64, fmt32, fmt16, fmtB16, fmtE4M3, fmtE5M2, fmtE2M1]
  let sgn := fun (f : FFmt) (neg : Bool) (m : Nat) => (if neg then 2 ^ (f.width - 1) else 0) + m
  let near := fun (mode : Rnd) (neg : Bool) (rnd n d k : Nat) =>
    let floor := k * d ≤ n ∧ n < (k + 1) * d
    let ceiling := n ≤ k * d ∧ k * d < n + d
    match mode with
    | .rne => 2 * k * d ≤ 2 * n + d ∧ 2 * n ≤ (2 * k + 1) * d ∧
        (2 * k * d = 2 * n + d ∨ 2 * n = (2 * k + 1) * d → k % 2 = 0)
    | .rz => floor
    | .ru => if neg then floor else ceiling
    | .rd => if neg then ceiling else floor
    | .rna => 2 * k * d ≤ 2 * n + d ∧ 2 * n < (2 * k + 1) * d
    | .sr => 65536 * k * d ≤ 65536 * n + rnd * d ∧ 65536 * n + rnd * d < 65536 * (k + 1) * d
  (∀ f ∈ all, ∀ (sat : Bool) (mode : Rnd) (rnd x : Nat), rnd < 65536 → x < 2 ^ f.width →
    Machine.XVal.isNum (f.decode x) = true → (f = fmtE2M1 → x ≠ 8) → f.round sat false mode rnd (f.decode x) = (x, 0)) ∧
  (∀ f ∈ all, ∀ (sat flush neg : Bool) (mode : Rnd) (rnd num den k : Nat) (e : Int), rnd < 65536 → 0 < num → 0 < den →
    (flush = true → f ∈ [fmt32, fmt16, fmtB16]) →
    let q := e - f.frac
    let n := num * 2 ^ (-q).toNat
    let d := den * 2 ^ q.toNat
    n < 2 ^ (f.frac + 1) * d → (2 ^ f.frac * d ≤ n ∧ f.emin ≤ e ∨ e = f.emin) → near mode neg rnd n d k →
    let y := XVal.dyadic neg k q
    let above := (XVal.dyadic false k q).cmp (f.decode f.largest) = .gt
    let exact := k * d = n
    let toLargest := sat = true ∨ f = fmtE2M1 ∨ mode = .rz ∨ (mode = .ru ∧ neg = true) ∨ (mode = .rd ∧ neg = false)
    let r := f.round sat flush mode rnd (.fin neg num den)
    (above → (toLargest → r = (sgn f neg f.largest, flOverflow ||| flInexact)) ∧
      (¬toLargest → r = (if f = fmtE4M3 then 0x7F else sgn f neg (f.largest + 1), flOverflow ||| flInexact))) ∧
    (¬above → flush = true → k ≠ 0 → k < 2 ^ f.frac → r = (sgn f neg 0, flUnderflow ||| flInexact)) ∧
    (¬above → flush = false ∨ k = 0 ∨ 2 ^ f.frac ≤ k → r.1 < 2 ^ f.width ∧ (f.decode r.1).cmp y = .eq ∧
      r.1.testBit (f.width - 1) = (neg && !(f == fmtE2M1 && k == 0)) ∧
      r.2 = (if exact then 0 else if n < 2 ^ f.frac * d then flUnderflow ||| flInexact else flInexact))) ∧
  (∀ f ∈ all, ∀ (sat flush neg : Bool) (mode : Rnd) (rnd : Nat),
    f.round sat flush mode rnd (.zero neg) = (if f = fmtE2M1 then 0 else sgn f neg 0, 0) ∧
    f.round sat flush mode rnd (.inf neg) = (if f = fmtE2M1 then (sgn f neg 7, flInvalid)
      else if f = fmtE4M3 then (if sat then sgn f neg 0x7E else 0x7F, flInvalid) else (sgn f neg (f.largest + 1), 0)) ∧
    ∃ c, (f, c) ∈ [(fmt64, 0x7FF8000000000000), (fmt32, 0x7FC00000), (fmt16, 0x7E00), (fmtB16, 0x7FC0), (fmtE4M3, 0x7F),
      (fmtE5M2, 0x7E), (fmtE2M1, 0)] ∧ f.round sat flush mode rnd .nan = (c, if f = fmtE2M1 then flInvalid else 0)) ∧
  (∀ (t : Ty) (mode : Rnd) (rnd num den k : Nat) (neg : Bool), t.isInt = true → 0 < num → 0 < den → near mode neg rnd num den k →
    let n : Int := if neg then -(k : Int) else k
    t.roundInt mode rnd (.fin neg num den) = (if n < t.minI then (t.minI, flInvalid) else if t.maxI < n then (t.maxI, flInvalid)
      else (n, if k * den = num then 0 else flInexact)) ∧
    t.roundInt mode rnd (.zero neg) = (0, 0) ∧ t.roundInt mode rnd .nan = (0, flInvalid) ∧
    t.roundInt mode rnd (.inf neg) = (if neg then t.minI else t.maxI, flInvalid)) ∧
  (∀ (c : RCtx) (t : Ty) (x : XVal) (f : FpFlags) (st : RSt),
    let z1 := st.lfsr ^^^ (st.lfsr <<< 13)
    let z2 := z1 ^^^ (z1 >>> 7)
    let z := if c.mode = .sr then z2 ^^^ (z2 <<< 17) else st.lfsr
    let rnd := if c.mode = .sr then z.toNat % 65536 else 0
    (∀ g, t.ffmt = some g → let r := g.round c.sat (c.flush && (t == .f32 || t == .f16 || t == .bf16)) c.mode rnd x
      roundTo c t x st = (r.1, ⟨z, st.flags ||| r.2⟩)) ∧
    (t.ffmt = none → let r := t.roundInt c.mode rnd x
      roundTo c t x st = (wrapI t.width r.1, ⟨z, st.flags ||| r.2⟩)) ∧
    roundRes c t (x, f) st = roundTo c t x ⟨st.lfsr, st.flags ||| f⟩) ∧
  ∀ (m n rd : Bool) (a b c d : Nat), 0 < a → 0 < b → 0 < c → 0 < d →
    (XVal.fin m a b).div (.fin n c d) = (.fin (m != n) (a * d) (b * c), 0) ∧
    (XVal.fin m a b).mul (.fin n c d) = (.fin (m != n) (a * c) (b * d), 0) ∧
    let z : Int := (if m then -1 else 1) * (a * d : Nat) + (if n then -1 else 1) * (c * b : Nat)
    (z = 0 → XVal.add rd (.fin m a b) (.fin n c d) = (.zero rd, 0)) ∧
    (z ≠ 0 → ∃ u v, XVal.add rd (.fin m a b) (.fin n c d) = (.fin (decide (z < 0)) u v, 0) ∧ 0 < v ∧
      u * (b * d) = z.natAbs * v)

/-- R111: the arithmetic of class 0x2 rounds its exact result once into the type, and the conversions round their source into
the destination's type. That 0 times infinity is invalid in FMA with a NaN addend too is log entry 16; the functions, FSQRT among
them, rest on log entry 14. -/
def Obligations.ScalarFloatResults : Prop :=
  let r := fun (g : Ops → State → XRes) (o : Ops) (s : State) => rounded o s (o.ty 0) (g o s)
  Completes .fadd fltTyped (r fun o s => XVal.add (downward o s) (flt1 o s) (flt2 o s)) ∧
  Completes .fsub fltTyped (r fun o s => XVal.add (downward o s) (flt1 o s) (flt2 o s).negate) ∧
  Completes .fmul fltTyped (r fun o s => (flt1 o s).mul (flt2 o s)) ∧
  Completes .fdiv fltTyped (r fun o s => (flt1 o s).div (flt2 o s)) ∧
  Completes .fsqrt fltTyped (r fun o s => (flt1 o s).sqrt) ∧
  Completes .fma fltTyped (r fun o s =>
    let p := (flt1 o s).mul (flt2 o s)
    let x := XVal.add (downward o s) p.1 (s.me.fltOf (o.ty 0) o.o3 o)
    (x.1, p.2 ||| x.2)) ∧
  Completes .fcvt (fun o s => fltTyped o s && (o.ty 9).isScalarFloat) (r fun o s => (s.me.fltOf (o.ty 9) o.o1 o, 0)) ∧
  Completes .icvtf (fun o s => fltTyped o s && (o.ty 9).isInt)
    (r fun o s => (XVal.ofInt (s.me.valOf (o.ty 9) o.o1 0), 0)) ∧
  Completes .fcvti (fun o s => fltTyped o s && (o.ty 9).isInt) (fun o s =>
    let x := roundTo ⟨modeOf o s.me.scalarMode, false, false⟩ (o.ty 9) (flt1 o s) ⟨s.me.lfsr, 0⟩
    ({ s.me with lfsr := x.2.lfsr, fpflags := s.me.fpflags ||| x.2.flags } : Core).setWord o.o0
      (BitVec.ofInt 64 ((o.ty 9).val x.1)))

/-- R111, R112: FABS and FNEG change the sign bit alone, a NaN's too; FCMP has a false .lt, .le, .gt, .ge and .eq and a
true .ne and .un for a NaN; FMIN and FMAX order -0 below +0 and answer the canonical NaN for a NaN; FCLASS sets the bit
of its operand's kind. None of them changes a flag or lfsr. -/
def Obligations.ScalarFloatExact : Prop :=
  let w := fun (o : Ops) => (o.ty 0).width
  let nan := fun (o : Ops) (s : State) => (flt1 o s).isNaN || (flt2 o s).isNaN
  let cc := fun (n : Nat) (f : Ordering → Bool) (un : Bool) => Completes .fcmp (fun o s => fltTyped o s && o.mod 9 3 == n)
    (fun o s => s.me.setPred o.o0 (if nan o s then un else f ((flt1 o s).cmp (flt2 o s))))
  let pick := fun (second : Ops → State → Bool) (o : Ops) (s : State) => s.me.setWord o.o0 (BitVec.ofNat 64 (
    if nan o s then ((o.ty 0).ffmt.bind (·.nan)).getD 0
    else s.me.fltEnc (o.ty 0) (if second o s then o.o2 else o.o1) o))
  Completes .fabs fltTyped (fun o s => s.me.setWord o.o0 (BitVec.ofNat 64 (fltBits1 o s % 2 ^ (w o - 1)))) ∧
  Completes .fneg fltTyped (fun o s => s.me.setWord o.o0 (BitVec.ofNat 64 (fltBits1 o s ^^^ 2 ^ (w o - 1)))) ∧
  cc 0 (· == .eq) false ∧ cc 1 (· != .eq) true ∧ cc 2 (· == .lt) false ∧ cc 3 (· != .gt) false ∧ cc 4 (· == .gt) false ∧
  cc 5 (· != .lt) false ∧ cc 6 (fun _ => false) true ∧
  Completes .fmin fltTyped (pick fun o s => (flt2 o s).lt (flt1 o s)) ∧
  Completes .fmax fltTyped (pick fun o s => (flt1 o s).lt (flt2 o s)) ∧
  ∀ (h : Hdr) (o : Ops) (s : State) (f : FFmt), s.ready h o = true → fltTyped o s = true → (o.ty 0).ffmt = some f →
    ∃ c, exec (.fclass h o) s = .next (s.put (s.me.setWord o.o0 (BitVec.ofNat 64 (2 ^ c)))) ∧
      (match f.decode (fltBits1 o s) with
        | .nan => c = 8
        | .inf neg => c = if neg then 0 else 7
        | .zero neg => c = if neg then 3 else 4
        | .fin neg _ _ => c = if f.magBits (fltBits1 o s) < 2 ^ f.frac then (if neg then 2 else 5) else (if neg then 1 else 6))

/-! ### Class 0x3: predicates and control registers -/

/-- R113: the predicate instructions; p7 reads as 1 and discards writes. -/
def Obligations.PredicateResults : Prop :=
  let p := fun (f : Bool → Bool → Bool) (o : Ops) (s : State) => s.me.setPred o.o0 (f (s.me.pred o.o1) (s.me.pred o.o2))
  Completes .pand always (p fun a b => a && b) ∧ Completes .por always (p fun a b => a || b) ∧
  Completes .pxor always (p fun a b => a != b) ∧ Completes .pandn always (p fun a b => a && !b) ∧
  Completes .pnot always (p fun a _ => !a) ∧
  Completes .pset always (fun o s => s.me.setPred o.o0 (decide (s.me.word o.o1 (o.imm.zeroExtend 64) ≠ 0))) ∧
  Completes .pget always (fun o s => s.me.setWord o.o0 (if s.me.pred o.o1 then 1 else 0)) ∧
  ∀ (k : Core) (b : Bool), k.pred (.p 7) = true ∧ k.setPred (.p 7) b = k

/-- R29, R30, R31, R114: MFC writes the value of the control register that its number names, where the trap registers are
read in a trap actor and the system registers in a system gang, and one of fpflags waits for flags that are still to come; and
the value of each register is that of its field map (R13, R31, R239, R326, R388, R399). That a command which has issued and is not
accepted counts as running in engstat is log entry 25. -/
def Obligations.ControlReads : Prop :=
  (∀ (h : Hdr) (o : Ops) (s : State) (r : Ctl), s.ready h o = true → ctlOf (o.imm.toNat % 4096) = some r →
    (r.isRT = true → s.me.inTrap = true) → (r.isSys = true → s.right (·.sys) = true) →
    (r = .fpflags → s.flagsBusy = true → exec (.mfc h o) s = .next s) ∧
    ((r = .fpflags → s.flagsBusy = false) → exec (.mfc h o) s = .next (s.put (s.me.setWord o.o0 (s.ctlRead r))))) ∧
  (∀ (s : State) (d : Operand), s.canIssue s.cur = true →
    (s.flagsBusy = true → exec (.fpflagsRead d) s = .next s) ∧
    (s.flagsBusy = false → exec (.fpflagsRead d) s = .next (s.put (s.me.setWord d (s.ctlRead .fpflags))))) ∧
  ∀ s : State, s.ctlRead .coreid = BitVec.ofNat 64 (CoreX s.cur + 256 * CoreY s.cur + 65536 * (coreDie s.cur).val) ∧
    s.ctlRead .gangpos = BitVec.ofNat 64 (s.me.gx + 256 * s.me.gy) ∧ s.ctlRead .tick = BitVec.ofNat 64 s.tick ∧
    s.ctlRead .fpflags = s.me.fpflags.zeroExtend 64 ∧ s.ctlRead .lfsr = s.me.lfsr ∧ s.ctlRead .trappc = s.me.trappc ∧
    (∀ g, s.gangAt s.me = some g →
      s.ctlRead .gangdim = BitVec.ofNat 64 (2 * g.launch.w + 256 * (2 * g.launch.h)) ∧
      s.ctlRead .ways = g.ways.zeroExtend 64 ∧ s.ctlRead .asid = g.launch.asid.zeroExtend 64 ∧
      s.ctlRead .pri = g.launch.pri.zeroExtend 64) ∧
    (∀ n, s.me.gang = some n → s.ctlRead .gangid = BitVec.ofNat 64 (n % 2 ^ 32)) ∧
    s.ctlRead .actor = BitVec.ofNat 64 s.me.slot ∧ s.ctlRead .fpmode = s.me.fpmode.zeroExtend 64 ∧
    (∀ i : Fin 4, s.ctlRead (.lc i) = s.me.lc[i].zeroExtend 64 ∧ s.ctlRead (.lcl i) = s.me.lcl[i].zeroExtend 64) ∧
    (∀ i : Fin 32, s.ctlRead (.shp i) = s.me.shp[i]) ∧ s.ctlRead .resv = BitVec.ofNat 64 s.resv.val ∧
    s.ctlRead .trapcause = s.me.trapcause ∧ s.ctlRead .trapval = s.me.trapval ∧
    (∀ i : Fin 8,
      let e := s.me.eng[i]
      let count := fun (x : BitVec 128) => (List.range 128).countP fun t => x.getLsbD t
      let code : Nat := match e.state with
        | .free => 0
        | .issued | .running => 1
        | .halted => 2
        | .token => 3
      s.ctlRead (.engstat i) = BitVec.ofNat 64 (code + e.kind.toNat * 2 ^ 8 + count e.held * 2 ^ 16 + count e.pending * 2 ^ 24 +
        e.cursor.toNat * 2 ^ 32)) ∧
    s.ctlRead .ptroot = s.ptroot ∧ s.ctlRead .walkctl = BitVec.ofNat 64 s.walkctl.toNat ∧
    ∀ w : Fin 4, s.ctlRead (.wcfg w) = s.wins[w].cfg ∧ s.ctlRead (.wrange w) = s.wins[w].range ∧
      s.ctlRead (.wmem w) = s.wins[w].mem ∧
      s.ctlRead (.wpart w) = BitVec.ofNat 64 (s.wins[w].parts.toNat + s.wins[w].epoch % 2 ^ 32 * 2 ^ 32)

/-- R14, R30, R32, R115, R388, R399: the value that MTC leaves in each register that it may write; ways and wcfg hold the
firing until their own write has ended, and fpflags waits for flags that are still to come. The inner writes of an MTC, as
steps of their own, leave what the MTC leaves. -/
def Obligations.ControlWrites : Prop :=
  let writes := fun (s : State) (i : Instr) (r : Ctl) (v : Word) =>
    let ends := fun (t : State) => exec i s = .next (t.issued s.cur s.nextPc)
    match r with
    | .lc i => ends (s.setMe { s.me with lc := s.me.lc.set i (v.truncate 32) })
    | .lcl i => ends (s.setMe { s.me with lcl := s.me.lcl.set i (v.truncate 32) })
    | .shp i => shapeOk v = true → ends (s.setMe { s.me with shp := s.me.shp.set i v })
    | .fpmode => v.toNat % 8 ≤ 5 → v.toNat / 8 % 8 ≤ 5 → ends (s.setMe { s.me with fpmode := v.truncate 7 })
    | .fpflags => (s.flagsBusy = true → exec i s = .next s) ∧
        (s.flagsBusy = false → ends (s.setMe { s.me with fpflags := v.truncate 5 }))
    | .lfsr => ends (s.setMe { s.me with lfsr := if v = 0 then 1 else v })
    | .ways => ends (s.setMe { s.me with hold := some (.ways (v.truncate 32)) })
    | .ptroot => ends { s with ptroot := v &&& 0x000FFFFFFFFFF000 }
    | .walkctl => ends { s with walkctl := v.getLsbD 0 }
    | .wcfg w => v.toNat / 2 % 4 ≠ 3 → ends (s.setMe { s.me with hold := some (.wcfg w v) })
    | .wrange w => s.wins[w].en = false →
      ends { s with wins := s.wins.set w { s.wins[w] with range := v &&& 0x00003FFFC0000000 } }
    | .wmem w => s.wins[w].en = false → ends { s with wins := s.wins.set w { s.wins[w] with mem := v &&& 0x0FFF0FFF } }
    | .wpart w => s.wins[w].en = false → ends { s with wins := s.wins.set w { s.wins[w] with parts := v.truncate 10 } }
    | _ => True
  let may := fun (s : State) (r : Ctl) => r.isRO = false ∧ r.isRT = false ∧ (r.isSys = true → s.right (·.sys) = true) ∧
    (r = .ways → s.right (·.part) = true)
  (∀ (h : Hdr) (o : Ops) (s : State) (r : Ctl), s.ready h o = true → ctlOf (o.imm.toNat % 4096) = some r → may s r →
    writes s (.mtc h o) r (s.me.word o.o1 0)) ∧
  (∀ (s : State) (v : Word) (n : Fin 32) (m : BitVec 12), s.canIssue s.cur = true →
    (∀ r, ctlOf m.toNat = some r → may s r → writes s (.ctlregWrite m v) r v) ∧
    writes s (.shapeRegisterWrite n v) (.shp n) v ∧ writes s (.fpmodeWrite v) .fpmode v ∧
    writes s (.fpflagsWrite v) .fpflags v ∧ writes s (.lfsrWrite v) .lfsr v ∧
    (s.right (·.sys) = true → writes s (.ptrootWrite v) .ptroot v ∧ writes s (.walkctlWrite v) .walkctl v)) ∧
  ∀ (s : State), s.flagsBusy = true ↔ ∃ a ∈ s.flight, a.core = s.cur ∧ ∃ t v cmp d, a.req = .atom 8 t v cmp d

/-- R14, R29, R32, R388: an MTC or MFC that its register does not allow takes ILLOP with trapval 72 or PRIV with the register's
number, once the drain that it asks for is over (R64), an impossible shape SHAPE, a reserved rounding code ILLOP with the value
as trapval, and so does window operation 11, whose trapval no rule gives (the value: log entry 47); a write to wrange, wmem or
wpart of an enabled slot takes ILLOP (its trapval 72: log entry 47). The register keeps its value, because a trap writes the
trap registers and no other. -/
def Obligations.ControlRefusals : Prop :=
  ∀ (h : Hdr) (o : Ops) (s : State),
    let n := o.imm.toNat % 4096
    let trap := fun (i : Instr) (c : Byte) (v : Word) => s.clear h = true → exec i s = .next (s.takeTrap s.cur c v)
    (ctlOf n = none → trap (.mfc h o) cILLOP 72 ∧ trap (.mtc h o) cILLOP 72) ∧
    ∀ r, ctlOf n = some r →
      (r.isRO = true ∨ r.isRT = true → trap (.mtc h o) cILLOP 72) ∧
      (r.isRT = true → s.me.inTrap = false → trap (.mfc h o) cILLOP 72) ∧
      (r.isSys = true → s.right (·.sys) = false →
        trap (.mfc h o) cPRIV (BitVec.ofNat 64 n) ∧ trap (.mtc h o) cPRIV (BitVec.ofNat 64 n)) ∧
      (r = .ways → s.right (·.part) = false → trap (.mtc h o) cPRIV (BitVec.ofNat 64 n)) ∧
      (s.ready h o = true →
        let v := s.me.word o.o1 0
        (∀ i, r = .shp i → shapeOk v = false → trap (.mtc h o) cSHAPE v) ∧
        (r = .fpmode → 5 < v.toNat % 8 ∨ 5 < v.toNat / 8 % 8 → trap (.mtc h o) cILLOP v) ∧
        ∀ w, s.right (·.sys) = true →
          (r = .wcfg w → v.toNat / 2 % 4 = 3 → trap (.mtc h o) cILLOP v) ∧
          (r = .wrange w ∨ r = .wmem w ∨ r = .wpart w → s.wins[w].en = true → trap (.mtc h o) cILLOP 72))

/-! ### Class 0x4: the local store -/

/-- R20, R21, R116: LDL and STL move the bytes of their type at an aligned address of the local store, trap with ALIGN at
one that is not aligned or not inside, and wait for an engine-owned tile; a type that moves nothing takes ILLFMT. These clauses
are the model's choice: an address whose sum passes 2^64 wraps, as the pseudocode of R116 has it, where its prose gives ALIGN (log
entry 94); and an access does not wait for the core's own remote accesses (log entry 70). -/
def Obligations.LocalLoadStore : Prop :=
  let typed := fun (o : Ops) => (o.ty 0).isScalar
  LsAccess .ldl (fun o s => typed o && inLs (loadAt o s) (tyBytes o)) (fun o s => [(loadAt o s, tyBytes o)]) (fun o s =>
    s.me.setWord o.o0 (BitVec.ofInt 64 ((o.ty 0).val (memReadN s.me.ls (loadAt o s) (tyBytes o))))) ∧
  LsAccess .stl (fun o s => typed o && inLs (storeAt o s) (tyBytes o)) (fun o s => [(storeAt o s, tyBytes o)]) (fun o s =>
    stored s (storeAt o s) (tyBytes o) (s.me.word o.o1 0).toNat) ∧
  Traps .ldl (fun o s => typed o && !inLs (loadAt o s) (tyBytes o)) cALIGN (fun o s => addOff (s.me.word o.o1 0) o.imm) ∧
  Traps .stl (fun o s => typed o && !inLs (storeAt o s) (tyBytes o)) cALIGN (fun o s => addOff (s.me.word o.o0 0) o.imm) ∧
  Traps .ldl (fun o _ => !typed o) cILLFMT (fun _ _ => 5) ∧ Traps .stl (fun o _ => !typed o) cILLFMT (fun _ _ => 5) ∧
  (∀ (s : State) (a n : Nat), s.lsBusy a n = false → ∀ t : Fin 128, a < 4096 * (t.val + 1) → 4096 * t.val < a + n → n ≠ 0 →
    s.me.tiles.getLsbD t = false) ∧
  ∀ k : Core, ∀ t : Fin 128, k.tiles.getLsbD t = true ↔ ∃ i : Fin 8, (k.eng[i].pending ||| k.eng[i].held).getLsbD t = true

/-- What a store to the local store leaves: every byte outside the stored ones, every register, and everything outside
the core but for the single-bit errors that the store corrects; a VST stores to the bytes of its active elements and to its
scales alone (R130). These clauses are the model's choice: the address of an STL whose sum passes 2^64 wraps (log entry 94); and a
store does not wait for the core's own remote accesses (log entry 70). -/
def Obligations.LocalStoreFrame : Prop :=
  let only := fun (i : Hdr → Ops → Instr) (ok : Ops → State → Bool) (r : Ops → State → List (Nat × Nat))
      (inside : Ops → State → Nat → Prop) =>
    ∀ (h : Hdr) (o : Ops) (s : State), s.ready h o = true → ok o s = true → lsBusy s (r o s) = false →
      lsHard s (r o s) = none →
      ∃ l, exec (i h o) s = .next (((mended s (r o s)).setMe { s.me with ls := l }).issued s.cur s.nextPc) ∧
        ∀ b, ¬ inside o s b → memRead l b = memRead s.me.ls b
  let bits := fun (o : Ops) (s : State) => min (s.me.word o.o2 0).toNat 8192
  let nb := fun (o : Ops) (s : State) => (bits o s + 7) / 8
  (∀ (s : State) (l : List (Nat × Nat)), (∃ u z, mended s l = { s with upsets := u, slices := z }) ∧
    (∀ u ∈ (mended s l).upsets, u ∈ s.upsets) ∧
    ∀ q : SliceId, { (mended s l).slice q with errors := (s.slice q).errors } = s.slice q) ∧
  only .stl (fun o s => (o.ty 0).isScalar && inLs (storeAt o s) (tyBytes o)) (fun o s => [(storeAt o s, tyBytes o)])
    (fun o s b => storeAt o s ≤ b ∧ b < storeAt o s + tyBytes o) ∧
  only .vstm (fun o s => bits o s == 0 || decide (storeAt o s + nb o s ≤ 0x80000))
    (fun o s => if bits o s = 0 then [] else [(storeAt o s, nb o s)])
    (fun o s b => storeAt o s ≤ b ∧ b < storeAt o s + nb o s) ∧
  only .vst (fun o s => ((s.me.place o o.o1 o.o0).check 1 (o.o3 == .m 7)).isNone)
    (fun o s => (s.me.place o o.o1 o.o0).spans)
    (fun o s b =>
      let p := s.me.place o o.o1 o.o0
      (∃ i < p.h.n, (s.me.mask o.o3).getLsbD i = true ∧ p.bit i / 8 ≤ b ∧ b ≤ (p.bit i + p.h.ty.width - 1) / 8) ∨
      ∃ c ∈ p.blocks, p.scaleAt c ≤ b ∧ b < p.scaleAt c + p.h.scaleBytes)

/-- R130, R131: VLD fills the active elements with the bits at their addresses and, for a scaled shape, the strip with every
block's scale; VST stores the active elements in ascending order, a narrow one merged into its byte, and then the scales (that
order of elements and scales, and the region that a range failure reports where several fail: log entry 22); an access that
fails a check traps with its cause and value, and one that touches an engine-owned tile waits, for the bytes of every element,
active or not (log entry 71). R132: VLDM loads the low bits of its mask from the local store and clears the rest; VSTM stores
them, the bits beyond the count as 0; a count of 0 touches nothing. It is the model's choice, too, that none of them waits for
the core's own remote accesses (log entry 70). -/
def Obligations.PlaneAndMaskLoadStore : Prop :=
  let plane := fun (i : Hdr → Ops → Instr) (pv : Word) (vp bp : Ops → Operand)
      (eff : Ops → State → List Nat → (Nat → Nat) → List Nat → (Nat → Nat) → Core) =>
    ∀ (hd : Hdr) (o : Ops) (s : State), s.ready hd o = true →
      let h := s.me.shapeO (vp o)
      let w := h.ty.width
      let base := (addOff (s.me.word (bp o) 0) o.imm).toNat
      let st := (s.me.word o.o2 0).toNat
      let sbase := (s.me.word o.o4 0).toNat
      let split := o.bit 5
      let sb := if h.ty.isBx then 2 else 1
      let kb := sb + 4 * w
      let nb := h.cols / 32
      let inter := h.scaled && !split
      let step := if st = 0 then nb * kb else st
      let bit := fun i =>
        if inter then 8 * (base + i / h.cols * step + i % h.cols / 32 * kb + sb) + i % h.cols % 32 * w
        else if st = 0 then 8 * base + i * w
        else 8 * (base + i / h.cols * st) + i % h.cols * w
      let last := fun i => (bit i + w - 1) / 8
      let scale := fun b => if inter then base + b / nb * step + b % nb * kb else sbase + b * sb
      let blocks := if h.scaled then List.range (h.n / 32) else []
      let al := max (w / 8) 1
      let trap := fun (c : Byte) (v : Word) => exec (i hd o) s = .next (s.takeTrap s.cur c v)
      if st ≠ 0 ∧ h.cols * w % 8 ≠ 0 then trap cILLFMT pv
      else if split = true ∧ h.scaled = false then trap cILLFMT pv
      else if h.scaled = true ∧ o.o3 ≠ .m 7 then trap cILLFMT 3
      else if h.scaled = false ∧ (base % al ≠ 0 ∨ st % al ≠ 0) then trap cALIGN (BitVec.ofNat 64 base)
      else if split = true ∧ h.ty.isBx = true ∧ sbase % 2 ≠ 0 then trap cALIGN (BitVec.ofNat 64 sbase)
      else match (List.range h.n).find? (fun i => decide (0x80000 ≤ last i)),
          blocks.find? (fun b => decide (0x80000 < scale b + sb)) with
        | some i, some b => trap cALIGN (BitVec.ofNat 64 (min (bit i / 8) (scale b)))
        | some i, none => trap cALIGN (BitVec.ofNat 64 (bit i / 8))
        | none, some b => trap cALIGN (BitVec.ofNat 64 (scale b))
        | none, none => ∃ l : List (Nat × Nat),
          (shapeOk (s.me.shp[(vp o).planeNo]) = true → ∀ a, (∃ x ∈ l, x.1 ≤ a ∧ a < x.1 + x.2) ↔
            (∃ i < h.n, bit i / 8 ≤ a ∧ a ≤ last i) ∨ ∃ b ∈ blocks, scale b ≤ a ∧ a < scale b + sb) ∧
          LsEnds (i hd o) s l (eff o s ((List.range h.n).filter fun i => (s.me.mask o.o3).getLsbD i) bit blocks scale)
  let narrow := fun (w : Nat) => (w + 7) / 8
  plane .vld 0 (·.o0) (·.o1) (fun o s idx bit blocks scale =>
    let d := o.o0.planeNo
    let h := s.me.shapeO o.o0
    let w := h.ty.width
    let sb := if h.ty.isBx then 2 else 1
    let k := s.me.setElems d w (idx.map fun i => (i, memReadN s.me.ls (bit i / 8) (narrow w) / 2 ^ (bit i % 8) % 2 ^ w))
    if h.scaled then k.setStrip d (blocks.flatMap fun b => (List.range sb).map fun j =>
      (sb * b + j, memReadN s.me.ls (scale b + j) 1)) else k) ∧
  plane .vst 1 (·.o1) (·.o0) (fun o s idx bit blocks scale =>
    let d := o.o1.planeNo
    let h := s.me.shapeO o.o1
    let w := h.ty.width
    let sb := if h.ty.isBx then 2 else 1
    let merge := fun (l : List Host.Cell) (a x : Nat) =>
      let old := memReadN l (a / 8) (narrow w)
      memWriteN l (a / 8) (old - old / 2 ^ (a % 8) % 2 ^ w * 2 ^ (a % 8) + x % 2 ^ w * 2 ^ (a % 8)) (narrow w)
    let elems := idx.foldl (fun l i => merge l (bit i) (s.me.elem d w i)) s.me.ls
    { s.me with ls := blocks.foldl (fun l b => memWriteN l (scale b) (getBits s.me.strip[d] (8 * (sb * b)) (8 * sb)) sb) elems }) ∧
  let nc := fun (o : Ops) (s : State) => min (s.me.word o.o2 0).toNat 8192
  let nb := fun (o : Ops) (s : State) => (nc o s + 7) / 8
  let span := fun (a : Nat) (o : Ops) (s : State) => if nc o s = 0 then [] else [(a, nb o s)]
  let fits := fun (a : Nat) (o : Ops) (s : State) => nc o s == 0 || decide (a + nb o s ≤ 0x80000)
  LsAccess .vldm (fun o s => fits (loadAt o s) o s) (fun o s => span (loadAt o s) o s) (fun o s =>
    s.me.setMask o.o0 (BitVec.ofNat 8192 (memReadN s.me.ls (loadAt o s) (nb o s) % 2 ^ nc o s))) ∧
  LsAccess .vstm (fun o s => fits (storeAt o s) o s) (fun o s => span (storeAt o s) o s) (fun o s =>
    stored s (storeAt o s) (nb o s) ((s.me.mask o.o1).toNat % 2 ^ nc o s)) ∧
  Traps .vldm (fun o s => !fits (loadAt o s) o s) cALIGN (fun o s => addOff (s.me.word o.o1 0) o.imm) ∧
  Traps .vstm (fun o s => !fits (storeAt o s) o s) cALIGN (fun o s => addOff (s.me.word o.o0 0) o.imm)

/-! ### Classes 0x5 to 0x7: planes -/

/-- R11, R127: writing some elements of a plane, no two with one index and none beyond the register, leaves each of them
holding the low bits of its value, and every other bit of the core as it was. -/
def Obligations.ElementsWritten : Prop :=
  ∀ (k : Core) (p : Fin 32) (w : Nat) (l : List (Nat × Nat)), (l.map Prod.fst).Nodup →
    (∀ x ∈ l, (x.1 + 1) * w ≤ 32768) →
    (∀ x ∈ l, (k.setElems p w l).elem p w x.1 = x.2 % 2 ^ w) ∧
    (∀ b, (∀ x ∈ l, ¬ (x.1 * w ≤ b ∧ b < (x.1 + 1) * w)) → (k.setElems p w l).v[p].getLsbD b = k.v[p].getLsbD b) ∧
    (∀ q : Fin 32, q ≠ p → (k.setElems p w l).v[q] = k.v[q]) ∧ { k.setElems p w l with v := k.v } = k

/-- R133, R134: the arithmetic of class 0x5 rounds the exact value of each active element once, and the special operands of its
functions have the results and flags of R134's table. A type other than FP32, FP16 and BF16 takes ILLFMT with trapval 5, and a
plane of another type or size, or a scaled one, with the number of its operand (R125). That 0 times infinity is invalid in VFMA
with a NaN addend too is log entry 16; the values of the functions rest on log entry 14. These clauses are the model's choice: a
scalar or an immediate that is broadcast is flushed like an element (log entry 20), and VLOG2 of 1 gives +0 (log entry 93). -/
def Obligations.PlaneFloatResults : Prop :=
  let ok := planesOk Ty.isPlaneFloat
  let two := fun (g : Bool → XVal → XVal → XRes) (o : Ops) (s : State) => planeRounded o s fun i =>
    g (modeOf o s.me.planeMode == .rd) (elt o s o.o1 i) (elt o s o.o2 i)
  let one := fun (g : XVal → XRes) (o : Ops) (s : State) => planeRounded o s fun i => g (elt o s o.o1 i)
  let neg := fun (n : Bool) (x : XVal) => if n then x.negate else x
  Completes .vadd ok (two fun rd a b => XVal.add rd a b) ∧ Completes .vsub ok (two fun rd a b => XVal.add rd a b.negate) ∧
  Completes .vmul ok (two fun _ a b => a.mul b) ∧ Completes .vdiv ok (two fun _ a b => a.div b) ∧
  Completes .vfma ok (fun o s => planeRounded o s fun i =>
    let p := (neg (o.bit 9) (elt o s o.o1 i)).mul (elt o s o.o2 i)
    let x := XVal.add (modeOf o s.me.planeMode == .rd) p.1 (neg (o.bit 10) (elt o s o.o3 i))
    (x.1, p.2 ||| x.2)) ∧
  Completes .vsqrt ok (one XVal.sqrt) ∧ Completes .vrcp ok (one fun a => (XVal.fin false 1 1).div a) ∧
  Completes .vrsq ok (one XVal.rsqrt) ∧ Completes .vexp2 ok (one XVal.exp2) ∧ Completes .vlog2 ok (one XVal.log2) ∧
  Completes .vtanh ok (one XVal.tanh) ∧
  (∀ n, XVal.recip (.zero n) = (.inf n, flDivZero)) ∧ (∀ n, XVal.sqrt (.zero n) = (.zero n, 0)) ∧
  (∀ a b, XVal.sqrt (.fin true a b) = (.nan, flInvalid)) ∧ XVal.sqrt (.inf true) = (.nan, flInvalid) ∧
  (∀ n, XVal.rsqrt (.zero n) = (.inf n, flDivZero)) ∧ XVal.rsqrt (.inf false) = (.zero false, 0) ∧
  XVal.rsqrt (.inf true) = (.nan, flInvalid) ∧ (∀ a b, XVal.rsqrt (.fin true a b) = (.nan, flInvalid)) ∧
  XVal.exp2 (.inf true) = (.zero false, 0) ∧ XVal.exp2 (.inf false) = (.inf false, 0) ∧
  (∀ n, XVal.log2 (.zero n) = (.inf true, flDivZero)) ∧ XVal.log2 (.inf false) = (.inf false, 0) ∧
  XVal.log2 (.inf true) = (.nan, flInvalid) ∧ (∀ a b, XVal.log2 (.fin true a b) = (.nan, flInvalid)) ∧
  (∀ n, XVal.tanh (.zero n) = (.zero n, 0)) ∧ (∀ n, XVal.tanh (.inf n) = (.fin n 1 1, 0)) ∧
  (∀ f ∈ [XVal.recip, XVal.sqrt, XVal.rsqrt, XVal.exp2, XVal.log2, XVal.tanh], f .nan = (.nan, 0)) ∧
  ∀ i ∈ [Instr.vadd, Instr.vsub, Instr.vmul, Instr.vdiv, Instr.vfma, Instr.vsqrt, Instr.vrcp, Instr.vrsq, Instr.vexp2, Instr.vlog2,
    Instr.vtanh], TrapsPlanes i fun t => t == .f32 || t == .f16 || t == .bf16

/-- R93, R134: the instructions of class 0x5 that neither round nor draw, with the same ILLFMT checks of type and planes (R125,
R133). It is the model's choice that a scalar or an immediate that is broadcast is flushed like an element (log entry 20). -/
def Obligations.PlaneFloatExact : Prop :=
  let ok := planesOk Ty.isPlaneFloat
  let w := fun (o : Ops) => (o.ty 0).width
  let cc := fun (n : Nat) (f : Ordering → Bool) (un : Bool) =>
    Completes .vfcmp (fun o s => ok o s && o.mod 9 3 == n) (fun o s => s.me.setMask o.o0 (maskWith o s fun i =>
      if (elt o s o.o1 i).isNaN || (elt o s o.o2 i).isNaN then un else f ((elt o s o.o1 i).cmp (elt o s o.o2 i))))
  let enc := fun (o : Ops) (x : XVal) => encExact (o.ty 0) x
  Completes .vabs ok (fun o s => planeMoved o s fun i => eltBits o s o.o1 i % 2 ^ (w o - 1)) ∧
  Completes .vneg ok (fun o s => planeMoved o s fun i => eltBits o s o.o1 i ^^^ 2 ^ (w o - 1)) ∧
  Completes .vmin ok (fun o s => planeMoved o s fun i => enc o ((elt o s o.o1 i).min (elt o s o.o2 i))) ∧
  Completes .vmax ok (fun o s => planeMoved o s fun i => enc o ((elt o s o.o1 i).max (elt o s o.o2 i))) ∧
  Completes .vclamp ok (fun o s => planeMoved o s fun i =>
    enc o (((elt o s o.o1 i).max (elt o s o.o2 i)).min (elt o s o.o3 i))) ∧
  cc 0 (· == .eq) false ∧ cc 1 (· != .eq) true ∧ cc 2 (· == .lt) false ∧ cc 3 (· != .gt) false ∧ cc 4 (· == .gt) false ∧
  cc 5 (· != .lt) false ∧ cc 6 (fun _ => false) true ∧
  ∀ i ∈ [Instr.vabs, Instr.vneg, Instr.vmin, Instr.vmax, Instr.vclamp, Instr.vfcmp],
    TrapsPlanes i fun t => t == .f32 || t == .f16 || t == .bf16

/-- R136, R138, R139: the integer instructions of class 0x6, element by element as R102 and R104 give them. A type outside S8
to N64 takes ILLFMT with trapval 5, and a plane of another type or size, or a scaled one, with the number of its operand (R125,
R135). That an immediate of VIOTA is sign-extended is log entry 95. -/
def Obligations.PlaneIntResults : Prop :=
  let ok := planesOk Ty.isInt
  let two := fun (g : Ops → Int → Int → Int) (o : Ops) (s : State) => planeInts o s fun i =>
    narrowed o (g o (eltI o s o.o1 i) (eltI o s o.o2 i))
  let cnt := fun (o : Ops) (s : State) (i : Nat) => match o.o2 with
    | .v _ => eltBits o s o.o2 i
    | _ => (s.me.word o.o2 o.sext).toNat
  let low := fun (o : Ops) (s : State) (i : Nat) => wrapI (o.ty 0).width (eltI o s o.o1 i)
  let cc := fun (n : Nat) (f : Int → Int → Bool) => Completes .vicmp (fun o s => ok o s && o.mod 10 3 == n)
    (fun o s => s.me.setMask o.o0 (maskWith o s fun i => f (eltI o s o.o1 i) (eltI o s o.o2 i)))
  Completes .viadd ok (two fun _ a b => a + b) ∧ Completes .visub ok (two fun _ a b => a - b) ∧
  Completes .vimul ok (two fun _ a b => a * b) ∧
  Completes .vimulh ok (two fun o a b => (o.ty 0).val (wrapI (o.ty 0).width (a * b / 2 ^ (o.ty 0).width))) ∧
  Completes .vimin ok (two fun _ a b => min a b) ∧ Completes .vimax ok (two fun _ a b => max a b) ∧
  Completes .viabs ok (two fun _ a _ => (a.natAbs : Int)) ∧
  Completes .vshl ok (fun o s => planeInts o s fun i =>
    if o.bit 9 = false ∧ (o.ty 0).width ≤ cnt o s i then 0 else narrowed o (eltI o s o.o1 i * 2 ^ cnt o s i)) ∧
  Completes .vshr ok (fun o s => planeInts o s fun i =>
    if (o.ty 0).isSigned then
      (o.ty 0).val (wrapI (o.ty 0).width (signedOf (o.ty 0).width (low o s i) / 2 ^ cnt o s i))
    else if (o.ty 0).width ≤ cnt o s i then 0 else (o.ty 0).val (low o s i / 2 ^ cnt o s i)) ∧
  Completes .vpopc ok (fun o s => planeInts o s fun i =>
    ((List.range (o.ty 0).width).countP fun j => (eltBits o s o.o1 i).testBit j : Nat)) ∧
  Completes .viota ok (fun o s => planeInts o s fun i =>
    let c := (s.me.refShape o).cols
    (o.ty 0).val ((s.me.word o.o1 o.sext).toNat +
      (if o.mod 10 2 = 0 then i else if o.mod 10 2 = 1 then i / c else i % c))) ∧
  cc 0 (fun a b => decide (a = b)) ∧ cc 1 (fun a b => decide (a ≠ b)) ∧ cc 2 (fun a b => decide (a < b)) ∧
  cc 3 (fun a b => decide (a ≤ b)) ∧ cc 4 (fun a b => decide (a > b)) ∧ cc 5 (fun a b => decide (a ≥ b)) ∧
  ∀ i ∈ [Instr.viadd, Instr.visub, Instr.vimul, Instr.vimulh, Instr.vimin, Instr.vimax, Instr.viabs, Instr.vshl, Instr.vshr,
    Instr.vpopc, Instr.viota, Instr.vicmp], TrapsPlanes i fun t =>
      t == .s8 || t == .n8 || t == .s16 || t == .n16 || t == .s32 || t == .n32 || t == .s64 || t == .n64

/-- R136 to R139: the logic, choice and movement instructions of class 0x6 move bits of any type but FP64, which takes ILLFMT
with trapval 5; a plane that fails its check takes it with the number of its operand (R125, R135), and a scaled VMOV without
mall with 4. These clauses are the model's choice: an immediate row or column of VBCAST is sign-extended (log entry 95), and the
low 8 or 4 bits of an immediate stand for an element of E4M3, E5M2 or E2M1, with no ILLOP for the bits above (log entry 75). -/
def Obligations.PlaneLogicResults : Prop :=
  let ok := planesOk fun t => t != .f64
  let two := fun (g : Nat → Nat → Nat) (o : Ops) (s : State) => planeMoved o s fun i =>
    g (eltBits o s o.o1 i) (eltBits o s o.o2 i)
  let d := fun (o : Ops) (s : State) => s.me.shapeO o.o0
  let r := fun (o : Ops) (s : State) => s.me.shapeO o.o1
  let dst := fun (o : Ops) (s : State) => o.ty 0 != .f64 && (d o s).ty == o.ty 0 && !(d o s).scaled
  let q := fun (o : Ops) (s : State) => (s.me.word o.o2 o.sext).toNat
  let mv := fun (o : Ops) (s : State) => o.ty 0 != .f64 && (d o s).ty == o.ty 0 &&
    (r o s).ty.width == (o.ty 0).width && (r o s).n == (d o s).n && (r o s).scaled == (d o s).scaled
  let moved := fun (o : Ops) (s : State) => planeMoved o s fun i => s.me.elem o.o1.planeNo (o.ty 0).width i
  Completes .vand ok (two (· &&& ·)) ∧ Completes .vor ok (two (· ||| ·)) ∧ Completes .vxor ok (two (· ^^^ ·)) ∧
  Completes .vandn ok (two fun a b => a ^^^ (a &&& b)) ∧
  (∀ (h : Hdr) (o : Ops) (s : State), s.ready h o = true → ok o s = true →
    ∃ g : Nat → Nat, exec (.vlut4 h o) s = .next (s.put (planeMoved o s g)) ∧
      ∀ i, g i < 2 ^ (o.ty 0).width ∧ ∀ j < (o.ty 0).width, (g i).testBit j = o.imm.getLsbD
        (8 * ((eltBits o s o.o1 i).testBit j).toNat + 4 * ((eltBits o s o.o2 i).testBit j).toNat +
          2 * ((eltBits o s o.o3 i).testBit j).toNat + ((eltBits o s o.o0 i).testBit j).toNat)) ∧
  Completes .vsel ok (fun o s => s.me.setElems o.o0.planeNo (o.ty 0).width
    ((List.range (s.me.refShape o).n).map fun i =>
      (i, eltBits o s (if (s.me.mask o.o4).getLsbD i then o.o1 else o.o2) i))) ∧
  Completes .vbcast (fun o s => dst o s && o.mod 10 2 == 0) (fun o s => planeMoved o s fun i => eltBits o s o.o1 i) ∧
  Completes .vbcast (fun o s => dst o s && o.mod 10 2 == 1 && (r o s).ty == o.ty 0 && !(r o s).scaled &&
      (r o s).cols == (d o s).cols) (fun o s => planeMoved o s fun i =>
    eltBits o s o.o1 (q o s % (r o s).rows * (r o s).cols + i % (d o s).cols)) ∧
  Completes .vbcast (fun o s => dst o s && o.mod 10 2 == 2 && (r o s).ty == o.ty 0 && !(r o s).scaled &&
      (r o s).rows == (d o s).rows) (fun o s => planeMoved o s fun i =>
    eltBits o s o.o1 (i / (d o s).cols * (r o s).cols + q o s % (r o s).cols)) ∧
  Completes .vmov (fun o s => mv o s && !(d o s).scaled) moved ∧
  Completes .vmov (fun o s => mv o s && (d o s).scaled && o.o4 == .m 7) (fun o s => (moved o s).setStrip o.o0.planeNo
    ((List.range ((d o s).n / 32 * if (o.ty 0).isBx then 2 else 1)).map fun j => (j, s.me.stripByte o.o1.planeNo j))) ∧
  (∀ i ∈ [Instr.vand, Instr.vor, Instr.vxor, Instr.vandn, Instr.vlut4, Instr.vsel], TrapsPlanes i fun t => t != .f64) ∧
  (∀ i ∈ [Instr.vbcast, Instr.vmov], Traps i (fun o _ => o.ty 0 == .f64) cILLFMT (fun _ _ => 5)) ∧
  Traps .vbcast (fun o s => o.ty 0 != .f64 && !dst o s) cILLFMT (fun _ _ => 0) ∧
  Traps .vbcast (fun o s => dst o s && (o.mod 10 2 == 1 || o.mod 10 2 == 2) && !((r o s).ty == o.ty 0 && !(r o s).scaled &&
    (if o.mod 10 2 == 1 then (r o s).cols == (d o s).cols else (r o s).rows == (d o s).rows))) cILLFMT (fun _ _ => 1) ∧
  Traps .vmov (fun o s => o.ty 0 != .f64 && (d o s).ty != o.ty 0) cILLFMT (fun _ _ => 0) ∧
  Traps .vmov (fun o s => o.ty 0 != .f64 && (d o s).ty == o.ty 0 && !mv o s) cILLFMT (fun _ _ => 1) ∧
  Traps .vmov (fun o s => mv o s && (d o s).scaled && o.o4 != .m 7) cILLFMT (fun _ _ => 4)

/-- The frame of classes 0x5 and 0x6: an instruction with a plane destination changes the bits of its active elements, and
of no other element, plane or register; only lfsr and fpflags may change besides, in class 0x5 (R11, R126). -/
def Obligations.PlaneFrame : Prop :=
  let flt : List (Hdr → Ops → Instr) := [.vadd, .vsub, .vmul, .vdiv, .vfma, .vmin, .vmax, .vabs, .vneg, .vsqrt, .vrcp,
    .vrsq, .vexp2, .vlog2, .vtanh, .vclamp]
  let int : List (Hdr → Ops → Instr) := [.viadd, .visub, .vimul, .vimulh, .vimin, .vimax, .viabs, .vshl, .vshr, .vand,
    .vor, .vxor, .vandn, .vlut4, .vbcast, .viota, .vpopc]
  ∀ i ∈ flt ++ int, ∀ (h : Hdr) (o : Ops) (s t : State), s.ready h o = true → exec (i h o) s = .next t →
    (∀ v, t ≠ s.takeTrap s.cur cILLFMT v) →
    s.OnlyMe t ∧ Core.PlaneOnly o.o0.planeNo s.me t.me ∧ t.me.strip = s.me.strip ∧
    (∀ b, (∀ e ∈ actives o s, ¬ (e * (o.ty 0).width ≤ b ∧ b < (e + 1) * (o.ty 0).width)) →
      t.me.v[o.o0.planeNo].getLsbD b = s.me.v[o.o0.planeNo].getLsbD b) ∧
    (i ∈ int → t.me.lfsr = s.me.lfsr ∧ t.me.fpflags = s.me.fpflags)

/-- R94 to R97, R141 to R143: VCVT rounds each element into its new type, or reduces an integer into an integer type; VQUANT
into an unscaled plane rounds each element divided by the scale; into a scaled one it goes block by block: a block with a NaN or
an infinity, a block of zeros, or exponents from the largest magnitude, with every element rounded under them (the zeros of an
MX block draw nothing: log entry 73; the sign of a NaN is +: log entry 74; the scale is never flushed: log entry 20; a block
with a NaN or an infinity raises invalid alone: log entry 102); VDEQUANT rounds each element times the scale. It is the model's
choice that a VCVT from B1 to an integer type reduces, with no draw (log entry 92). -/
def Obligations.ConversionResults : Prop :=
  let t := Ops.dstTy
  let u := Ops.srcTy
  let src := fun (o : Ops) (s : State) => (s.me.shapeO o.o1).ty == u o && alike o.o1 o.o0 s
  let all := fun (o : Ops) (s : State) (f : Nat → RSt → Nat × RSt) => planeOf o s (t o).width (activeIn o.o0 o s) f
  let scale := fun (o : Ops) (s : State) => Ty.f32.decodeF false ((s.me.word o.o2 o.zext).toNat % 2 ^ 32)
  let whole := fun (o : Ops) => (t o).isInt && ((u o).isInt || u o == .b1)
  let cvt := fun (o : Ops) (s : State) => t o != .f64 && u o != .f64 && !(t o).isBx && t o != .b1 && plain o.o0 (t o) s && src o s
  let types := fun (o : Ops) => (u o).isPlaneFloat && Ty.isQuant (t o) && (!o.bit 19 || (t o).isBx)
  let qnt := fun (o : Ops) (s : State) => types o && (s.me.shapeO o.o0).ty == t o && src o s && !(s.me.shapeO o.o1).scaled
  let gap := fun (o : Ops) => if o.bit 19 then o.mod 15 4 else if t o = .bx8 then 4 else 3
  Completes .vcvt (fun o s => cvt o s && !whole o) (fun o s => all o s fun i =>
    roundTo (convRnd o s) (t o) (s.me.elemO o.o1 i)) ∧
  Completes .vcvt (fun o s => cvt o s && whole o) (fun o s => all o s fun i st =>
    (wrapI (t o).width ((t o).reduce (o.bit 9) (s.me.elemI o.o1.planeNo (s.me.shapeO o.o1) i)), st)) ∧
  Completes .vquant (fun o s => qnt o s && !(s.me.shapeO o.o0).scaled) (fun o s => all o s fun i =>
    roundRes (convRnd o s) (t o) ((s.me.elemO o.o1 i).div (scale o s))) ∧
  Completes .vquant (fun o s => qnt o s && (s.me.shapeO o.o0).scaled && o.o4 == .m 7) (fun o s =>
    let r := (List.range ((s.me.shapeO o.o0).n / 32)).foldl (fun (p : List (Nat × Nat) × List (Nat × Nat) × RSt) b =>
      let idx := (List.range 32).map fun j => 32 * b + j
      let q := fun i => (s.me.elemO o.o1 i).div (scale o s)
      let ys := idx.map fun i => (q i).1
      let st := idx.foldl (fun st i => st.raise (q i).2) p.2.2
      if (t o).isBx then
        let x := bxBlock (convRnd o s).mode (t o == .bx4) (gap o) ys st
        (p.1 ++ idx.zip x.2.1, p.2.1 ++ [(2 * b, x.1.1), (2 * b + 1, x.1.2)], x.2.2)
      else
        let x := mxBlock (convRnd o s) (t o) ys st
        (p.1 ++ idx.zip x.2.1, p.2.1 ++ [(b, x.1)], x.2.2)) ([], [], ⟨s.me.lfsr, 0⟩)
    (({ s.me with lfsr := r.2.2.lfsr, fpflags := s.me.fpflags ||| r.2.2.flags } : Core).setElems o.o0.planeNo (t o).width
      r.1).setStrip o.o0.planeNo r.2.1) ∧
  Traps .vquant (fun o s => qnt o s && (s.me.shapeO o.o0).scaled && o.o4 != .m 7) cILLFMT (fun _ _ => 4) ∧
  Traps .vquant (fun o _ => !types o) cILLFMT (fun _ _ => 5) ∧
  (let times := fun (a b : Nat) (e : Int) => if 0 ≤ e then (a * 2 ^ e.toNat, b) else (a, b * 2 ^ (-e).toNat)
  (∀ (c : RCtx) (t : Ty) (four : Bool) (d : Nat) (ys : List XVal) (st : RSt),
    (∀ n a b, XVal.fin n a b ∈ ys → a ≠ 0 ∧ b ≠ 0) →
    let bad := ∃ y ∈ ys, y = .nan ∨ ∃ n, y = .inf n
    (bad → mxBlock c t ys st = (255, ys.map fun _ => 0, st.raise flInvalid) ∧
      bxBlock c.mode four d ys st = ((255, 255), ys.map fun y => bxCode four true y.neg 0, st.raise flInvalid)) ∧
    (¬ bad → (∀ y ∈ ys, ∃ n, y = .zero n) → mxBlock c t ys st = (127, ys.map fun y => encExact t y, st) ∧
      bxBlock c.mode four d ys st = ((0, 0), ys.map fun y => bxCode four false y.neg 0, st)) ∧
    (¬ bad → ∀ lg : Int, (∃ n a b, XVal.fin n a b ∈ ys ∧ (2 : ℚ) ^ lg ≤ (a : ℚ) / b) →
      (∀ n a b, XVal.fin n a b ∈ ys → (a : ℚ) / b < 2 ^ (lg + 1)) →
      let emax : Int := if t = .e4m3 then 8 else if t = .e5m2 then 15 else 2
      let x := (max 0 (min (lg - emax + 127) 254)).toNat
      let e1 := (max 0 (min (lg + 127) 254)).toNat
      let m := roundList (fun y => roundTo { c with sat := true } t (match y with
        | .fin n a b => .fin n (times a b (127 - x)).1 (times a b (127 - x)).2
        | y => y)) ys st
      let b := roundList (bxElem c.mode four (e1 - d : Nat) e1) ys st
      mxBlock c t ys st = (x, m.1, m.2) ∧ bxBlock c.mode four d ys st = ((e1 - d, e1), b.1, b.2))) ∧
  (∀ (mode : Rnd) (four : Bool) (e0 e1 : Int) (n : Bool) (a b : Nat) (st : RSt),
    let log2F : Int := if four then 1 else 5
    let mmax := if four then 3 else 63
    let dr := st.draw mode
    let m := fun (e : Int) => roundMag mode dr.2 false (times a b (log2F - (e - 127))).1 (times a b (log2F - (e - 127))).2
    let ends := fun (sel : Bool) (e : Int) (k : Nat) (ov : Bool) =>
      let st := if ov then dr.1.raise flOverflow else dr.1
      let st := if k * (times a b (log2F - (e - 127))).2 ≠ (times a b (log2F - (e - 127))).1 then st.raise flInexact else st
      (bxCode four sel n k, if k = 0 then st.raise flUnderflow else st)
    bxElem mode four e0 e1 (.fin n a b) st = (if m e0 ≤ mmax then ends false e0 (m e0) false
      else if m e1 ≤ mmax then ends true e1 (m e1) false else ends true e1 mmax true) ∧
    bxElem mode four e0 e1 (.zero n) st = (bxCode four false n 0, dr.1)) ∧
  ∀ sel neg m, bxCode true sel neg m = 8 * sel.toNat + 4 * neg.toNat + m ∧
    bxCode false sel neg m = 128 * sel.toNat + 64 * neg.toNat + m) ∧
  Completes .vdequant (fun o s => (t o).isPlaneFloat && u o != .f64 && u o != .b1 && plain o.o0 (t o) s && src o s)
    (fun o s => all o s fun i => roundRes (convRnd o s) (t o) ((s.me.elemO o.o1 i).mul (scale o s)))

/-- R89, R144, R145: VREDS and VREDR reduce the active elements of the whole plane, of each row or of each column: the exact
sum (a sum with both infinities is invalid, also where it holds a NaN: log entry 15), the least, the greatest or the bitwise
combination, with the identities of an empty group, then one rounding, never flushed for a scalar, or one reduction, with one
draw a group under SR (for a group of integers too: log entry 79); VARGX finds the index of the least or greatest element, of a
scaled shape for a block type alone (log entry 80). -/
def Obligations.ReductionResults : Prop :=
  let t := Ops.dstTy
  let u := Ops.srcTy
  let op := fun (o : Ops) => o.mod 15 3
  let pairs := fun (o : Ops) (wide : Bool) => if (u o).isInt then (t o).isInt
    else (u o).isFloat && u o != .f64 && decide (op o < 3) && ((t o).isPlaneFloat || (wide && t o == .f64))
  let typed := fun (o : Ops) (s : State) => (s.me.shapeO o.o1).ty == u o
  let d := fun (o : Ops) (s : State) => s.me.shapeO o.o0
  let r := fun (o : Ops) (s : State) => s.me.shapeO o.o1
  let fits := fun (o : Ops) (s : State) => plain o.o0 (t o) s && (if o.bit 18
    then (d o s).rows == 1 && (d o s).cols == (r o s).cols else (d o s).rows == (r o s).rows && (d o s).cols == 1)
  let top := fun (o : Ops) (_ : State) (n : Nat) =>
    decide ((n : Int) - 1 ≤ (t o).maxI) && ((t o).isSigned || decide ((n : Int) - 1 ≠ (t o).maxI))
  let source := fun (o : Ops) (s : State) => typed o s && ((u o).isBx || !(r o s).scaled)
  let act := fun (o : Ops) (s : State) (g : List Nat) => g.filter fun i => (s.me.mask o.o4).getLsbD i
  let exact := fun (o : Ops) (s : State) (g : List Nat) =>
    let l := (act o s g).map (s.me.elemO o.o1)
    ((if op o = 1 then (l.foldl XVal.min (.inf false), 0)
      else if op o = 2 then (l.foldl XVal.max (.inf true), 0)
      else if l.contains (.inf false) && l.contains (.inf true) then (.nan, flInvalid)
      else match l with
        | [] => (.zero false, 0)
        | x :: l => (l.foldl (fun a y => (XVal.add ((convRnd o s).mode == .rd) a y).1) x, 0)) : XRes)
  let whole := fun (o : Ops) (s : State) (g : List Nat) =>
    let l := (act o s g).map (s.me.elemI o.o1.planeNo (r o s))
    let b := l.map (wrapI (u o).width)
    let n : Int := match op o with
      | 0 => l.sum
      | 1 => l.foldl min (u o).maxI
      | 2 => l.foldl max (u o).minI
      | 3 => (u o).val (b.foldl (· &&& ·) (2 ^ (u o).width - 1))
      | 4 => (u o).val (b.foldl (· ||| ·) 0)
      | _ => (u o).val (b.foldl (· ^^^ ·) 0)
    (t o).reduce (o.bit 9) n
  let cell := fun (o : Ops) (s : State) (j : Nat) => if o.bit 18 then (List.range (r o s).rows).map fun i => i * (r o s).cols + j
    else (List.range (r o s).cols).map fun i => j * (r o s).cols + i
  let drawn := fun (o : Ops) (s : State) (st : RSt) => if (convRnd o s).mode = .sr then { st with lfsr := lfsrNext st.lfsr } else st
  Completes .vreds (fun o s => pairs o true && typed o s && (u o).isInt) (fun o s =>
    ({ s.me with lfsr := if (convRnd o s).mode = .sr then lfsrNext s.me.lfsr else s.me.lfsr } : Core).setWord o.o0
      (BitVec.ofInt 64 (whole o s (List.range (r o s).n)))) ∧
  Completes .vreds (fun o s => pairs o true && typed o s && !(u o).isInt) (fun o s =>
    let x := roundRes ⟨(convRnd o s).mode, o.bit 9, false⟩ (t o) (exact o s (List.range (r o s).n)) ⟨s.me.lfsr, 0⟩
    ({ s.me with lfsr := x.2.lfsr, fpflags := s.me.fpflags ||| x.2.flags } : Core).setWord o.o0 (BitVec.ofNat 64 x.1)) ∧
  Completes .vredr (fun o s => pairs o false && fits o s && typed o s) (fun o s =>
    planeOf o s (t o).width (List.range (if o.bit 18 then (r o s).cols else (r o s).rows)) fun j st =>
      if (u o).isInt then (wrapI (t o).width (whole o s (cell o s j)), drawn o s st)
      else roundRes (convRnd o s) (t o) (exact o s (cell o s j)) st) ∧
  Completes .vargx (fun o s => !Ops.planeDst o && (t o).isInt && u o != .f64 && u o != .b1 && source o s &&
      top o s (r o s).n)
    (fun o s => s.me.setWord o.o0 (BitVec.ofInt 64 ((t o).val (argOf (o.bit 15) (t o).width
      ((activeIn o.o1 o s).map fun i => (i, s.me.elemO o.o1 i)))))) ∧
  Completes .vargx (fun o s => Ops.planeDst o && (t o).isInt && u o != .f64 && u o != .b1 && plain o.o0 (t o) s &&
      (d o s).rows == (r o s).rows && (d o s).cols == 1 && source o s && top o s (r o s).cols)
    (fun o s => s.me.setElems o.o0.planeNo (t o).width ((List.range (r o s).rows).map fun j =>
      (j, argOf (o.bit 15) (t o).width (((List.range (r o s).cols).filter fun i =>
        (s.me.mask o.o4).getLsbD (j * (r o s).cols + i)).map fun i => (i, s.me.elemO o.o1 (j * (r o s).cols + i)))))) ∧
  Traps .vargx (fun o s => (t o).isInt && u o != .f64 && u o != .b1 && !Ops.planeDst o &&
    (!source o s || !top o s (r o s).n)) cILLFMT (fun _ _ => 1)

/-- R146 to R148: VSCAN runs its recurrence h := a · h + b along each group from its starting value, VSORTK moves each group's
keys and values into their order, and VSEGRED writes the reduction of each segment's values up to each element and the mask of
the segments' last elements; under SR each active element of a VSCAN and a VSEGRED draws once (an integer too: log entry 79).
These clauses are the model's choice: a scalar that is broadcast or starts the recurrence is flushed like an element (log entry
20); a float immediate in op3 of VSCAN stands for a float as R110 says (log entry 18); an invalid product of VSCAN, 0 times
infinity, raises its flag beside a NaN addend (log entry 16); the shapes of VSORTK agree in type, scale, rows and columns, not
in an exponent field (log entry 76); where its destinations are equal the value plane is written last (log entry 23); a VSEGRED
sum with both infinities is invalid, also beside a NaN (log entry 15); and its key plane may be of a block type, compared by the
bits of its elements (log entry 80). -/
def Obligations.ScanSortSegment : Prop :=
  let t := Ops.dstTy
  let u := Ops.srcTy
  let num := fun (t : Ty) => t.isInt || t.isPlaneFloat
  let groups := fun (o : Ops) (s : State) =>
    let h := s.me.shapeO o.o0
    if o.bit 15 then [List.range h.n]
    else (List.range h.rows).map fun r => (List.range h.cols).map fun c => r * h.cols + c
  let act := fun (o : Ops) (s : State) (g : List Nat) => g.filter fun i => (s.me.mask o.o4).getLsbD i
  let as := fun (x : Operand) (t : Ty) (o : Ops) (s : State) => plain x t s && alike x o.o0 s
  let orBroadcast := fun (x : Operand) (t : Ty) (o : Ops) (s : State) => match x with
    | .v _ => as x t o s
    | _ => true
  let flags := fun (s : State) (st : RSt) => ({ s.me with lfsr := st.lfsr, fpflags := s.me.fpflags ||| st.flags } : Core)
  let drawn := fun (o : Ops) (s : State) (st : RSt) => if (convRnd o s).mode = .sr then { st with lfsr := lfsrNext st.lfsr } else st
  let rd := fun (o : Ops) (s : State) => (convRnd o s).mode == .rd
  let types := fun (o : Ops) (s : State) => u o == t o && num (t o) && plain o.o0 (t o) s && orBroadcast o.o1 (t o) o s &&
    orBroadcast o.o2 (t o) o s
  Completes .vscan (fun o s => types o s && (t o).isInt) (fun o s =>
    (flags s ((groups o s).foldl (fun st g => (act o s g).foldl (fun st _ => drawn o s st) st) ⟨s.me.lfsr, 0⟩)).setElems
      o.o0.planeNo (t o).width ((groups o s).flatMap fun g => ((act o s g).foldl (fun (p : List (Nat × Nat) × Int) i =>
      let h := (t o).reduce (o.bit 9) (eltI o s o.o1 i * p.2 + eltI o s o.o2 i)
      (p.1 ++ [(i, wrapI (t o).width h)], h)) ([], eltI o s o.o3 0)).1)) ∧
  Completes .vscan (fun o s => types o s && !(t o).isInt) (fun o s =>
    let r := (groups o s).foldl (fun (p : List (Nat × Nat) × RSt) g =>
      let q := (act o s g).foldl (fun (q : List (Nat × Nat) × XVal × RSt) i =>
        let m := (elt o s o.o1 i).mul q.2.1
        let x := XVal.add (rd o s) m.1 (elt o s o.o2 i)
        let y := roundRes (convRnd o s) (t o) (x.1, m.2 ||| x.2) q.2.2
        (q.1 ++ [(i, y.1)], (t o).decodeF false y.1, y.2)) (p.1, elt o s o.o3 0, p.2)
      (q.1, q.2.2)) ([], ⟨s.me.lfsr, 0⟩)
    (flags s r.2).setElems o.o0.planeNo (t o).width r.1) ∧
  Completes .vsortk (fun o s => num (t o) && u o != .f64 && plain o.o0 (t o) s && as o.o1 (u o) o s && as o.o2 (t o) o s &&
      as o.o3 (u o) o s) (fun o s =>
    let mv := (groups o s).flatMap fun g => (act o s g).zip (sortKeys (s.me.elemO o.o2) (o.bit 16) (act o s g))
    (s.me.setElems o.o0.planeNo (t o).width (mv.map fun x => (x.1, s.me.elem o.o2.planeNo (t o).width x.2))).setElems
      o.o1.planeNo (u o).width (mv.map fun x => (x.1, s.me.elem o.o3.planeNo (u o).width x.2))) ∧
  ∀ (h : Hdr) (o : Ops) (s : State), s.ready h o = true → (num (t o) && u o != .f64 && plain o.o0 (t o) s &&
      ((s.me.shapeO o.o2).ty == u o && ((u o).isBx || !(s.me.shapeO o.o2).scaled) && alike o.o2 o.o0 s) &&
      as o.o3 (t o) o s) = true →
    let key := fun i => s.me.elem o.o2.planeNo (u o).width i
    -- the segment of an active element, up to that element, and whether it is the last one of its segment
    let upTo := fun (g : List Nat) (i : Nat) => (((act o s g).filter (· ≤ i)).reverse.takeWhile fun j => key j == key i).reverse
    let ends := fun (g : List Nat) (i : Nat) => (((act o s g).filter (i < ·)).head?.all fun j => key j != key i)
    let one := fun (g : List Nat) (i : Nat) (st : RSt) =>
      let l := (upTo g i).map (s.me.elemO o.o3)
      let n := (upTo g i).map (s.me.elemI o.o3.planeNo (s.me.shapeO o.o3))
      if (t o).isInt then (wrapI (t o).width ((t o).reduce (o.bit 9) (match o.mod 16 2 with
        | 0 => n.sum
        | 1 => n.foldl min (t o).maxI
        | _ => n.foldl max (t o).minI)), drawn o s st)
      else roundRes (convRnd o s) (t o) (match o.mod 16 2 with
        | 0 => if l.contains (.inf false) && l.contains (.inf true) then (.nan, flInvalid)
          else (l.tail.foldl (fun a y => (XVal.add (rd o s) a y).1) (l.headD (.zero false)), 0)
        | 1 => (l.foldl XVal.min (.inf false), 0)
        | _ => (l.foldl XVal.max (.inf true), 0)) st
    let r := (groups o s).foldl (fun (p : List (Nat × Nat) × RSt) g =>
      let q := mapRound (one g) (act o s g) p.2
      (p.1 ++ q.1, q.2)) ([], ⟨s.me.lfsr, 0⟩)
    exec (.vsegred h o) s = .next (s.put (((flags s r.2).setElems o.o0.planeNo (t o).width r.1).setMask o.o1
      (maskOf ((List.range (s.me.shapeO o.o0).n).map fun i =>
        (groups o s).any fun g => (act o s g).contains i && ends g i))))

/-- R147, R145: the order of VSORTK keeps every index once, puts no key before one that stands strictly before it, NaN keys
last in both directions, and keeps the order of equal keys; the index that VARGX answers is that of an active element with
no better one and no equal one before it, NaN
passed over; the first active one where every value is NaN; all ones where there is none. -/
def Obligations.SortAndSelectionOrder : Prop :=
  (∀ (key : Nat → XVal) (desc : Bool) (l : List Nat), (∀ i n a b, key i = .fin n a b → a ≠ 0 ∧ b ≠ 0) →
    l.Pairwise (· < ·) →
    (sortKeys key desc l).Perm l ∧
    (sortKeys key desc l).Pairwise fun i j =>
      keyBefore desc (key j) (key i) = false ∧ (keyBefore desc (key i) (key j) = false → i < j)) ∧
  ∀ (mx : Bool) (w : Nat) (l : List (Nat × XVal)), (∀ x ∈ l, ∀ n a b, x.2 = .fin n a b → a ≠ 0 ∧ b ≠ 0) →
    (l = [] → argOf mx w l = 2 ^ w - 1) ∧
    (∀ x r, l = x :: r → (∀ y ∈ l, y.2.isNaN = true) → argOf mx w l = x.1) ∧
    ((∃ y ∈ l, y.2.isNaN = false) → ∃ p x q, l = p ++ x :: q ∧ argOf mx w l = x.1 ∧ x.2.isNaN = false ∧
      (∀ y ∈ p, y.2.isNaN = false → (if mx then y.2.lt x.2 else x.2.lt y.2) = true) ∧
      (∀ y ∈ q, y.2.isNaN = false → (if mx then x.2.lt y.2 else y.2.lt x.2) = false))

/-! ### Class 0x8: lattice and masks -/

/-- R149, R151 to R153: where each site of a VSHIFT that needs no neighbour core takes its bits from; a diagonal
with .edge or .halo takes ILLFMT with trapval 5, and a scaled shape or one that disagrees takes it with the number of the
first operand that fails. -/
def Obligations.LatticeShift : Prop :=
  let mode := fun (o : Ops) => o.mod 3 3
  let d := fun (o : Ops) (s : State) => s.me.shapeO o.o0
  let same := fun (x : Operand) (o : Ops) (s : State) => plain x (d o s).ty s && alike x o.o0 s
  let diag := fun (o : Ops) => o.mod 0 3 % 2 == 1 && (mode o == 4 || mode o == 5)
  let good := fun (o : Ops) (s : State) => !diag o && !(d o s).scaled && same o.o1 o s && (mode o != 4 || same o.o2 o s)
  Completes .vshift (fun o s => decide (mode o < 5) && good o s) (fun o s =>
    let rows := (d o s).rows
    let cols := (d o s).cols
    let w := (d o s).ty.width
    let dir := (steps8[o.mod 0 3]?).getD (0, 0)
    let at_ := fun (x : Operand) (r c : Int) => s.me.elem x.planeNo w (r.toNat * cols + c.toNat)
    s.me.setElems o.o0.planeNo w ((List.range (d o s).n).map fun i =>
      let sr := ((i / cols : Nat) : Int) - dir.1
      let sc := ((i % cols : Nat) : Int) - dir.2
      (i, if 0 ≤ sr ∧ sr < rows ∧ 0 ≤ sc ∧ sc < cols then at_ o.o1 sr sc
        else if mode o = 0 then 0
        else if mode o = 1 then (s.me.word o.o2 o.sext).toNat
        else if mode o = 2 then at_ o.o1 (min (max sr 0) (rows - 1)) (min (max sc 0) (cols - 1))
        else if mode o = 3 then at_ o.o1 (sr % rows) (sc % cols)
        else at_ o.o2 (sr % rows) (sc % cols)))) ∧
  Traps .vshift (fun o _ => diag o) cILLFMT (fun _ _ => 5) ∧
  Traps .vshift (fun o s => !diag o && (d o s).scaled) cILLFMT (fun _ _ => 0) ∧
  Traps .vshift (fun o s => !diag o && !(d o s).scaled && !same o.o1 o s) cILLFMT (fun _ _ => 1) ∧
  Traps .vshift (fun o s => !diag o && !(d o s).scaled && same o.o1 o s && mode o == 4 && !same o.o2 o s) cILLFMT
    (fun _ _ => 2)

/-- R154 to R156, R202: a HALO VSHIFT with both partners in its gang sends its edge to the one, and with no edge buffered
leaves its destination as it is, pending until the other's arrives; the census counts the edge and the shift. The arrival
writes the destination's interior and its edge together and ends both counts, once the port of the core that sent the edge has
credit (R220: log entry 13). -/
def Obligations.HaloExchange : Prop :=
  (∀ (h : Hdr) (o : Ops) (s : State) (g : Gang) (x y : Nat) (p : Nat × Nat), s.ready h o = true →
    o.mod 3 3 = 5 → s.me.shiftBad o = none → s.gangAt s.me = some g →
    haloPartner g s.me.gx s.me.gy (o.mod 0 3) 1 (o.bit 6) = some (x, y) →
    haloPartner g s.me.gx s.me.gy (o.mod 0 3) (-1) (o.bit 6) = some p →
    (∀ e ∈ s.me.edges, e.1 ≠ Fin.ofNat 8 (o.mod 0 3)) →
    let k := s.me
    let d := Fin.ofNat 8 (o.mod 0 3)
    let r := k.shapeO o.o1
    let bits := concatBits r.ty.width ((edgeSites (o.mod 0 3) r.rows r.cols).map (k.elem o.o1.planeNo r.ty.width))
    let inner := k.shiftElems o (k.shiftFill o)
    exec (.vshift h o) s = .next (((((s.setGang { g with
      edges := g.edges ++ [⟨d, x, y, bits⟩], census := g.census + 1 }).setMe
        { k with haloPend := k.haloPend ++ [⟨d, o.o0.planeNo, k.shp[o.o0.planeNo], inner⟩] }).raise g.gid 1).issued s.cur s.nextPc))) ∧
  ∀ (s : State) (c : CoreId) (d : Fin 8) (g : Gang) (e : Edge) (rest : List Edge) (p : HaloPend) (ps : List HaloPend),
    s.gangAt (s.core c) = some g → g.phase ≠ .killing → g.edges = e :: rest → e.dir = d → e.gx = (s.core c).gx →
    e.gy = (s.core c).gy → (s.core c).haloPend = p :: ps → p.dir = d →
    let k := s.core c
    let from_ := g.coreAt (((k.gx : Int) - dirCol d.val) % ((2 * g.launch.w : Nat) : Int)).toNat
      (((k.gy : Int) - dirRow d.val) % ((2 * g.launch.h : Nat) : Int)).toNat
    (s.portOpen (corePort from_) = false → exec (.haloEdgeArrival c d) s = .next s) ∧
    (s.portOpen (corePort from_) = true → exec (.haloEdgeArrival c d) s = .next ((((s.setGang { g with edges := rest }).setCore c
      ({ s.core c with haloPend := ps }.setElems p.dst (shapeOf p.shp).ty.width
        (p.inner ++ haloElems d (shapeOf p.shp) e.bits))).lower g.gid 2)))

/-- R157, R158: the mask logic over all 8,192 bits, and the counts over a stated number of them. -/
def Obligations.MaskResults : Prop :=
  let m := fun (f : BitVec 8192 → BitVec 8192 → BitVec 8192) (o : Ops) (s : State) =>
    s.me.setMask o.o0 (f (s.me.mask o.o1) (s.me.mask o.o2))
  let n := fun (o : Ops) (s : State) => min (s.me.word o.o2 o.sext).toNat 8192
  let bit := fun (o : Ops) (s : State) (j : Nat) => (s.me.mask o.o1).getLsbD j
  Completes .mand always (m fun a b => a &&& b) ∧ Completes .mor always (m fun a b => a ||| b) ∧
  Completes .mxor always (m fun a b => a ^^^ b) ∧ Completes .mandn always (m fun a b => a &&& ~~~b) ∧
  Completes .mnot always (m fun a _ => ~~~a) ∧ Completes .mmov always (m fun a _ => a) ∧
  Completes .mpop always (fun o s => s.me.setWord o.o0 (BitVec.ofNat 64 ((List.range (n o s)).countP (bit o s)))) ∧
  Completes .many (fun o _ => !o.bit 0) (fun o s => s.me.setPred o.o0 (decide (∃ j < n o s, bit o s j = true))) ∧
  Completes .many (fun o _ => o.bit 0) (fun o s => s.me.setPred o.o0 (decide (∀ j < n o s, bit o s j = true)))

/-- R159 to R161: MSHIFT moves mask bits as VSHIFT moves elements, MRULE selects the sites of a rule and collects the rules
that are present, and MEDGE says which sides and corners a mask touches. -/
def Obligations.MaskShiftRuleEdge : Prop :=
  let h := fun (o : Ops) (s : State) => s.me.shapeO o.o2
  let mode := fun (o : Ops) => o.mod 3 3
  (∀ (hd : Hdr) (o : Ops) (s : State), s.ready hd o = true → mode o < 5 → (mode o = 4 → o.mod 0 3 % 2 = 0) →
    let rows := (h o s).rows
    let cols := (h o s).cols
    let dir := (steps8[o.mod 0 3]?).getD (0, 0)
    let at_ := fun (x : Operand) (r c : Int) => (s.me.mask x).getLsbD (r.toNat * cols + c.toNat)
    exec (.mshift hd o) s = .next (s.put (s.me.setMask o.o0 (maskOf ((List.range (h o s).n).map fun i =>
      let sr := ((i / cols : Nat) : Int) - dir.1
      let sc := ((i % cols : Nat) : Int) - dir.2
      if 0 ≤ sr ∧ sr < rows ∧ 0 ≤ sc ∧ sc < cols then at_ o.o1 sr sc
      else if mode o = 0 then false
      else if mode o = 1 then o.imm.getLsbD 0
      else if mode o = 2 then at_ o.o1 (min (max sr 0) (rows - 1)) (min (max sc 0) (cols - 1))
      else if mode o = 3 then at_ o.o1 (sr % rows) (sc % cols)
      else at_ o.o3 (sr % rows) (sc % cols)))))) ∧
  (∀ (hd : Hdr) (o : Ops) (s : State), s.ready hd o = true → (h o s).ty = .n8 ∨ (h o s).ty = .n16 → (h o s).scaled = false →
    let id := s.me.elem o.o2.planeNo (h o s).ty.width
    let act := fun i => (s.me.mask o.o4).getLsbD i
    ∃ set : Word, exec (.mrule hd o) s = .next (s.put ((s.me.setMask o.o0 (maskOf ((List.range (h o s).n).map fun i =>
        act i && decide (id i = (s.me.word o.o3 o.sext).toNat)))).setWord o.o1 set)) ∧
      ∀ j < 64, set.getLsbD j = decide (∃ i < (h o s).n, act i = true ∧ min (id i) 63 = j)) ∧
  ∀ (hd : Hdr) (o : Ops) (s : State), s.ready hd o = true →
    let cols := (h o s).cols
    let rows := (h o s).rows
    let at_ := fun r c => (s.me.mask o.o1).getLsbD (r * cols + c)
    ∃ v : Word, exec (.medge hd o) s = .next (s.put (s.me.setWord o.o0 v)) ∧ v.toNat < 256 ∧
      v.getLsbD 0 = decide (∃ c < cols, at_ 0 c = true) ∧ v.getLsbD 1 = at_ 0 (cols - 1) ∧
      v.getLsbD 2 = decide (∃ r < rows, at_ r (cols - 1) = true) ∧ v.getLsbD 3 = at_ (rows - 1) (cols - 1) ∧
      v.getLsbD 4 = decide (∃ c < cols, at_ (rows - 1) c = true) ∧ v.getLsbD 5 = at_ (rows - 1) 0 ∧
      v.getLsbD 6 = decide (∃ r < rows, at_ r 0 = true) ∧ v.getLsbD 7 = at_ 0 0

/-- R162: ACTRD reads one bit of an aligned 64-bit word of the local store, ACTWR sets, clears, puts or ors bits of it; a
word that is not aligned or not inside takes ALIGN, and an engine-owned tile is waited for; a remote access of the same
firing to its own core is not (model's choice, log entry 70). A base plus offset beyond 2^64 wraps (model's choice, log entry 94). -/
def Obligations.ActivityResults : Prop :=
  let ra := fun (o : Ops) (s : State) => (if o.o2 = .imm then s.me.word o.o1 0 else addOff (s.me.word o.o1 0) o.imm).toNat
  let wa := fun (o : Ops) (s : State) => (if o.o1 = .imm then s.me.word o.o0 0 else addOff (s.me.word o.o0 0) o.imm).toNat
  let bit := fun (o : Ops) (s : State) => (1 : Word) <<< ((s.me.word o.o1 o.zext).toNat % 64)
  let w := fun (op : Nat) (f : Ops → State → Word → Word) => LsAccess .actwr
    (fun o s => o.mod 0 2 == op && inLs (wa o s) 8) (fun o s => [(wa o s, 8)])
    (fun o s => stored s (wa o s) 8 (f o s (BitVec.ofNat 64 (memReadN s.me.ls (wa o s) 8))).toNat)
  LsAccess .actrd (fun o s => inLs (ra o s) 8) (fun o s => [(ra o s, 8)]) (fun o s => s.me.setPred o.o0
    ((memReadN s.me.ls (ra o s) 8).testBit ((s.me.word o.o2 o.zext).toNat % 64))) ∧
  w 0 (fun o s x => x ||| bit o s) ∧ w 1 (fun o s x => x &&& ~~~ bit o s) ∧
  w 2 (fun o s x => if s.me.putBit o.o2 then x ||| bit o s else x &&& ~~~ bit o s) ∧
  w 3 (fun o s x => x ||| s.me.word o.o1 o.zext) ∧
  Traps .actrd (fun o s => !inLs (ra o s) 8) cALIGN (fun o s => BitVec.ofNat 64 (ra o s)) ∧
  Traps .actwr (fun o s => !inLs (wa o s) 8) cALIGN (fun o s => BitVec.ofNat 64 (wa o s))

/-! ### Class 0x9: matrix -/

/-- R167: MZERO writes 0 to all 4,096 elements of its accumulator, reads no register, raises no flag and draws nothing;
its modifier is zero. -/
def Obligations.MatrixZero : Prop :=
  Completes .mzero always (fun o s => { s.me with acc := s.me.acc.set o.o0.accNo 0 }) ∧
  (∀ (k : Core) (a : Fin 4), ∀ i < 4096, { k with acc := k.acc.set a 0 }.accBits a i = 0) ∧
  ∀ w h o, decode w = .ok (.mzero h o) → o.md = 0

/-- R168 to R172: MMA and MMAS add each exact dot product to its accumulator element, rounded once with RNE and never
flushed, or wrapped for integers; every other element of the accumulators and every register keep their bits, lfsr among
them. A float element is the exact sum of the accumulator, or of −0 in its place, and the products, a NaN with invalid where both
infinities meet, rounded once; its flags are those of the products, of the sum and of the rounding. A type, a shape or a rounding
code that R168 or R172 does not accept takes ILLFMT with the number of its operand. These clauses are the model's choice: 0 times
infinity is invalid (log entry 16), and so are both infinities, beside a NaN too (log entry 15); and what an odd op2 of MMAS does
(log entry 21). -/
def Obligations.MatrixProducts : Prop :=
  let val := fun (y : XVal) => (match y with
    | .fin n p q => (if n then -1 else 1) * (p : ℚ) / q
    | _ => 0 : ℚ)
  let finite := fun (y : XVal) => match y with
    | .zero _ => True
    | .fin _ _ q => q ≠ 0
    | _ => False
  let exact := fun (z : Bool) (acc : Nat) (terms : List XRes) =>
    let l := (if z then .zero true else Ty.f32.decodeF false acc) :: terms.map (·.1)
    let both := l.contains (.inf false) && l.contains (.inf true)
    ((if both then .nan else l.tail.foldl (fun y x => (XVal.add false y x).1) (l.headD .nan),
      terms.foldl (fun f x => f ||| x.2) 0 ||| if both then flInvalid else 0) : XRes)
  let kind := fun (t : Ty) => if t = .bf16 then 1 else if t = .f16 then 2 else if t = .e4m3 ∨ t = .e5m2 ∨ t = .bx8 then 3
    else if t = .s8 ∨ t = .n8 then 4 else if t = .e2m1 ∨ t = .bx4 then 5 else 0
  let float8 := fun (t : Ty) => t = .e4m3 ∨ t = .e5m2
  let sum := fun (o : Ops) (s : State) (i j n : Nat) (a : Nat → XVal) (b : Nat → XVal) =>
    macFloat (o.bit 14) (s.me.accBits o.o0.accNo (64 * i + j)) ((List.range n).map fun e => (a e).mul (b e)) ⟨s.me.lfsr, 0⟩
  let window := fun (i : Instr) (o : Ops) (s : State) (n : Nat) (r : Nat → Nat → Nat) (fl : FpFlags → Prop) =>
    ∃ (acc : BitVec 131072) (f : FpFlags), fl f ∧
      exec i s = .next (s.put { s.me with
        acc := s.me.acc.set o.o0.accNo acc, fpflags := s.me.fpflags ||| f }) ∧
      ∀ i < 64, ∀ j < 64, getBits acc (32 * (64 * i + j)) 32 =
        if i < (s.me.shapeO o.o1).rows ∧ j < n then r i j else s.me.accBits o.o0.accNo (64 * i + j)
  let a := fun (o : Ops) (s : State) => s.me.shapeO o.o1
  let b := fun (o : Ops) (s : State) => s.me.shapeO o.o2
  let x := fun (s : State) (y : Operand) (e : Nat) => s.me.matX y.planeNo e
  let flags := fun (o : Ops) (s : State) (r : Nat → Nat → Nat × RSt) => ((List.range (a o s).rows).flatMap fun i =>
    (List.range (b o s).rows).map fun j => (r i j).2.flags).foldl (· ||| ·) 0
  (∀ (z : Bool) (acc : Nat) (terms : List XRes) (st : RSt), let e := exact z acc terms
    macFloat z acc terms st = roundTo ⟨.rne, false, false⟩ .f32 e.1 { st with flags := st.flags ||| e.2 } ∧
    (macFloat z acc terms st).2.lfsr = st.lfsr) ∧
  (∀ y z : XVal, (finite y → finite z →
      val (XVal.add false y z).1 = val y + val z ∧ finite (XVal.add false y z).1 ∧ (XVal.add false y z).2 = 0 ∧
      val (y.mul z).1 = val y * val z ∧ finite (y.mul z).1 ∧ (y.mul z).2 = 0) ∧
    (∀ n, finite z → XVal.add false (.inf n) z = (.inf n, 0) ∧ XVal.add false z (.inf n) = (.inf n, 0) ∧
      (val z ≠ 0 → XVal.mul (.inf n) z = (.inf (n != z.neg), 0)) ∧ XVal.mul (.inf n) (.zero false) = (.nan, flInvalid)) ∧
    (XVal.add false .nan z).1 = .nan ∧ (XVal.add false z .nan).1 = .nan ∧ y.mul .nan = (.nan, 0) ∧ XVal.mul .nan z = (.nan, 0)) ∧
  (∀ (k : Core) (o : Ops),
    let t := o.ty 0
    let u := o.ty 9
    let p := k.shapeO o.o1
    let q := k.shapeO o.o2
    let pair := k.shape (o.o2.planeNo + 1)
    let m := k.shapeO o.o3
    let even := o.o2.planeNo.val % 2 = 0
    let code := o.bit 8 = true ∧ o.mod 5 3 ≠ 0
    k.mmaBad o = (if kind t = 0 ∨ kind u ≠ kind t ∨ code then some 5
      else if ¬(p.ty = t ∧ p.cols ≤ (if kind t ≤ 2 then 32 else if kind t ≤ 4 then 64 else 128)) then some 1
      else if ¬(q.ty = u ∧ q.cols = p.cols) then some 2 else none) ∧
    k.mmasBad o = (if ¬((t = .bf16 ∧ u = .bf16) ∨ (float8 t ∧ float8 u)) ∨ code ∨ p.scaled = true ∨ q.scaled = true ∨
        (even ∧ pair.scaled = true) then some 5
      else if ¬(p.ty = t ∧ p.cols % 2 = 0 ∧ p.cols ≤ (if t = .bf16 then 32 else 64)) then some 1
      else if ¬(even ∧ q.ty = u ∧ q = pair ∧ q.cols = p.cols) then some 2
      else if ¬(m.ty = .b1 ∧ m.rows = p.rows ∧ m.cols = 2 * p.cols) then some 3 else none)) ∧
  Traps .mma (fun o s => (s.me.mmaBad o).isSome) cILLFMT (fun o s => BitVec.ofNat 64 ((s.me.mmaBad o).getD 0)) ∧
  Traps .mmas (fun o s => (s.me.mmasBad o).isSome) cILLFMT (fun o s => BitVec.ofNat 64 ((s.me.mmasBad o).getD 0)) ∧
  ∀ (h : Hdr) (o : Ops) (s : State), s.ready h o = true → (b o s).rows ≤ 64 →
    (s.me.mmaBad o = none → (o.ty 0).isInt = true →
      window (.mma h o) o s (b o s).rows (fun i j => wrapI 32 ((if o.bit 14 then 0 else
        signedOf 32 (s.me.accBits o.o0.accNo (64 * i + j))) + ((List.range (a o s).cols).map fun e =>
          s.me.matI o.o1.planeNo (i * (a o s).cols + e) * s.me.matI o.o2.planeNo (j * (a o s).cols + e)).sum)) (· = 0)) ∧
    (s.me.mmaBad o = none → (o.ty 0).isInt = false →
      let r := fun i j => sum o s i j (a o s).cols (fun e => x s o.o1 (i * (a o s).cols + e))
        (fun e => x s o.o2 (j * (a o s).cols + e))
      window (.mma h o) o s (b o s).rows (fun i j => (r i j).1) (· = flags o s r)) ∧
    (s.me.mmasBad o = none → s.regPending (.v (pairNo o.o2.planeNo)) = false →
      let r := fun i j => sum o s i j (a o s).cols (fun e => x s o.o1 (i * (a o s).cols + e))
        (fun e =>
          let c := 4 * (e / 2) + s.me.elem o.o3.planeNo 1 (i * 2 * (a o s).cols + 2 * e) +
            2 * s.me.elem o.o3.planeNo 1 (i * 2 * (a o s).cols + 2 * e + 1)
          if c < (a o s).cols then x s o.o2 (j * (a o s).cols + c)
          else s.me.matX (pairNo o.o2.planeNo) (j * (a o s).cols + (c - (a o s).cols)))
      window (.mmas h o) o s (b o s).rows (fun i j => (r i j).1) (· = flags o s r))

/-- R173 to R175: ACCRD converts the active elements of its window into a plane, ACCWR the active elements of a plane into its
window, added where the modifier says so; a type or a plane that they do not accept takes ILLFMT with the number of its operand.
These clauses are the model's choice: a block type fails at the plane of an ACCWR (log entry 21); under .sr an ACCRD of an
integer from an integer draws once per active element, as the prose of R174 says, though its pseudocode rounds nothing there
(log entry 79); and a float ACCWR that adds rounds its sum alone, and so draws once per element (log entry 83). -/
def Obligations.AccumulatorMoves : Prop :=
  let at_ := fun (o : Ops) (s : State) (cols i : Nat) =>
    let g := (s.me.word o.o2 o.zext).toNat
    (g % 64 + i / cols) % 64 * 64 + (g / 256 % 64 + i % cols) % 64
  let rnd := fun (o : Ops) (s : State) => (⟨modeOf o s.me.planeMode, o.bit 10, false⟩ : RCtx)
  (∀ (k : Core) (o : Ops),
    let t := o.ty 0
    let d := k.shapeO o.o0
    let r := k.shapeO o.o1
    k.accrdBad o = (if t.isBx = true ∨ t = .b1 then some 0
      else if ¬(t.isInt = true ∨ t.isPlaneFloat = true ∨ (o.bit 9 = false ∧ t.isMx = true)) then some 5
      else if ¬(d.ty = t ∧ d.scaled = false ∧ d.cols ≤ 64) then some 0 else none) ∧
    k.accwrBad o = (if ¬(t.isInt = true ∨ (o.bit 9 = false ∧ t.isFloat = true ∧ t ≠ .f64)) then some 5
      else if ¬(r.ty = t ∧ r.scaled = false ∧ r.cols ≤ 64) then some 1 else none)) ∧
  Traps .accrd (fun o s => (s.me.accrdBad o).isSome) cILLFMT (fun o s => BitVec.ofNat 64 ((s.me.accrdBad o).getD 0)) ∧
  Traps .accwr (fun o s => (s.me.accwrBad o).isSome) cILLFMT (fun o s => BitVec.ofNat 64 ((s.me.accwrBad o).getD 0)) ∧
  Completes .accrd (fun o s => (s.me.accrdBad o).isNone) (fun o s =>
    planeOf o s (o.ty 0).width (activeIn o.o0 o s) fun i st =>
      let bits := s.me.accBits o.o1.accNo (at_ o s (s.me.shapeO o.o0).cols i)
      let n := signedOf 32 bits
      if o.bit 9 = true ∧ (o.ty 0).isInt = true then (wrapI (o.ty 0).width ((o.ty 0).reduce (o.bit 10) n),
        if (rnd o s).mode = .sr then { st with lfsr := lfsrNext st.lfsr } else st)
      else roundTo (rnd o s) (o.ty 0) (if o.bit 9 then XVal.ofInt n else Ty.f32.decodeF false bits) st) ∧
  Completes .accwr (fun o s => (s.me.accwrBad o).isNone) (fun o s =>
    let cols := (s.me.shapeO o.o1).cols
    let x := mapRound (fun i st =>
      let acc := s.me.accBits o.o0.accNo (at_ o s cols i)
      let y := s.me.matX o.o1.planeNo i
      if o.bit 9 then
        let v := Ty.s32.reduce (o.bit 10) (s.me.matI o.o1.planeNo i)
        (wrapI 32 (if o.bit 11 then Ty.s32.reduce (o.bit 10) (signedOf 32 acc + v) else v), st)
      else if o.bit 11 then roundRes (rnd o s) .f32 (XVal.add (modeOf o s.me.planeMode == .rd) (Ty.f32.decodeF false acc) y) st
      else roundTo (rnd o s) .f32 y st) (activeIn o.o1 o s) ⟨s.me.lfsr, 0⟩
    ({ s.me with lfsr := x.2.lfsr, fpflags := s.me.fpflags ||| x.2.flags } : Core).setAcc o.o0.accNo
      (x.1.map fun y => (at_ o s cols y.1, y.2)))

/-! ### Class 0x0: control, traps and their ends -/

/-- R118, R119, R121: the transfers and their ALIGN trap, LOOP, NOP and BRK. -/
def Obligations.ControlFlow : Prop :=
  let rel := fun (o : Ops) (s : State) => s.me.pc + 16 * o.imm.signExtend 64
  let dst := fun (o : Ops) (s : State) => s.me.word o.o0 0
  let call := fun (o : Ops) (s : State) => if o.o1 = .imm then rel o s else s.me.word o.o1 0
  let n := fun (o : Ops) => Operand.lcNo o.o0
  Reaches .nop always (fun _ s => s) onward ∧
  Reaches .br always (fun _ s => s) rel ∧
  (∀ i ∈ ([.jmp, .ret] : List (Hdr → Ops → Instr)),
    Reaches i (fun o s => (dst o s).toNat % 16 == 0) (fun _ s => s) dst ∧
    Traps i (fun o s => (dst o s).toNat % 16 != 0) cALIGN dst) ∧
  Reaches .call (fun o s => (call o s).toNat % 16 == 0) (fun o s => s.setMe (s.me.setWord o.o0 (s.me.pc + 16))) call ∧
  Traps .call (fun o s => (call o s).toNat % 16 != 0) cALIGN call ∧
  Reaches .loop (fun o s => decide (s.me.lc[n o].toNat ≤ 1))
    (fun o s => s.setMe { s.me with lc := s.me.lc.set (n o) s.me.lcl[n o] }) onward ∧
  Reaches .loop (fun o s => decide (1 < s.me.lc[n o].toNat))
    (fun o s => s.setMe { s.me with lc := s.me.lc.set (n o) (s.me.lc[n o] - 1) }) rel ∧
  Traps .brk always cBRK (fun o _ => o.imm.zeroExtend 64)

/-- R33, R120, R327, R356 to R358, R360, R361, R365: what taking a precise trap saves, and where it goes; a trap with no trap
actor or inside it ends the gang; how FIN, ERET and KILL end a firing, and what an ERET after an engine fault does with the
halted command. -/
def Obligations.TrapsAndReturns : Prop :=
  (∀ (s : State) (c : CoreId) (cause : Byte) (val : Word) (g : Gang), s.gangAt (s.core c) = some g →
    let k := s.core c
    let k' : Core := { k with trapcause := cause.zeroExtend 64, trappc := k.pc, trapval := val }
    (∀ a, k.inTrap = false → g.trapAt k.gx k.gy = some a → s.takeTrap c cause val =
      { s.setCore c { k' with
          issueMark := if k.fire.isSome then k.issueMark else s.tick
          susp := k.fire.map fun f => ⟨f, k.pc⟩, fire := some ⟨a.slot, .trap, s.nextId⟩
          pc := g.launch.image + BitVec.ofNat 64 a.entry, starting := true } with nextId := s.nextId + 1 }) ∧
    (k.inTrap = true ∨ g.trapAt k.gx k.gy = none → s.gangOf g.gid = some g → g.doom = none →
      s.takeTrap c cause val = (s.setCore c k').setGang { g with
        doom := some ⟨stFault, cause, k.pc, val, BitVec.ofNat 32 (coreIdVal c), g.census, s.tick⟩ })) ∧
  (∀ (s : State) (c : CoreId), exec (.trapActorStart c) s = .next (s.setCore c { s.core c with starting := false })) ∧
  ∀ (h : Hdr) (o : Ops) (s : State),
    let mark := fun (k : Core) => ({ k with issueMark := s.tick, lastIssue := s.tick } : Core)
    let back := fun (k : Core) (pc : Word) => match k.susp with
      | some f => { k with fire := some f.fire, susp := none, pc := pc }
      | none => { k with fire := none }
    (s.clear h = true → s.me.inTrap = false → exec (.eret h o) s = .next (s.takeTrap s.cur cILLOP 0) ∧
      exec (.kill h o) s = .next (s.takeTrap s.cur cILLOP 0)) ∧
    (s.me.inTrap = true → exec (.fin h o) s = exec (.kill h o) s) ∧
    (s.ready h o = true → s.me.inTrap = false → ∃ marks, exec (.fin h o) s = .next (s.setMe (mark { s.me with
      fire := none, readyMark := marks
      exhausted := if o.bit 0 && s.isSource then s.me.exhausted.set s.me.slot true else s.me.exhausted }))) ∧
    (s.ready h o = true → s.me.inTrap = true →
      (s.me.trapcause.getLsbD 11 = false → exec (.eret h o) s =
        .next (s.setMe (mark (back s.me (if o.bit 0 then s.me.trappc + 16 else s.me.trappc))))) ∧
      (s.me.trapcause.getLsbD 11 = true →
        let i := Fin.ofNat 8 (s.me.trapcause.toNat / 256 % 8)
        let e := s.me.eng[i]
        (o.bit 0 = false → ∃ marks, exec (.eret h o) s = .next (s.setMe (mark { back { s.me with eng := s.me.eng.set i { e with
          state := .issued, fault := none, cmd := e.cmd.map fun x => { x with snap := none } } } s.me.trappc with
            readyMark := marks }))) ∧
        ∀ g x, o.bit 0 = true → s.me.gang = some g → e.cmd = some x → ∃ marks,
          let t := s.setMe { s.me with eng := s.me.eng.set i { e with
            state := .free, held := 0, fault := none, cmd := none, rslot := false } }
          let u := ((if e.rslot then { t with rslots := t.rslots.set (coreDie s.cur) (t.rslots[coreDie s.cur] - 1) }
            else t).lower g 1).stampIdle g
          exec (.eret h o) s = .next (u.setMe (mark { back u.me s.me.trappc with readyMark := marks }))) ∧
      (∀ g, s.me.gang = some g.gid → s.gangOf g.gid = some g → g.doom = none → exec (.kill h o) s = .next ((s.setGang { g with
        doom := some ⟨stKill, s.me.trapcause.truncate 8, s.me.trappc, s.me.trapval,
          BitVec.ofNat 32 (coreIdVal s.cur), g.census, s.tick⟩ }).setMe (mark s.me))))

/-! ### Class 0xA: actors, channels and gangs -/

/-- R187, R189 to R192: SEND and STEER append a token to the instance of their port, covered by the firing's remote writes that
are not acknowledged, and wait while it has no free slot; RECV takes the head token and
waits for one; PEEK neither waits for one nor takes it, and leaves the rotation as RECV does (log entry 40); MERGE takes from the port
that the rotation of R191 chooses (equal destinations: op1 is written last, log entry 23). Each of the five waits while its core's
port has no credit (R220: log entry 13). A port that the actor does not declare takes CHAN, for STEER and MERGE with the first such
port of their set. A token becomes visible behind those before it, once the writes that it covers are acknowledged. The
rotation takes the lowest port of a set above its point, or the lowest where none lies above it; a MERGE waits while no port of
its set holds a token. -/
def Obligations.ChannelResults : Prop :=
  (∀ (rot : Fin 16) (l : List Nat) (p : Nat), l.Pairwise (· < ·) → (scanPorts rot l = some p ↔ p ∈ l ∧
    ((rot.val < p ∧ ∀ q ∈ l, rot.val < q → p ≤ q) ∨ ((∀ q ∈ l, q ≤ rot.val) ∧ ∀ q ∈ l, p ≤ q)))) ∧
  (∀ (x : Operand) (o : Ops) (p : Nat), (portSet x o).Pairwise (· < ·) ∧
    (p ∈ portSet x o ↔ x.portNo.val ≤ p ∧ p ≤ x.portNo.val + o.mod 0 4)) ∧
  (∀ (h : Hdr) (o : Ops) (s : State), s.ready h o = true → (∀ q ∈ portSet o.o2 o, 8 ≤ q ∧ (s.inPort q).isSome = true) →
    (s.portShut = true ∨ ∀ q ∈ portSet o.o2 o, s.headOf q = none) → exec (.merge h o) s = .next s) ∧
  (∀ (s : State) (x : Inst) (l r : List Tok) (t : Tok), x.toks = l ++ t :: r → (∀ u ∈ l ++ r, u.id ≠ t.id) →
    (s.tokenFree x t.id = true ↔ (∀ u ∈ l, u.visible = true) ∧ ∀ a ∈ t.after, ∀ b ∈ s.flight, b.id ≠ a)) ∧
  (∀ (h : Hdr) (o : Ops) (s : State) (g : Gang) (r : ChanRef) (ch : Chan), s.ready h o = true → s.gangAt s.me = some g →
    let base := o.o0.portNo.val
    let to_ := base + (s.me.word o.o1 0).toNat % (o.mod 0 4 + 1)
    let sent := fun (v : Word) => Host.Outcome.next (((s.enqueue g.gid r v s.remoteWrites)).issued s.cur s.nextPc)
    (s.outPort base = some (r, ch) → exec (.send h o) s =
      if g.free r ch = 0 ∨ s.portShut = true then .next s else sent (s.me.word o.o1 o.sext)) ∧
    ((∀ q ∈ portSet o.o0 o, (s.outPort q).isSome = true) → s.outPort to_ = some (r, ch) → exec (.steer h o) s =
      if g.free r ch = 0 ∨ s.portShut = true then .next s else sent (s.me.word o.o2 o.sext)) ∧
    (s.inPort o.o1.portNo.val = some (r, ch) → exec (.recv h o) s =
      if s.portShut = true then .next s
      else match g.headTok r with
      | none => .next s
      | some v =>
        let t := s.dequeue g.gid r
        .next ((t.setMe (t.me.setWord o.o0 v)).issued s.cur s.nextPc)) ∧
    (s.inPort o.o2.portNo.val = some (r, ch) → exec (.peek h o) s = if s.portShut = true then .next s else .next (s.put
      ((s.me.setWord o.o0 ((g.headTok r).getD 0)).setPred o.o1 (g.headTok r).isSome))) ∧
    ∀ p v, s.portShut = false → (∀ q ∈ portSet o.o2 o, 8 ≤ q ∧ (s.inPort q).isSome = true) → s.inPort p = some (r, ch) → g.headTok r = some v →
      scanPorts s.me.rot[s.me.slot] ((portSet o.o2 o).filter fun q => (s.headOf q).isSome) = some p →
      let t := s.dequeue g.gid r
      exec (.merge h o) s = .next ((t.setMe (((t.me.setRot s.me.slot p).setWord o.o0 v).setWord o.o1
        (BitVec.ofNat 64 p))).issued s.cur s.nextPc)) ∧
  (∀ (h : Hdr) (o : Ops) (s : State), s.clear h = true →
    (s.outPort o.o0.portNo.val = none → exec (.send h o) s =
      .next (s.takeTrap s.cur cCHAN (BitVec.ofNat 64 o.o0.portNo.val))) ∧
    (s.inPort o.o1.portNo.val = none → exec (.recv h o) s =
      .next (s.takeTrap s.cur cCHAN (BitVec.ofNat 64 o.o1.portNo.val))) ∧
    (s.inPort o.o2.portNo.val = none → exec (.peek h o) s =
      .next (s.takeTrap s.cur cCHAN (BitVec.ofNat 64 o.o2.portNo.val))) ∧
    (∀ p ∈ portSet o.o0 o, s.outPort p = none → (∀ q ∈ portSet o.o0 o, q < p → (s.outPort q).isSome = true) →
      exec (.steer h o) s = .next (s.takeTrap s.cur cCHAN (BitVec.ofNat 64 p))) ∧
    ∀ p ∈ portSet o.o2 o, p < 8 ∨ s.inPort p = none →
      (∀ q ∈ portSet o.o2 o, q < p → 8 ≤ q ∧ (s.inPort q).isSome = true) →
      exec (.merge h o) s = .next (s.takeTrap s.cur cCHAN (BitVec.ofNat 64 p))) ∧
  ∀ (s : State) (g : Gang) (x : Inst) (id : Nat), s.gangs.findSome? (fun g => (g.instOf id).map fun x => (g, x)) = some (g, x) →
    exec (.tokenVisible id) s = .next (if s.tokenFree x id && g.onQuads then
      (s.setGang (g.reveal id)).stampInst g.gid x.ref else s)

/-- R195 to R199: RLD, RST and RATOM start an access to the local store of the core that the selector names, at an aligned
address inside it; BARG arrives once the firing's remote writes are acknowledged and its core's port has credit (R220: log entry
13), holds its firing, and the arrival that fills the generation lets every core that waits in it go on and leaves the next
generation empty, its count not fixed; the accesses of one core to another are performed in the order sent (R198, R380): one
waits while an earlier one of its core to that target has not been performed. One that meets an engine-owned tile waits (R21,
R197), unless it came before the tile was handed over (R267), and one of a saved gang rests (which is the model's choice: log
entry 54); otherwise it reads, writes or
updates the bytes at its target, once the target's port has credit for the answer (R220: log entry 13). -/
def Obligations.RemoteAndBarrier : Prop :=
  let pushed := fun (s : State) (addr : Word) (n : Nat) (sel : Word) (req : Req) => ({ s with
    flight := s.flight ++ [{ s.mkAccess addr n req none none with
      phase := .sent (.remote (s.selected sel) addr.toNat) }], nextId := s.nextId + 1 } : State)
  let ok := fun (t : Ty → Bool) (a : Ops → State → Word) (o : Ops) (s : State) => t (o.ty 0) &&
    ((a o s).toNat % tyBytes o == 0 && decide ((a o s).toNat + tyBytes o ≤ 0x80000))
  let open_ := fun (t : Ty → Bool) (a : Ops → State → Word) (o : Ops) (s : State) => ok t a o s && !s.portShut
  let shut := fun (t : Ty → Bool) (a : Ops → State → Word) (o : Ops) (s : State) => ok t a o s && s.portShut
  let at2 := fun (o : Ops) (s : State) => addOff (s.me.word o.o2 0) o.imm
  let at1 := fun (o : Ops) (s : State) => addOff (s.me.word o.o1 0) o.imm
  let atomic := fun (t : Ty) => t == .s32 || t == .n32 || t == .s64 || t == .n64
  Reaches .rld (open_ Ty.isScalar at2) (fun o s => pushed s (at2 o s) (tyBytes o) (s.me.word o.o1 0) (.rld o.o0 (o.ty 0))) onward ∧
  Reaches .rst (open_ Ty.isScalar at1) (fun o s => (pushed s (at1 o s) (tyBytes o) (s.me.word o.o0 0)
    (.rst (tyBytes o) ((s.me.word o.o2 0).toNat % 2 ^ (o.ty 0).width))).raise (s.me.gang.getD 0) 1) onward ∧
  Reaches .ratom (open_ atomic at2) (fun o s => pushed s (at2 o s) (tyBytes o) (s.me.word o.o1 0)
    (.ratom (o.mod 5 4) (o.ty 0) (s.me.word o.o3 0) (s.me.word o.o4 0) o.o0)) onward ∧
  Waits .rld (shut Ty.isScalar at2) ∧ Waits .rst (shut Ty.isScalar at1) ∧ Waits .ratom (shut atomic at2) ∧
  Traps .rld (fun o s => (o.ty 0).isScalar && !ok (fun _ => true) at2 o s) cALIGN at2 ∧
  Traps .rst (fun o s => (o.ty 0).isScalar && !ok (fun _ => true) at1 o s) cALIGN at1 ∧
  Traps .ratom (fun o s => atomic (o.ty 0) && !ok (fun _ => true) at2 o s) cALIGN at2 ∧
  Traps .rld (fun o _ => !(o.ty 0).isScalar) cILLFMT (fun _ _ => 5) ∧
  Traps .rst (fun o _ => !(o.ty 0).isScalar) cILLFMT (fun _ _ => 5) ∧
  Traps .ratom (fun o _ => !atomic (o.ty 0)) cILLFMT (fun _ _ => 5) ∧
  (∀ (h : Hdr) (o : Ops) (s : State) (g : Gang), s.ready h o = true → s.gangAt s.me = some g →
    (s.remoteWrites.isEmpty = false ∨ s.portShut = true → exec (.barg h o) s = .next s) ∧
    (s.remoteWrites.isEmpty = true → s.portShut = false →
      exec (.barg h o) s = .next ((s.barArrive g (g.participants (s.me.word o.o0 o.sext))).issued s.cur s.nextPc))) ∧
  (∀ (s : State) (g : Gang) (p : Nat),
    let n := g.barCount.getD p
    let g' := { g with barCount := some n, barIn := g.barIn ++ [(s.me.gx, s.me.gy)] }
    let t := (s.setGang g').setMe { s.me with hold := some .barrier }
    (g.barIn.length + 1 < n → s.barArrive g p = t) ∧ (n ≤ g.barIn.length + 1 → s.barArrive g p = t.barRelease g')) ∧
  (∀ (s : State) (g : Gang),
    let t := s.barRelease g
    { t with cores := s.cores } = s.setGang { g with barCount := none, barIn := [] } ∧
    ∀ c, t.core c = { s.core c with
      hold := if g.barIn.any (fun x => g.coreAt x.1 x.2 == c) then none else (s.core c).hold }) ∧
  (∀ (s : State) (a : Access) (l r : List Access) (t : CoreId) (addr : Nat), s.flight = l ++ a :: r → (∀ x ∈ l, x.id ≠ a.id) →
    a.phase = .sent (.remote t addr) →
    ((∃ x ∈ l, x.core = a.core ∧ ∃ b, x.phase = .sent (.remote t b)) → exec (.remoteLsAccess a.id) s = .next s) ∧
    ((∃ i : Fin 128, addr / 4096 ≤ i.val ∧ i.val ≤ (addr + a.n - 1) / 4096 ∧ 0 < a.n ∧ (s.core t).tiles.getLsbD i.val = true) →
      a.pre = false → exec (.remoteLsAccess a.id) s = .next s) ∧
    (s.asleep a.gang = true → exec (.remoteLsAccess a.id) s = .next s)) ∧
  ∀ (s : State) (a : Access) (l r : List Access) (t : CoreId) (addr : Nat), s.flight = l ++ a :: r →
    (∀ x ∈ l, x.id ≠ a.id ∧ (x.core = a.core → ∀ b, x.phase ≠ .sent (.remote t b))) →
    a.phase = .sent (.remote t addr) → ((s.core t).owned addr a.n = false ∨ a.pre = true) → s.asleep a.gang = false →
    let step := exec (.remoteLsAccess a.id) s
    (s.portOpen (corePort t) = false → step = .next s) ∧ (s.portOpen (corePort t) = true →
    let done := fun (u : State) (v : Nat) => step = .next (u.setAccess { a with phase := .done v 0 })
    let old := memReadN (s.core t).ls addr a.n
    let u := s.lsCorrect t addr a.n
    let with_ := fun (n x : Nat) => u.setCore t { s.core t with ls := memWriteN (s.core t).ls addr x n }
    (∀ w, s.lsHard t addr a.n = some w → step = .next ((u.dropAccess a.id).fatal a.gang cECCU a.ipc w a.core)) ∧
    (s.lsHard t addr a.n = none →
      (∀ d ty, a.req = .rld d ty → done u (wrapI 64 (ty.val old))) ∧
      (∀ n x, a.req = .rst n x → done (with_ n x) 0) ∧
      (∀ op ty v cmp d, a.req = .ratom op ty v cmp d → op < 8 →
        done (with_ a.n (atomNew ty op old v.toNat cmp.toNat).1) (wrapI 64 (ty.val old)))))

/-! ### Class 0xB: global memory and fences, and the steps of an access -/

/-- R231, R243 to R250, R259, R378: what the global instructions start. A load, store or atomic is aligned to its size, of a
type that it accepts, and waits behind an acquire, an SO access or a TAKE or CPY that may turn out an acquire (log entry 27),
or for its port; a load keeps its hint (R62); a store updates the core's own L1 line, and an atomic drops it but for a line
filled by LDRO (log entry 26); what is counted raises the census. A REDV starts one RED for each active element, at base +
offset × stride + column × size with that element's bits, and its bad planes, base and stride trap. PREF takes a translation as
a load of one byte and is ignored in the slice window (log entry 29), and CFLUSH is performed when it issues (log entry 46): the
errors in the lines that it finds dirty (which those are: log entry 108) are corrected, or end the gang (R236, R237), and it
ignores the slice window (R241). An
access takes its translation as it issues: one that no TLB holds waits for its walk (log entry 69), a fault of one that a TLB
holds comes at once, a load that the L1 serves is done, and any other access is sent to its place. -/
def Obligations.GlobalIssue : Prop :=
  let ty := Ops.memTy
  let n := fun (o : Ops) => (ty o).width / 8
  let at1 := fun (o : Ops) (s : State) => addOff (s.me.word o.o1 0) o.imm
  let at0 := fun (o : Ops) (s : State) => addOff (s.me.word o.o0 0) o.imm
  let atomAt := fun (o : Ops) (s : State) => if o.o2 = .imm then s.me.word o.o1 0 else at1 o s
  let redAt := fun (o : Ops) (s : State) => if o.o1 = .imm then s.me.word o.o0 0 else at0 o s
  let sc := fun (o : Ops) => (ty o).isScalar
  let upd := fun (o : Ops) => if o.mod 10 4 = 8 then ty o == .f32 else ty o == .s32 || ty o == .n32 || ty o == .s64 || ty o == .n64
  let acq := fun (o : Ops) => if o.bit 3 then some (Fin.ofNat 5 (o.mod 0 3)) else none
  let rel := fun (o : Ops) => if o.bit 4 then some (Fin.ofNat 5 (o.mod 0 3)) else none
  let held := fun (i : Hdr → Ops → Instr) (h : Hdr) (o : Ops) (s t : State) =>
    (s.globalHeld = true → exec (i h o) s = .next s) ∧
    (s.globalHeld = false → exec (i h o) s = .next (t.issued s.cur s.nextPc))
  let one := fun (i : Hdr → Ops → Instr) (ok : Ops → Bool) (va : Ops → State → Word) (f : Hdr → Ops → State → State) =>
    (∀ (h : Hdr) (o : Ops) (s : State), s.ready h o = true → ok o = true → (va o s).toNat % n o = 0 → held i h o s (f h o s)) ∧
    Traps i (fun o s => ok o && (va o s).toNat % n o != 0) cALIGN va ∧ Traps i (fun o _ => !ok o) cILLFMT (fun _ _ => 5)
  let dropped := fun (o : Ops) (s : State) (va : Word) => s.setMe (s.me.l1Drop s.asid va.toNat (n o))
  one .ld sc at1 (fun h o s => s.pushAccess { s.mkAccess (at1 o s) (n o) (.load o.o0 (ty o) false) (acq o) none with
    stream := h.hint == .stream }) ∧
  one .ldro sc at1 (fun h o s => s.pushAccess { s.mkAccess (at1 o s) (n o) (.load o.o0 (ty o) true) (acq o) none with
    stream := h.hint == .stream }) ∧
  one .st sc at0 (fun _ o s =>
    let x := (s.me.word o.o1 0).toNat % 2 ^ (ty o).width
    ((s.setMe (s.me.l1Store s.asid (at0 o s).toNat (n o) x)).raise (s.me.gang.getD 0) 1).pushAccess
      (s.mkAccess (at0 o s) (n o) (.store (n o) x) none (rel o))) ∧
  one .atom upd atomAt (fun _ o s => (dropped o s (atomAt o s)).pushAccess (s.mkAccess (atomAt o s) (n o)
    (.atom (o.mod 10 4) (ty o) (s.me.word o.o2 o.sext) (s.me.word o.o3 0) o.o0) (acq o) (rel o))) ∧
  one .red upd redAt (fun _ o s => ((dropped o s (redAt o s)).raise (s.me.gang.getD 0) 1).pushAccess
    (s.mkAccess (redAt o s) (n o) (.red (o.mod 10 4) (ty o) (s.me.word o.o1 o.sext)) none (rel o))) ∧
  (let h := fun (o : Ops) (s : State) => s.me.shapeO o.o1
   let x := fun (o : Ops) (s : State) => s.me.shapeO o.o4
   let data := fun (o : Ops) (s : State) => (h o s).ty == ty o && !(h o s).scaled
   let index := fun (o : Ops) (s : State) => !o.bit 14 || (((x o s).ty == .s32 || (x o s).ty == .n32 || (x o s).ty == .s64 ||
     (x o s).ty == .n64) && !(x o s).scaled && (x o s).rows == (h o s).rows && (x o s).cols == 1)
   let even := fun (o : Ops) (s : State) => (at0 o s).toNat % n o == 0 && (s.me.word o.o2 0).toNat % n o == 0
   let elems := fun (o : Ops) (s : State) => ((List.range (h o s).n).filter fun i => (s.me.mask o.o3).getLsbD i).map fun i =>
     let r := i / (h o s).cols
     let w4 := (x o s).ty.width
     let off := if o.bit 14 then BitVec.ofInt 64 ((x o s).ty.val (getBits s.me.v[o.o4.planeNo] (r * w4) w4)) else BitVec.ofNat 64 r
     (at0 o s + off * s.me.word o.o2 0 + BitVec.ofNat 64 (i % (h o s).cols * n o),
       BitVec.ofNat 64 (getBits s.me.v[o.o1.planeNo] (i * (ty o).width) (ty o).width))
   (∀ (hd : Hdr) (o : Ops) (s : State), s.ready hd o = true → upd o = true → data o s = true → index o s = true →
     even o s = true →
     held .redv hd o s (if elems o s = [] then s else (elems o s).foldl
       (fun t e => (t.setMe (t.me.l1Drop t.asid e.1.toNat (n o))).pushAccess
         { t.mkAccess e.1 (n o) (.red (o.mod 10 4) (ty o) e.2) none (rel o) with grp := s.nextId })
       (s.raise (s.me.gang.getD 0) 1))) ∧
   Traps .redv (fun o _ => !upd o) cILLFMT (fun _ _ => 5) ∧
   Traps .redv (fun o s => upd o && !data o s) cILLFMT (fun _ _ => 1) ∧
   Traps .redv (fun o s => upd o && data o s && !index o s) cILLFMT (fun _ _ => 4) ∧
   Traps .redv (fun o s => upd o && data o s && index o s && !even o s) cALIGN at0) ∧
  (∀ (h : Hdr) (o : Ops) (s : State), s.ready h o = true → if inWindow (at0 o s).toNat then
      exec (.pref h o) s = .next (s.issued s.cur s.nextPc)
    else held .pref h o s (s.pushAccess { s.mkAccess (at0 o s) 1 (.pref (o.bit 10)) none none with
      stream := h.hint == .stream })) ∧
  (∀ (h : Hdr) (o : Ops) (s : State), s.ready h o = true →
    let len := (s.me.word o.o1 0).toNat
    let va := (at0 o s).toNat
    let a := s.mkAccess (at0 o s) 0 (.flush len (o.bit 10)) none none
    let t := ({ s with flight := s.flight ++ [{ a with phase := .done 0 0 }], nextId := s.nextId + 1 } : State).raise
      (s.me.gang.getD 0) 1
    let n := if len = 0 then 0 else (min (va + len) (2 ^ 56) - va / 128 * 128 + 127) / 128
    held .cflush h o s (if s.upsets = [] then t
      else (List.range n).foldl (fun (t : State) i => t.flushLine a (va / 128 * 128 + 128 * i)) t)) ∧
  (∀ (s : State) (a : Access) (va : Nat), inWindow va = true → s.flushLine a va = s) ∧
  (∀ (s : State) (a : Access) (va len : Nat) (inv : Bool) (p : Page), a.req = .flush len inv → va < 2 ^ 56 → inWindow va = false →
    s.tlbFind a.core a.asid va = some p →
    let pa := p.frame + (va - p.base)
    let words := (wordsOf pa 128).map .mem
    let kept := p.fill = false ∧ p.cache = true ∧ paPkg pa = s.pkg.toNat
    let dirty := Config.dirty s.steps (pa / 128) = true
    (¬ kept → s.flushLine a va = s) ∧
    (kept → s.hardAt words = true → s.flushLine a va =
      if dirty then ((s.correct (some (s.home p.near pa)) words).dropAccess a.id).fatal a.gang cECCU a.ipc (BitVec.ofNat 64 va) a.core
      else s) ∧
    (kept → s.hardAt words = false → s.flushLine a va =
      if dirty then s.correct (some (s.home p.near pa)) words else s)) ∧
  ∀ (s : State) (a : Access),
    let t : State := { s with flight := s.flight ++ [a], nextId := s.nextId + 1 }
    (∀ e, t.target a = .error e →
      s.pushAccess a = if s.tlbHit a then t.accessFault a e else t.setAccess { a with phase := .bad e }) ∧
    (∀ pl p, t.target a = .ok (pl, p) → s.tlbHit a = false →
      s.pushAccess a = t.setAccess { a with page := p, phase := .walk pl true }) ∧
    ∀ pl p, t.target a = .ok (pl, some p) → s.tlbHit a = true → a.req.use ≠ .cloche →
      let u := t.fillTlb a.core p
      let b := { a with page := some p }
      s.pushAccess a = match (if p.inL1 then u.l1Hit b else none) with
        | some v => u.setAccess { b with phase := .done v 0, atL1 := true }
        | none => u.setAccess { b with phase := .sent pl }

/-- R240, R250, R252, R261, R262, R265, R388: CINV drops L1 lines at once. DSCINV drops the descriptors of a range, none of an
empty one, from the caches in scope (it is the model's choice that the range is one of the issuer's ASID and takes every
descriptor of another ASID along: log entry 100; the dispatchers' and the host link's go whole under .pkg: log entry 46), TLBI
drops the translations of a range, of an ASID or of every ASID from the TLBs of the cores in scope and of their quads, an access
that waits for its walk keeping the one that it took (log entries 45, 69); TLBI, and a DSCINV beyond its core, wait for the credit
of their core's port (R220: log entry 13); they, FENCE, AFENCE and an MTC to ways or wcfg hold
their firing until what they wait for has ended, for TLBI every access that used a dropped translation, and then it goes on; an
acquiring FENCE drops the ordinary L1 lines, a releasing one delivers the held flags. -/
def Obligations.MaintenanceAndFences : Prop :=
  let va := fun (o : Ops) (s : State) => (addOff (s.me.word o.o0 0) o.imm).toNat
  let hi := fun (o : Ops) (s : State) => min (va o s + (s.me.word o.o1 0).toNat) (2 ^ 56)
  let lines := fun (o : Ops) (s : State) (keep : Line → Bool) => ({ s.me with l1 := s.me.l1.filter keep } : Core)
  let sc := fun (o : Ops) => Fin.ofNat 5 (o.mod 0 3)
  let inScope := fun (s : State) (x : Fin 5) (c : CoreId) => match x with
    | 0 => c = s.cur
    | 1 => sliceOf c = sliceOf s.cur
    | 2 => (s.core c).gang = s.me.gang ∧ s.me.gang.isSome = true
    | _ => True
  let after := fun (s : State) (x : Fin 5) (f : Core → Core) (w : Hold) (c : CoreId) =>
    let k := if (s.scopeCores s.cur x).contains c then f (s.core c) else s.core c
    if c = s.cur then { k with hold := some w, pc := s.nextPc, issueMark := s.tick, lastIssue := s.tick } else k
  let held := fun (s : State) (acq rel : Bool) (c : Fin 5) =>
    let t : State := { s with flight := s.flight.map fun a => if a.fire.fid = s.me.fid then { a with fenced := true } else a }
    t.setMe { s.me with hold := some (.fence acq rel c []) }
  Completes .cinv (fun o _ => o.mod 10 2 == 0) (fun o s => lines o s fun l =>
    !(l.asid == s.asid && decide (va o s < hi o s) && decide (l.va < hi o s) && decide (va o s < l.va + 128))) ∧
  Completes .cinv (fun o _ => o.mod 10 2 == 1) (fun o s => lines o s fun _ => false) ∧
  Completes .cinv (fun o _ => o.mod 10 2 == 2) (fun o s => lines o s fun l => !l.ro) ∧
  (∀ (s : State) (x : Fin 5) (c : CoreId), c ∈ s.scopeCores s.cur x ↔ inScope s x c) ∧
  (∀ (h : Hdr) (o : Ops) (s : State), s.ready h o = true →
    let len := (s.me.word o.o1 0).toNat
    let keep := fun (d : Desc) =>
      !(decide (0 < len) && (d.asid != s.asid || (decide (d.va < va o s + len) && decide (va o s < d.va + 64))))
    let drop := fun (k : Core) => { k with cdesc := k.cdesc.filter keep, edesc := k.edesc.filter keep }
    (sc o ≠ 0 → s.portShut = true → exec (.dscinv h o) s = .next s) ∧ (sc o = 0 ∨ s.portShut = false →
    ∃ t, exec (.dscinv h o) s = .next t ∧ (∀ c, t.core c = after s (sc o) drop .dscinv c) ∧
      (∀ d : Fin 4, t.rdescs[d] = if sc o = 0 then s.rdescs[d] else s.rdescs[d].filter keep) ∧
      (∀ d : Fin 4, t.ddescs[d] = if sc o = 3 ∧ 0 < len then [] else s.ddescs[d]) ∧
      t.hdescs = (if sc o = 3 ∧ 0 < len then [] else s.hdescs) ∧
      { t with cores := s.cores, rdescs := s.rdescs, ddescs := s.ddescs, hdescs := s.hdescs } = s)) ∧
  Reaches .fence always (fun o s => held s (o.bit 3) (o.bit 4) (sc o)) onward ∧
  Reaches .afence always (fun _ s => held s true true 3) onward ∧
  (∀ (h : Hdr) (o : Ops) (s : State), s.clear h = true → s.right (·.sys) = false →
    exec (.tlbi h o) s = .next (s.takeTrap s.cur cPRIV 0x380)) ∧
  (∀ (h : Hdr) (o : Ops) (s : State), s.ready h o = true → s.right (·.sys) = true →
    let lo := (s.me.word o.o1 0).toNat
    let end1 := min (lo + (s.me.word o.o2 0).toNat) (2 ^ 56)
    let hit := fun (p : Page) => (o.bit 4 || p.asid == (s.me.word o.o0 0).truncate 16) &&
      (o.bit 3 || (decide (lo < end1) && decide (p.base < end1) && decide (lo < p.base + p.size)))
    let uses := fun (a : Access) => (s.scopeCores s.cur (sc o)).contains a.core && a.page.any hit
    let left := fun (l : List Page) => l.filter fun p => !hit p
    let drop := fun (k : Core) => { k with tlb := left k.tlb, tlb2 := left k.tlb2 }
    let ids := (s.flight.filter uses).map (·.id)
    (s.portShut = true → exec (.tlbi h o) s = .next s) ∧ (s.portShut = false →
    ∃ t : State, exec (.tlbi h o) s = .next t ∧ (∀ c, t.core c = after s (sc o) drop (.tlbi ids) c) ∧
      (∀ q, ((∃ c, inScope s (sc o) c ∧ sliceOf c = q) → t.slice q = { s.slice q with tlb := left (s.slice q).tlb }) ∧
        ((∀ c, inScope s (sc o) c → sliceOf c ≠ q) → t.slice q = s.slice q)) ∧
      t.flight = s.flight.map (fun a => match a.phase with
        | .walk pl _ => if uses a then { a with phase := .walk pl false } else a
        | _ => a) ∧
      { t with cores := s.cores, slices := s.slices, flight := s.flight } = s)) ∧
  (∀ (s : State) (c : CoreId), (s.core c).hold = some .dscinv →
    exec (.dscinvAck c) s = .next (s.setCore c { s.core c with hold := none })) ∧
  (∀ (s : State) (c : CoreId) (ids : List Nat), (s.core c).hold = some (.tlbi ids) →
    exec (.tlbiAck c) s = .next (if s.flight.any (ids.contains ·.id) then s
      else s.setCore c { s.core c with hold := none })) ∧
  (∀ (s : State) (c : CoreId) (acq rel : Bool) (x : Fin 5), (s.core c).hold = some (.fence acq rel x []) → x ≠ 4 ∨ rel = false →
    let awaited := fun (a : Access) => (rel = true ∧ a.req.drains = true ∧ s.merges a = false) ∨
      (acq = true ∧ ((∃ d t ro, a.req = .load d t ro) ∨ ∃ op t v cmp d, a.req = .atom op t v cmp d))
    ((∃ a ∈ s.flight, a.fire.fid = (s.core c).fid ∧ awaited a) → exec (.fenceComplete c) s = .next s) ∧
    ((∀ a ∈ s.flight, a.fire.fid = (s.core c).fid → ¬ awaited a) → exec (.fenceComplete c) s = .next (s.setCore c { s.core c with
        hold := none
        fpflags := if rel then (s.core c).fpflags ||| (s.core c).heldFlags else (s.core c).fpflags
        heldFlags := if rel then 0 else (s.core c).heldFlags
        l1 := if acq = true ∧ x ≠ 0 then (s.core c).l1.filter (·.ro) else (s.core c).l1 }))) ∧
  (∀ (s : State) (c : CoreId) (v : BitVec 32) (g : Gang), (s.core c).hold = some (.ways v) → s.gangAt (s.core c) = some g →
    g.active = true → s.mittenRuns g (s.core c).fid = false → s.windowOpen c = false →
    exec (.waysWrite c) s = .next ((s.repart g v).setCore c { s.core c with hold := none })) ∧
  (∀ (s : State) (g : Gang) (v : BitVec 32) (q : SliceId) (a : Nat), q ∈ g.slices →
    memRead ((s.repart g v).slice q).way a =
      if a / 2 ^ 20 < 16 - (s.resvAt q).val ∧ getBits g.ways (2 * (a / 2 ^ 20)) 2 ≠ getBits v (2 * (a / 2 ^ 20)) 2 then 0
      else memRead (s.slice q).way a) ∧
  (∀ (s : State) (g : Gang) (v : BitVec 32) (q : SliceId), q ∈ g.slices →
    ((s.repart g v).slice q).tuples = (s.slice q).tuples.map fun x =>
      match x.chip with
      | some n => if getBits v (2 * (n.val / 16384)) 2 = 3 ∧ n.val / 16384 < 16 - (s.resvAt q).val then x else { x with chip := none }
      | none => x) ∧
  ∀ (s : State) (c : CoreId) (w : Fin 4) (v : Word), (s.core c).hold = some (.wcfg w v) →
    exec (.wcfgWrite c) s = .next (({ s with wins := s.wins.set w { s.wins[w] with cfg := v &&& 0xFFFFFFFF0FFF0007 } } : State).setCore c
      { s.core c with hold := none })

/-- R204, R221 to R229, R234, R241, R245 to R248, R256, R259: an access takes its page, is performed at its place, and returns
or is acknowledged. The walk reads one valid entry a level, from the ASID table down to a leaf of a size that its level allows,
aligned to it, each access to a 64 KiB page using one of its 16 entries (log entry 8); a page gives its place or its fault; a
window address is a byte of a scratch way, or SCRX. A store writes the bytes of its place and no others; a load's value is the
bytes there in its type, and its line enters the L1 then; an atomic's is the old value, with the new one by its operation; an
access waits for the earlier ones that it may not pass, and for the port at which its home's answer enters the mesh, its
slice's or that of a link; a return writes the register of the firing's bank; an acknowledgement lowers the census. Four
accesses in a row from one other quad move a superblock there, from a cache way into one; a migration that is due stays due.
An uncorrectable error ends the gang, with the single-bit ones beside it corrected (R236, R237).
These clauses are the model's choice: a fill page's leaf need not be aligned by its frame (log entry 31); which of several faults
of a page is taken (log entry 112); a fault of a walk comes at PAGE_WALK (log entry 69); a release of a killed gang that had waited
is dropped (log entry 56); which earlier accesses of a core stand before a later one to the same bytes and before a load of the
L1, and that no line stays behind an access that passes one of them, behind a load with the hint stream, or under a reduction
that its window has not brought home (log entry 28); the port of an answer from another package (log entry 13); the new holder of
a migration needs a cache way too (log entry 67); a migration that is due stays due, a page that is not cacheable and the reads of
a walk break a count, and the home is by the local bit of the page used last (log entry 90); and the old holder reads a superblock
that migrates, with its errors (log entry 57). -/
def Obligations.AccessSteps : Prop :=
  (∀ (s : State) (asid : BitVec 16) (va : Nat), s.upsets = [] →
    let entry := fun (pa e : Nat) => s.paOk pa = true ∧ e = s.physRead 0 pa 8 ∧ e.testBit 0 = true
    let pfn := fun (e : Nat) => e / 2 ^ 12 % 2 ^ 40 * 4096
    let size := fun (e : Nat) => e / 4 % 4
    let idx := fun (lo w : Nat) => 8 * (va / 2 ^ lo % 2 ^ w)
    let leaf := fun (e n : Nat) (p : Page) => e.testBit 1 = true ∧
      (if e.testBit 8 = true then e / 2 ^ 44 % 2 ^ 8 = 0 else pfn e % n = 0) ∧
      p = ⟨asid, va / n * n, n, if e.testBit 8 then e / 2 ^ 12 % 2 ^ 32 else pfn e, Fin.ofNat 4 (e / 16 % 4), e.testBit 6,
        e.testBit 7, e.testBit 8, e.testBit 9, Fin.ofNat 128 (e / 2 ^ 52 % 128)⟩
    let found := fun (p : Page) =>
      ∃ a e0 e1, entry (s.ptroot.toNat + 8 * asid.toNat) a ∧ entry (a / 2 ^ 20 % 2 ^ 32 * 2 ^ 20 + idx 39 17) e0 ∧
        e0.testBit 1 = false ∧ entry (pfn e0 + idx 30 9) e1 ∧ ((size e1 = 3 ∧ leaf e1 (2 ^ 30) p) ∨
        (e1.testBit 1 = false ∧ ∃ e2, entry (pfn e1 + idx 21 9) e2 ∧ ((size e2 = 2 ∧ leaf e2 (2 ^ 21) p) ∨
        (e2.testBit 1 = false ∧ ∃ e3, entry (pfn e2 + idx 12 9) e3 ∧ ((size e3 = 0 ∧ leaf e3 (2 ^ 12) p) ∨
        (size e3 = 1 ∧ e3.testBit 1 = true ∧ ∃ e4, size e4 = 1 ∧ leaf e4 (2 ^ 16) p ∧
          entry (pfn e2 + idx 16 5 * 16 + 8 * (Config.pageEntry s.steps % 16)) e4))))))
    (∀ p, s.walk asid va = .ok p ↔ found p) ∧ ((∀ p, ¬ found p) → s.walk asid va = .error ⟨cXLATE, none⟩)) ∧
  (∀ (s : State) (u : Use) (p : Page) (va : Nat),
    let cloche := u = .cloche ∧ p.kind ≠ 3
    let prot := (p.kind = 3 ∧ (p.fill = true ∨ u ≠ .cloche)) ∨ (u = .write ∧ (p.ro = true ∨ p.fill = true)) ∨
      (u = .fetch ∧ p.fill = true) ∨ s.keys.getLsbD p.key.val = false
    (cloche → s.placeIn u p va = .error cCLOCHE) ∧ (¬ cloche → prot → s.placeIn u p va = .error cPROT) ∧
    (¬ cloche → ¬ prot → s.placeIn u p va = if p.fill then .ok (.fill (BitVec.ofNat 32 p.frame) (va - p.base))
      else if s.paOk (p.frame + (va - p.base)) then .ok (.phys (p.frame + (va - p.base)) p) else .error cXLATE)) ∧
  (∀ (s : State) (a : Access), (2 ^ 56 ≤ a.va.toNat → s.target a = .error ⟨cXLATE, none⟩) ∧
    (0x00FFFF8000000000 ≤ a.va.toNat → a.va.toNat < 2 ^ 56 → a.req.use = .cloche → s.target a = .error ⟨cCLOCHE, none⟩)) ∧
  (∀ (s : State) (a : Access), a.va.toNat < 0x00FFFF8000000000 →
    let page : Except WalkErr Page := match s.tlbFind a.core a.asid a.va.toNat with
      | some p => .ok p
      | none => s.walk a.asid a.va.toNat
    s.target a = match page with
    | .error e => .error e
    | .ok p => match s.placeIn a.req.use p a.va.toNat with
      | .error c => .error ⟨c, none⟩
      | .ok pl => .ok (pl, some p)) ∧
  (∀ (s : State) (a : Access) (g : Gang), 0x00FFFF8000000000 ≤ a.va.toNat → a.va.toNat < 2 ^ 56 → s.gangOf a.gang = some g →
    a.req.use ≠ .cloche →
    let off := a.va.toNat - 0x00FFFF8000000000
    let q := off / 2 ^ 24
    let z := sliceAt (g.qx + q % g.launch.w) (g.qy + q / g.launch.w)
    let ways := (List.range (16 - (s.resvAt z).val)).filter fun i => getBits g.ways (2 * i) 2 == 1
    s.target a = if g.launch.w * g.launch.h ≤ q then .error ⟨cSCRX, none⟩ else match ways[off % 2 ^ 24 / 2 ^ 20]? with
      | none => .error ⟨cSCRX, none⟩
      | some w => .ok (.scratch z (w * 2 ^ 20 + off % 2 ^ 20), none)) ∧
  (∀ (s : State) (asid : BitVec 16) (va : Nat), s.walkShut asid va = true ↔
    va < 2 ^ 56 ∧ ∃ pa ∈ s.walkReads asid va, s.memOpen pa 8 = false) ∧
  (∀ (s : State) (a : Access), s.access a.id = some a → s.walkShut a.asid a.va.toNat = true →
    ((∃ pl fill, a.phase = .walk pl fill) ∧ a.req.isData = true) ∨ (∃ e, a.phase = .bad e) → exec (.pageWalk a.id) s = .next s) ∧
  (∀ (s : State) (a : Access), s.access a.id = some a → s.upsets = [] → s.walkShut a.asid a.va.toNat = false →
    (∀ pl fill, a.phase = .walk pl fill → a.req.isData = true →
      let w := s.walkedBy a.core a.asid a.va.toNat
      let u := if fill then (match a.page with
        | some p => w.fillTlb a.core p
        | none => w) else w
      exec (.pageWalk a.id) s = .next (match (if a.page.any (·.inL1) then u.l1Hit a else none) with
        | some v => u.setAccess { a with phase := .done v 0, atL1 := true }
        | none => u.setAccess { a with phase := .sent pl })) ∧
    ∀ e, a.phase = .bad e → (∀ l, a.req ≠ .pref l) →
      let w := s.walkedBy a.core a.asid a.va.toNat
      exec (.pageWalk a.id) s = .next ((w.dropAccess a.id).doom a.gang
      ⟨stFault, e.cause, if e.pa.isSome then 0 else a.ipc, (match e.pa with
        | some pa => BitVec.ofNat 64 pa
        | none => a.va), BitVec.ofNat 32 (coreIdVal a.core), 0, 0⟩)) ∧
  (∀ (s : State) (c : CoreId) (asid : BitVec 16) (va : Nat), s.upsets = [] →
    let t := s.walkedBy c asid va
    { t with movCount := s.movCount } = s ∧
    ∀ x, x ∈ t.movCount ↔ x ∈ s.movCount ∧
      (x.2.1 = sliceOf c ∨ s.dueCount x = true ∨ ∀ pa ∈ s.walkReads asid va, pa / 512 ≠ x.1)) ∧
  (∀ (s : State) (pa : Nat) (p : Page) (q : SliceId) (a : Nat),
    (s.placeOpen (.phys pa p) = true ↔ s.portOpen (if paPkg pa = s.pkg.toNat then slicePort (s.home p.near pa)
      else railPort (s.wayOf s.pkg.toNat (paPkg pa) pa).1) = true) ∧
    (s.placeOpen (.scratch q a) = true ↔ s.portOpen (slicePort q) = true) ∧
    (s.memHome pa = if paPkg pa = s.pkg.toNat then some (s.home (s.near.contains (pa / 512)) pa) else none) ∧
    (pa % 8 = 0 → (s.memOpen pa 8 = true ↔ s.portOpen (match s.memHome pa with
      | some z => slicePort z
      | none => railPort (s.wayOf s.pkg.toNat (paPkg pa) pa).1) = true))) ∧
  (∀ (s : State) (a : Access), s.mayPerform a = true ↔ ∀ x ∈ s.flight.takeWhile (·.id != a.id), s.lets x a = true) ∧
  (∀ (s : State) (x a : Access), x.grp ≠ a.grp →
    (x.core = a.core → x.req.isData = true → a.req.isData = true → x.meets a = true → x.performed = false →
      (a.un = false ∨ x.fenced = true ∨ (∃ d t, a.req = .load d t true) ∨
        ((∀ n v, x.req ≠ .store n v) ∧ ∀ op t v, x.req ≠ .red op t v)) → s.lets x a = false) ∧
    (x.fire.fid = a.fire.fid → x.req.ordered = true → x.so = true ∨ a.so = true → s.lets x a = false) ∧
    (x.fire.fid = a.fire.fid → x.req.drains = true → a.release = some 4 → s.lets x a = false) ∧
    (∀ sc, x.fire.fid = a.fire.fid → x.req.drains = true → s.merges x = false → a.release = some sc → s.lets x a = false)) ∧
  (∀ (s : State) (x a : Access) (l r : List Access) (d : Operand) (t : Ty) (ro : Bool), a.req = .load d t ro →
    s.flight = l ++ x :: r → (∀ y ∈ l ++ [x], y.id ≠ a.id) → x.core = a.core → x.req.isData = true → x.meets a = true →
    x.performed = false → (x.fire.fid ≠ a.fire.fid ∨ a.un = true ∨ ∀ n v, x.req ≠ .store n v) → s.l1Hit a = none) ∧
  (∀ (s : State) (a : Access), (s.passLine a = s ∨ s.passLine a = s.setCore a.core { s.core a.core with
      l1 := (s.core a.core).l1.filter fun l => !(l.asid == a.asid && l.va == a.va.toNat / 128 * 128) }) ∧
    ∀ (x : Access) (l r : List Access), s.flight = l ++ x :: r → (∀ y ∈ l ++ [x], y.id ≠ a.id) → x.core = a.core →
      x.req.isData = true → a.req.isData = true → x.meets a = true → x.performed = false →
      (s.passLine a).core a.core = { s.core a.core with
        l1 := (s.core a.core).l1.filter fun l => !(l.asid == a.asid && l.va == a.va.toNat / 128 * 128) }) ∧
  (∀ (s : State) (a : Access) (p : Page) (ro : Bool), a.page = some p → p.inL1 = true → a.stream = true →
    s.fillL1 a ro = s.setCore a.core { s.core a.core with
      l1 := (s.core a.core).l1.filter fun l => !(l.asid == a.asid && l.va == a.va.toNat / 128 * 128) }) ∧
  (∀ (s : State) (a x : Access) (p p' : Page) (ro : Bool), a.page = some p → p.inL1 = true →
    x ∈ s.flight → x.core = a.core → x.window.isSome = true → x.page = some p' →
    (p'.frame + (x.va.toNat - p'.base)) / 128 = (p.frame + (a.va.toNat / 128 * 128 - p.base)) / 128 → s.fillL1 a ro = s.setCore a.core { s.core a.core with
      l1 := (s.core a.core).l1.filter fun l => !(l.asid == a.asid && l.va == a.va.toNat / 128 * 128) }) ∧
  (∀ (s : State) (a : Access) (pl : Place), s.access a.id = some a → a.phase = .sent pl → a.req.isData = true → a.window = none →
    (s.mayPerform a = false → exec (.sliceAccess a.id) s = .next s) ∧
    (s.mayPerform a = true → s.gone a.gang = true → a.release.isSome = true →
      exec (.sliceAccess a.id) s = .next (s.dropAccess a.id)) ∧
    (s.mayPerform a = true → s.gone a.gang = false → s.windowFor a pl = none → s.placeOpen pl = false →
      exec (.sliceAccess a.id) s = .next s) ∧
    (∀ pa p, pl = .phys pa p → pa % 128 + a.n ≤ 128 → s.mayPerform a = true → s.gone a.gang = false → s.windowFor a pl = none → s.placeOpen pl = true →
      (∃ e ∈ s.upsets, e.hard = true ∧ e.site ∈ (wordsOf pa a.n).map .mem) →
      exec (.sliceAccess a.id) s = .next (((s.correct (s.homeOf pl) (s.sitesOf a pl)).dropAccess a.id).fatal a.gang cECCU a.ipc
        a.va a.core))) ∧
  (∀ (s : State) (a : Access) (pa : Nat) (p : Page), s.access a.id = some a → a.phase = .sent (.phys pa p) →
    a.req.isData = true → a.window = none → s.mayPerform a = true → s.gone a.gang = false →
    s.placeOpen (.phys pa p) = true → s.upsets = [] → s.windowFor a (.phys pa p) = none →
    (∀ i < a.n, s.lineKey ((pa + i) / 128) = p.key) →
    let t := (s.passLine a).countAccess a.core (.phys pa p)
    let old := memReadN s.mem pa a.n
    let done := fun (x v : Nat) (f : FpFlags) => exec (.sliceAccess a.id) s =
      .next (({ t with mem := memWriteN s.mem pa x a.n } : State).setAccess { a with phase := .done v f })
    (∀ x, a.req = .store a.n x → done x 0 0) ∧
    (∀ d ty ro, a.req = .load d ty ro → exec (.sliceAccess a.id) s =
      .next ((t.setAccess { a with phase := .done (wrapI 64 (ty.val old)) 0 }).fillL1 a ro)) ∧
    (∀ op ty v cmp d, a.req = .atom op ty v cmp d →
      done (atomNew ty op old v.toNat cmp.toNat).1 (wrapI 64 (ty.val old)) (atomNew ty op old v.toNat cmp.toNat).2) ∧
    (∀ op ty v, a.req = .red op ty v → done (atomNew ty op old v.toNat 0).1 0 (atomNew ty op old v.toNat 0).2)) ∧
  (∀ (ty : Ty) (old v cmp : Nat), ty = .s32 ∨ ty = .n32 ∨ ty = .s64 ∨ ty = .n64 →
    let x := BitVec.ofNat ty.width old
    let y := BitVec.ofNat ty.width v
    let less := if ty = .s32 ∨ ty = .s64 then x.slt y else x.ult y
    let new := fun (op : Nat) (z : BitVec ty.width) => atomNew ty op x.toNat v cmp = (z.toNat, 0)
    new 0 (x + y) ∧ new 1 (x &&& y) ∧ new 2 (x ||| y) ∧ new 3 (x ^^^ y) ∧ new 4 (if less then x else y) ∧
    new 5 (if less then y else x) ∧ new 6 y ∧ new 7 (if x = BitVec.ofNat ty.width cmp then y else x)) ∧
  (∀ old v cmp : Nat, let sum := XVal.add false (Ty.f32.decodeF false old) (Ty.f32.decodeF false (v % 2 ^ 32))
    let r := roundTo ⟨.rne, false, false⟩ .f32 sum.1 ⟨1, sum.2⟩
    atomNew .f32 8 old v cmp = (r.1, r.2.flags)) ∧
  (∀ (s : State) (a : Access) (v : Nat) (f : FpFlags), s.access a.id = some a → a.phase = .done v f →
    s.asleep a.gang = false → s.gone a.gang = false →
    let k := s.core a.core
    let l1 := if a.so = true ∨ (∃ sc, a.acq = some sc ∧ sc ≠ 0) then k.l1.filter (·.ro) else k.l1
    (a.req.returns = true → exec (.loadReturn a.id) s = .next ((s.dropAccess a.id).setCore a.core
      (({ k with l1 := l1, fpflags := k.fpflags ||| f } : Core).setWordAt a.fire.slot a.req.dest (BitVec.ofNat 64 v)))) ∧
    (a.req.returns = false →
      let u := (s.dropAccess a.id).setCore a.core { k with
        l1 := l1
        heldFlags := match a.req with
          | .red _ _ _ => k.heldFlags ||| f
          | _ => k.heldFlags }
      exec (.writeAck a.id) s = .next (if (∃ x ∈ s.flight, x.id ≠ a.id ∧ x.grp = a.grp) then u else u.lower a.gang 1))) ∧
  (∀ (s : State) (c : CoreId) (pa : Nat) (p : Page),
    let t := s.countAccess c (.phys pa p)
    let last := s.movCount.find? (·.1 == pa / 512)
    { t with movCount := s.movCount, near := s.near } = s ∧
    (∀ sb, sb ∈ t.near ↔ if sb = pa / 512 ∧ paPkg pa = s.pkg.toNat then p.near = true else sb ∈ s.near) ∧
    let due := ∃ x ∈ s.movCount, x.1 = pa / 512 ∧ s.dueCount x = true
    (p.cache = true → paPkg pa = s.pkg.toNat → ¬due → t.movCount.find? (·.1 == pa / 512) =
      if sliceOf c = s.home p.near pa then none
      else some (pa / 512, sliceOf c, match last with
        | some x => if x.2.1 = sliceOf c then min (x.2.2 + 1) 4 else 1
        | none => 1)) ∧
    (p.cache = false ∨ paPkg pa ≠ s.pkg.toNat ∨ due → t.movCount = s.movCount.filter fun x =>
      x.1 != pa / 512 || x.2.1 == sliceOf c || s.dueCount x)) ∧
  (∀ (s : State) (sb n : Nat) (q : SliceId), s.dueCount (sb, q, n) = true ↔ 4 ≤ n ∧ s.waysIn q 0 ≠ [] ∧
    ∃ z, s.memHome (512 * sb) = some z ∧ s.waysIn z 0 ≠ []) ∧
  ∀ (s : State) (sb n : Nat) (q : SliceId), s.movCount.find? (·.1 == sb) = some (sb, q, n) →
    (s.dueCount (sb, q, n) = false ∨ s.memOpen (512 * sb) 512 = false → exec (.superblockMigration sb q) s = .next s) ∧
    (s.dueCount (sb, q, n) = true → s.memOpen (512 * sb) 512 = true →
      let t := s.handOver sb
      (∃ w ∈ s.waysIn q 0, exec (.superblockMigration sb q) s = .next { t with
        moved := (sb, q, w) :: s.moved.filter (·.1 != sb), movCount := s.movCount.filter (·.1 != sb) }) ∧
      (s.upsets = [] → t = s) ∧
      (∀ u, u ∈ t.upsets ↔ u ∈ s.upsets ∧ (u.hard = true ∨ ∀ w, u.site = .mem w → w / 64 ≠ sb)) ∧
      ∀ z, s.memHome (512 * sb) = some z → ∀ x, x ∈ t.backErrs ↔ x ∈ s.backErrs ∨ (x.1 = z ∧ x.2 / 64 = sb ∧
        ∃ u ∈ s.upsets, u.hard = true ∧ u.site = .mem x.2))


/-! ### Class 0xC: Cloche and Mitten -/

/-- R273, R275, R279, R281 to R290: what the Cloche instructions start, what each request does on arrival at its home, how a
parked one is delivered, and how the answer of a TAKE or CPY returns. An instruction waits behind an acquire, an SO access or a
TAKE or CPY under way (log entry 27), for bytes of its destination that are pending and for the tile of its source, and carries
the descriptor that its core holds. The tuple that is selected matches, and none that matches goes before it in the order of
its region; no parked deposit is left whose region has room. A match or count that meets an uncorrectable error in a tuple of
its tag that stands in a Cloche way ends the gang with ECCU (R237). A tuple that is found comes to stand in the local store,
with 1 in the predicate; the requests that one deposit satisfies are delivered to one receiver oldest first, each for the
credit of its home's port (R220: log entry 13), and with the tuple that satisfies one its gang's idle count begins anew (R365); a
host delivery goes to the host address of log entry 42. It is the model's choice that a TAKEP or CPYP that finds its tuple at once
holds no entry of the table (log entry 113), that the parked deposits of several regions go in the order of their arrival where a
removal makes room for each (log entry 114), that a match reads the tuples of its region and tag (log entry 86) and that the eight words of a delivery are written at once, with
the token of a TAKEP or CPYP (log entry 103). -/
def Obligations.ClocheSteps : Prop :=
  let va := fun (o : Ops) (s : State) => addOff (s.me.word o.o1 0) o.imm
  let w2 := fun (o : Ops) (s : State) => s.me.word o.o2 0
  let w3 := fun (o : Ops) (s : State) => s.me.word o.o3 0
  let blk := fun (s : State) (a : Word) => BitVec.ofNat 512 (memReadN s.me.ls a.toNat 64)
  let good := fun (a : Word) => a.toNat % 64 == 0 && decide (a.toNat ≤ 0x7FFC0)
  let port := fun (o : Ops) (s : State) => (s.outPort o.o4.portNo.val).isSome
  let one := fun (i : Hdr → Ops → Instr) (ok : Ops → State → Bool) (src : Ops → State → Word) (l : Ops → State → List Word)
      (dests : Ops → State → List Word) (counted : Bool) (q : Ops → State → CReq) =>
    (∀ (h : Hdr) (o : Ops) (s : State), s.ready h o = true → ok o s = true → (va o s).toNat % 64 = 0 →
      (∀ x ∈ l o s, good x = true) →
      let wait := s.globalHeld || (dests o s).any (fun a => s.lsPending a.toNat 64) || s.lsBusy (src o s).toNat 64
      let t := s.lsCorrect s.cur (src o s).toNat 64
      let held := match s.me.cdesc.find? fun d => d.asid == s.asid && d.va == (va o s).toNat with
        | some d => d.data
        | none => 0
      (wait = true → exec (i h o) s = .next s) ∧
      (∀ v, wait = false → s.lsHard s.cur (src o s).toNat 64 = some v →
        exec (i h o) s = .next (t.fatal (s.me.gang.getD 0) cECCU s.me.pc v s.cur)) ∧
      (wait = false → s.lsHard s.cur (src o s).toNat 64 = none → exec (i h o) s =
        .next (((if counted then t.raise (s.me.gang.getD 0) 1 else t).pushAccess
          (t.mkAccess (va o s) 64 (.cloche o.o0 (q o s) held) none none)).issued s.cur s.nextPc))) ∧
    Traps i (fun o s => ok o s && (va o s).toNat % 64 != 0) cALIGN va ∧
    Traps i (fun o s => ok o s && (va o s).toNat % 64 == 0 && !(l o s).all good) cALIGN
      (fun o s => ((l o s).find? fun a => !good a).getD 0)
  one .dep always w2 (fun o s => [w2 o s]) (fun _ _ => []) false (fun o s => .dep (blk s (w2 o s))) ∧
  one .depw always w2 (fun o s => [w2 o s]) (fun _ _ => []) true (fun o s => .depw (blk s (w2 o s)) (w2 o s).toNat) ∧
  one .take always w2 (fun o s => [w2 o s, w3 o s]) (fun o s => [w3 o s]) false
    (fun o s => .take (blk s (w2 o s)) (w3 o s).toNat) ∧
  one .cpy always w2 (fun o s => [w2 o s, w3 o s]) (fun o s => [w3 o s]) false
    (fun o s => .cpy (blk s (w2 o s)) (w3 o s).toNat) ∧
  one .takep port w2 (fun o s => [w2 o s, w3 o s]) (fun o s => [w3 o s]) true
    (fun o s => .takep (blk s (w2 o s)) (w3 o s).toNat (s.portRef o.o4)) ∧
  one .cpyp port w2 (fun o s => [w2 o s, w3 o s]) (fun o s => [w3 o s]) true
    (fun o s => .cpyp (blk s (w2 o s)) (w3 o s).toNat (s.portRef o.o4)) ∧
  one .pcancel always w3 (fun o s => [w2 o s, w3 o s]) (fun _ _ => []) false
    (fun o s => .cancel (w2 o s).toNat (BitVec.ofNat 64 (getBits (blk s (w3 o s)) 0 64))) ∧
  one .clcount always w2 (fun o s => [w2 o s]) (fun _ _ => []) false (fun o s => .count (blk s (w2 o s))) ∧
  (∀ (h : Hdr) (o : Ops) (s : State), s.clear h = true → port o s = false →
    exec (.takep h o) s = .next (s.takeTrap s.cur cCHAN (BitVec.ofNat 64 o.o4.portNo.val)) ∧
    exec (.cpyp h o) s = .next (s.takeTrap s.cur cCHAN (BitVec.ofNat 64 o.o4.portNo.val))) ∧
  (∀ (s : State) (a : Access) (d : Operand) (q : CReq) (dsc : BitVec 512) (z : HomeReq), s.access a.id = some a →
    a.req = .cloche d q dsc → a.homeReq = some z → s.mayArrive a z = true → s.gone a.gang = false →
    let ans := fun (u : State) (v : Nat) => Host.Outcome.next (u.setAccess { a with phase := .done v 0 })
    let found := fun (u : State) (x : Stored) => Host.Outcome.next
      (u.setAccess { a with phase := .found x.tuple, acq := some (dscScope z.desc) })
    let s1 := s.examineAt z q.tag
    let parked := fun (u : State) (k : PKind) (b : BitVec 512) (dest : Nat) (p : Option ChanRef) (t : Option (BitVec 512)) =>
      u.park z.pkg z.q ⟨0, z.region, k, b, dest, z.desc, .core a.gang (s.core a.core).gx (s.core a.core).gy p a.ipc, t,
        t.isSome⟩
    let rest := fun (u : State) (k : PKind) (b : BitVec 512) (dest : Nat) (p : Option ChanRef) =>
      if (u.home2 z.pkg z.q).tableFree then ans (parked u k b dest p none) 1 else ans (u.lower a.gang 1) 0
    (∀ t, q = .dep t → exec (.clocheDepositArrival a.id) s = match s.offer z t with
      | some u => ans u 1
      | none => ans s 0) ∧
    (∀ t dest, q = .depw t dest → exec (.clocheDepositArrival a.id) s = match s.offer z t with
      | some u => ans (u.lower a.gang 1) 1
      | none => rest s .dep t dest none) ∧
    (∀ p dest, s.matchHard z q.tag = false → q = .take p dest → exec (.clocheMatchArrival a.id) s = match s1.selectAt z p with
      | some x => found (s1.removeStored z.pkg z.q x.seq) x
      | none => ans s1 0) ∧
    (∀ p dest, s.matchHard z q.tag = false → q = .cpy p dest → exec (.clocheMatchArrival a.id) s = match s1.selectAt z p with
      | some x => found s1 x
      | none => ans s1 0) ∧
    (∀ p dest c, s.matchHard z q.tag = false → q = .takep p dest c → exec (.clocheMatchArrival a.id) s =
      match s1.selectAt z p with
      | some x => .next (((parked s1 .take p dest (some c) (some x.tuple)).setAccess
          { a with phase := .done 1 0 }).removeStored z.pkg z.q x.seq)
      | none => rest s1 .take p dest (some c)) ∧
    (∀ p dest c, s.matchHard z q.tag = false → q = .cpyp p dest c → exec (.clocheMatchArrival a.id) s =
      match s1.selectAt z p with
      | some x => ans (parked s1 .copy p dest (some c) (some x.tuple)) 1
      | none => rest s1 .copy p dest (some c)) ∧
    (∀ dest tag, q = .cancel dest tag → exec (.clocheCancelArrival a.id) s =
      match (s.home2 z.pkg z.q).parked.find?
        (·.cancels a.gang (s.core a.core).gx (s.core a.core).gy z.region dest tag.toNat) with
      | some p => ans (((s.unpark z.pkg z.q p.id).lower a.gang 1).stampIdle a.gang) 1
      | none => ans s 0) ∧
    (∀ p, s.matchHard z q.tag = true → (q = .count p →
        exec (.clocheCountArrival a.id) s = .next ((s.matchMeets z q.tag).accessFault a ⟨cECCU, none⟩)) ∧
      ((∃ d, q = .take p d ∨ q = .cpy p d ∨ ∃ c, q = .takep p d c ∨ q = .cpyp p d c) →
        exec (.clocheMatchArrival a.id) s = .next ((s.matchMeets z q.tag).accessFault a ⟨cECCU, none⟩))) ∧
    (∀ e, e ∈ (s.matchMeets z q.tag).upsets ↔ e ∈ s.upsets ∧ (e.hard = true ∨ z.pkg ≠ s.pkg.toNat ∨
      ¬∃ x ∈ (s.slice z.q).tuples, x.region = z.region ∧ getBits x.tuple 0 64 = q.tag ∧
        ∃ p, x.chip = some p ∧ e.site ∈ chipSites z.q p)) ∧
    (s.matchHard z q.tag = true ↔ z.pkg = s.pkg.toNat ∧ ∃ x ∈ (s.slice z.q).tuples, x.region = z.region ∧
      getBits x.tuple 0 64 = q.tag ∧ ∃ p, x.chip = some p ∧ ∃ e ∈ s.upsets, e.hard = true ∧ e.site ∈ chipSites z.q p) ∧
    ∀ p, s.matchHard z q.tag = false → q = .count p → exec (.clocheCountArrival a.id) s =
      ans s1 ((s.home2 z.pkg z.q).tuples.countP fun x => x.region == z.region && tupMatches x.tuple p)) ∧
  (∀ t q : BitVec 512, tupMatches t q = true ↔ getBits t 0 64 = getBits q 0 64 ∧
    (∀ i, 1 ≤ i → i ≤ 3 → getBits t (64 * i) 64 &&& getBits q (64 * i + 192) 64 =
      getBits q (64 * i) 64 &&& getBits q (64 * i + 192) 64) ∧ getBits q 448 8 ≤ getBits t 120 8) ∧
  (∀ (s : State) (a : Access) (t : BitVec 512) (d : Nat), s.access a.id = some a → a.phase = .found t →
    a.req.lsDest = some d → s.asleep a.gang = false → s.gone a.gang = false →
    let k := s.core a.core
    let l1 := if a.so = true ∨ (∃ sc, a.acq = some sc ∧ sc ≠ 0) then k.l1.filter (·.ro) else k.l1
    let u : State := { s.dropAccess a.id with upsets := s.upsets.filter fun e => !e.site.inLs a.core d 64 }
    (k.owned d 64 = true → a.pre = false → exec (.loadReturn a.id) s = .next s) ∧
    (k.owned d 64 = false ∨ a.pre = true → exec (.loadReturn a.id) s = .next (u.setCore a.core
      (({ k with l1 := l1, ls := memWriteN k.ls d t.toNat 64 } : Core).setWordAt a.fire.slot a.req.dest 1)))) ∧
  (∀ (s : State) (id pkg : Nat) (q : SliceId) (p : Park), s.parkOf id = some (pkg, q, p) →
    (∃ x ∈ (s.home2 pkg q).parked.takeWhile (·.id != p.id), x.got.isSome = true ∧ x.sameTo p = true) ∨
      s.portOpen (s.homePort pkg q p.region) = false → exec (.clocheDelivery id) s = .next s) ∧
  (∀ (s : State) (id pkg : Nat) (q : SliceId) (p : Park) (t : BitVec 512), s.parkOf id = some (pkg, q, p) → p.got = some t →
    (∀ x ∈ (s.home2 pkg q).parked.takeWhile (·.id != p.id), x.got.isSome = true → x.sameTo p = false) →
    s.portOpen (s.homePort pkg q p.region) = true →
    (∀ v n, p.asker = .host v n → exec (.clocheDelivery id) s =
      .next ((s.deliverHost p.dest t v n).unpark pkg q id)) ∧
    ∀ gid x y ref pc g ch, p.asker = .core gid x y (some ref) pc → s.gangOf gid = some g → g.active = true →
      g.img.chans[ref.chan]? = some ch →
      let c := g.coreAt x y
      let k := s.core c
      let u := ({ s with upsets := s.upsets.filter fun e => !e.site.inLs c p.dest 64 } : State).setCore c { k with
        l1 := if dscScope p.desc = 0 then k.l1 else k.l1.filter (·.ro)
        ls := memWriteN k.ls p.dest t.toNat 64 }
      (k.owned p.dest 64 = true ∨ g.free ref ch = 0 → exec (.clocheDelivery id) s = .next s) ∧
      (k.owned p.dest 64 = false → g.free ref ch ≠ 0 → exec (.clocheDelivery id) s = .next
        (((u.enqueue g.gid ref (BitVec.ofNat 64 p.dest) []).lower g.gid 1).unpark pkg q id))) ∧
  (∀ (s : State) (q : SliceId) (z : Slice) (gid : Nat) (g : Gang) (x p : Park), s.gangOf gid = some g →
    x ∈ (s.slice q).parked → x.got = none → p ∈ z.parked → p.id = x.id → p.got.isSome = true → p.ofGang gid = true →
    (s.settleAt s.pkg.toNat q z).gangOf gid = some { g with idleMark := s.tick }) ∧
  (∀ (z : Slice) (region cap : Nat) (t : BitVec 512) (tick stamp : Nat),
    (z.deposit region cap t tick stamp = none ↔ z.taker region t = none ∧
      (cap ≤ z.tuples.countP (·.region == region) ∨ 65536 ≤ z.tuples.length)) ∧
    ∀ y, z.deposit region cap t tick stamp = some y →
      (z.taker region t = none → y.tuples = z.tuples ++ [⟨region, t, z.seq, tick, none, stamp⟩] ∧ y.seq = z.seq + 1) ∧
      (∀ x, z.taker region t = some x → y.tuples = z.tuples) ∧
      y.parked = (z.parked.filter fun p => !p.wants .copy region t && !(z.taker region t).any (·.id == p.id)) ++
        (z.parked.filter (·.wants .copy region t) ++ (z.taker region t).toList).map fun p => { p with got := some t }) ∧
  (∀ (z : Slice) (tick stamp : Nat), ∀ p ∈ (z.retry tick stamp z.parked.length).1.parked, p.kind = .dep →
    (z.retry tick stamp z.parked.length).1.full p.region (dscCap p.desc) = true) ∧
  ∀ (z : Slice) (region order : Nat) (pri : Stored → Nat) (p : BitVec 512) (x : Stored), z.select region order pri p = some x →
    x ∈ z.tuples ∧ x.region = region ∧ tupMatches x.tuple p = true ∧
    ∀ y ∈ z.tuples, y.region = region → tupMatches y.tuple p = true → storedBefore order pri y x = false

/-- R236, R294 to R298, R300 to R305, R307 to R309: a Mitten instruction joins the list of its slice, behind at most three
others of its core, those of different cores in the order of issue (log entry 87); the oldest command runs, once the writes
before it are acknowledged, piece by piece (log entry 33), and completes with its token, for which its slice's port needs credit
(R220: log entry 13) and its list stands still (log entry 87). Of an MSEQ, SCRX reports the descriptor's VA, which is the
model's choice (log entry 101); so are that every command keeps the ways that it started with (log entry 105), that a lane which an MXPOSE does not write keeps the value
from before an error of its row (log entry 115), which row faddr
names where several fail (log entry 104), and which fault of an MSEQ with no Mitten way comes first (log entry 109). MXPOSE puts the low bits
of each element of memory into the rows of its lane, MXOUT writes the value of each lane, signed or unsigned, to memory, one
granule of the memory side a step; a range outside the array ends the gang with SCRX. A body of MSEQ writes every lane that is
not skipped with its operation, of the rows that its counters give, each read before any is written. A value written at a row of
a lane is read there. A scrub corrects single-bit errors, and a row that fails its parity under MXOUT or a scrub is counted and
ends its gang with ECCU (log entry 57). -/
def Obligations.MittenAndScrub : Prop :=
  let port := fun (x : Operand) (s : State) => match x with
    | .c _ => (s.outPort x.portNo.val).isSome
    | _ => true
  let one := fun (i : Hdr → Ops → Instr) (op : MOp) (maddr va cnt : Ops → State → Word) (p : Ops → Operand)
      (token : Ops → State → Word) (al : Ops → Nat) =>
    (∀ (h : Hdr) (o : Ops) (s : State) (g : Gang), s.ready h o = true → port (p o) s = true → (va o s).toNat % al o = 0 →
      s.gangAt s.me = some g →
      let q := g.quadSlice (maQuad (maddr o s))
      let c : MCmd := ⟨s.nextId, op, s.cur, s.me.fire.getD ⟨0, .normal, 0⟩, g.gid, s.me.pc, maddr o s, va o s, cnt o s, o.md,
        s.cmdPort (p o), token o s, s.openWrites, none, 0, false, []⟩
      (4 ≤ s.mittenOf s.cur ∨ s.portShut = true → exec (i h o) s = .next s) ∧
      (s.mittenOf s.cur < 4 → s.portShut = false → maQuad (maddr o s) < g.launch.w * g.launch.h → exec (i h o) s =
        .next (((({ s.raise g.gid 1 with nextId := s.nextId + 1 } : State).setSlice q
          { s.slice q with mcmds := (s.slice q).mcmds ++ [c] }).issued s.cur s.nextPc))) ∧
      (s.mittenOf s.cur < 4 → s.portShut = false → g.launch.w * g.launch.h ≤ maQuad (maddr o s) → exec (i h o) s =
        .next (((s.raise g.gid 1).fatal g.gid cSCRX s.me.pc (if op = .mseq then va o s else maddr o s) s.cur).issued
          s.cur s.nextPc))) ∧
    Traps i (fun o s => port (p o) s && (va o s).toNat % al o != 0) cALIGN va ∧
    ∀ (h : Hdr) (o : Ops) (s : State), s.clear h = true → port (p o) s = false →
      exec (i h o) s = .next (s.takeTrap s.cur cCHAN (BitVec.ofNat 64 (p o).portNo.val))
  let size := fun (w : Nat) => if w ≤ 8 then 1 else if w ≤ 16 then 2 else 4
  let wide := fun (o : Ops) => size (o.mod 0 5 + 1)
  one .mxpose .mxpose (fun o s => s.me.word o.o0 0) (fun o s => addOff (s.me.word o.o1 0) o.imm)
    (fun o s => s.me.word o.o2 0) (·.o3) (fun o s => s.me.word o.o4 0) wide ∧
  one .mxout .mxout (fun o s => s.me.word o.o1 0) (fun o s => addOff (s.me.word o.o0 0) o.imm)
    (fun o s => s.me.word o.o2 0) (·.o3) (fun o s => s.me.word o.o4 0) wide ∧
  one .mseq .mseq (fun o s => s.me.word o.o1 0) (fun o s => addOff (s.me.word o.o0 0) o.imm)
    (fun _ _ => 0) (·.o2) (fun o s => s.me.word o.o3 0) (fun _ => 64) ∧
  (∀ (s : State) (q : SliceId) (c : MCmd) (r : List MCmd), (s.slice q).mcmds = c :: r →
    (∀ g, s.gangOf c.gang = some g → c.ended = false → g.active = true → s.portOpen (slicePort q) = true →
      (∀ a ∈ c.after, s.access a = none) →
      let mit := if c.began = none then g.mitten (s.resvAt q) else c.ways
      let w := getBits c.md 0 5 + 1
      let runs := fun (t : State) (d : MCmd) =>
        let u := t.setSlice q { t.slice q with mcmds := d :: r }
        exec (.mittenCommandStart q) s = .next (if d.ended then u.stampIdle g.gid else u)
      (∀ t d, s.mittenRun g c q = .ok (t, d) → runs t d ∧ d.ways = mit) ∧
      (c.op ≠ .mseq → c.began = none →
        (mit = [] ∨ 1024 < maRow c.maddr + w ∨ 8192 * mit.length < maLane c.maddr + c.cnt.toNat) →
        exec (.mittenCommandStart q) s = .next ((s.setSlice q { s.slice q with mcmds := r }).fatal g.gid cSCRX c.ipc c.maddr
          c.core)) ∧
      (∀ row, c.op = .mxout → c.began = some 0 → c.cursor < c.cnt.toNat → c.va.toNat % size w = 0 →
        s.badRow q mit (maRow c.maddr) w = some row →
        exec (.mittenCommandStart q) s = .next ((s.setSlice q { s.slice q with
          mcmds := r, errors := (s.slice q).errors + 1 }).fatal g.gid cECCU c.ipc
          (BitVec.ofNat 64 (maQuad c.maddr + row * 2 ^ 16)) c.core)) ∧
      ∀ x, c.op = .mseq → c.began = some x → (seqDesc x).bad s q mit c.cursor = none →
        runs (s.setSlice q ((seqDesc x).body (s.slice q) mit c.cursor))
          { c with cursor := c.cursor + 1, ended := decide ((seqDesc x).bodies ≤ c.cursor + 1) }) ∧
    (c.ended = true → s.gone c.gang = false →
      let done := fun (t : State) => Host.Outcome.next
        ((t.setSlice q { t.slice q with mcmds := r }).lower c.gang 1)
      (c.port = none → exec (.mittenCommandComplete q) s = done s) ∧
      ∀ p, c.port = some p → exec (.mittenCommandComplete q) s =
        if s.portOpen (slicePort q) = true then (match s.sendToken c.gang p c.token with
          | some t => done t
          | none => .next s) else .next s)) ∧
  (∀ (s t : State) (g : Gang) (c d : MCmd) (q : SliceId), s.mittenRun g c q = .ok (t, d) → c.op ≠ .mseq →
    let mit := if c.began = none then g.mitten (s.resvAt q) else c.ways
    let w := getBits c.md 0 5 + 1
    let n := min (c.cnt.toNat - c.cursor) ((512 - (c.va.toNat + c.cursor * size w) % 512) / size w)
    let va := fun (j : Nat) => c.va + BitVec.ofNat 64 ((c.cursor + j) * size w)
    let lane := fun (j : Nat) => maLane c.maddr + (c.cursor + j)
    d = { c with began := some 0, cursor := c.cursor + n, ended := decide (c.cnt.toNat ≤ c.cursor + n), ways := mit } ∧
    ∃ st : Nat → State, st 0 = s ∧
      (c.op = .mxpose → (∀ j < n, ∃ u x, (st j).agentRead g c.core (va j).toNat (size w) = .ok (u, x) ∧
        st (j + 1) = u.setSlice q ((u.slice q).setLane mit (maRow c.maddr) (lane j) x w)) ∧
        t = if n = 0 then s else (st n).clearRows q mit (maRow c.maddr) w) ∧
      (c.op = .mxout → (∀ j < n,
        let y := ((st j).slice q).laneVal mit (maRow c.maddr) (lane j) w
        (st j).agentWrite g c.core (va j).toNat (size w)
          (wrapI (8 * size w) (if c.md.getLsbD 5 then signedOf w y else (y : Int))) = .ok (st (j + 1))) ∧ t = st n)) ∧
  (∀ (z : Slice) (mit : List Nat) (row lane x w : Nat), Memory.wf z.way = true → row + w ≤ 1024 → lane < 8192 * mit.length →
    (z.setLane mit row lane x w).laneVal mit row lane w = x % 2 ^ w) ∧
  (∀ (d : SeqDesc) (z : Slice) (mit : List Nat) (nl ra rb rc lane : Nat) (disp : Int),
    let la := (lane : Int) + disp
    let out := la < 0 ∨ (nl : Int) ≤ la
    let r := d.lane z mit nl ra rb rc disp lane
    (out → d.padOf = 2 → r = none) ∧
    (¬ (out ∧ d.padOf = 2) →
      let a := if out ∧ d.padOf = 0 then 0
        else asInt d.sa d.wa (z.laneVal mit ra (min (max la 0) (nl - 1)).toNat d.wa)
      let b := asInt d.sb d.wb (if d.bconst then d.bval % 2 ^ d.wb else z.laneVal mit rb lane d.wb)
      let c := asInt d.sacc d.wacc (z.laneVal mit rc lane d.wacc)
      let lo : Int := if d.sacc then -2 ^ (d.wacc - 1) else 0
      let hi : Int := if d.sacc then 2 ^ (d.wacc - 1) - 1 else 2 ^ d.wacc - 1
      let arith := fun (x : Int) => some (wrapI d.wacc (if d.sat then min (max x lo) hi else x))
      let p := BitVec.ofInt d.wacc a
      let q := BitVec.ofInt d.wacc b
      (d.op = 0 → r = arith (a + b)) ∧ (d.op = 1 → r = arith (a - b)) ∧ (d.op = 2 → r = arith (a * b)) ∧
      (d.op = 3 → r = arith (c + a * b)) ∧ (d.op = 4 → r = some (p &&& q).toNat) ∧ (d.op = 5 → r = some (p ||| q).toNat) ∧
      (d.op = 6 → r = some (p ^^^ q).toNat) ∧ (d.op = 7 → r = some (p &&& ~~~q).toNat) ∧
      (d.op = 8 → r = some (wrapI d.wacc (if b < a then 1 else 0))) ∧
      (d.op = 9 → r = some (wrapI d.wacc (if b ≠ 0 then a else c))))) ∧
  (∀ (x : BitVec 512) (z : Slice) (mit : List Nat) (n lane : Nat), Memory.wf z.way = true → mit.Nodup →
    lane < 8192 * mit.length →
    let d := seqDesc x
    let row := fun (f : Level → Int) (base : Int) => base + ((List.range 5).map fun k =>
      f (d.levels.getD k (seqLevel x 0)) * ((n / ((d.levels.take k).map (·.trip)).prod % (d.levels.getD k (seqLevel x 0)).trip : Nat) : Int)).sum
    let rc := (row (·.ca) d.accrow).toNat
    rc + d.wacc ≤ 1024 →
    (d.body z mit n).laneVal mit rc lane d.wacc = (d.lane z mit (8192 * mit.length) (row (·.aa) d.arow).toNat
      (row (·.ba) d.brow).toNat rc (row Level.step d.aoff) lane).getD (z.laneVal mit rc lane d.wacc)) ∧
  (∀ (s : State) (q : SliceId), (∀ u ∈ s.upsets, u.hard = false) →
    exec (.sliceScrub q) s = .next (s.correct (some q) ((s.upsets.map (·.site)).filter (s.scrubs q)))) ∧
  ∀ (s : State) (q : SliceId),
    (s.holder q = none → exec (.mittenScrub q) s = .next s) ∧
    ∀ g row, s.holder q = some g → s.badRow q (g.mitten (s.resvAt q)) 0 1024 = some row →
      exec (.mittenScrub q) s = .next ((s.setSlice q { s.slice q with errors := (s.slice q).errors + 1 }).doom g.gid
        ⟨stFault, cECCU, 0, BitVec.ofNat 64 ((q.val / 16 - g.qy) * g.launch.w + (q.val % 16 - g.qx) + row * 2 ^ 16), 0, 0, 0⟩)

/-! ### Class 0xD: data engines and render units -/

/-- R312 to R332, R336 to R350, R356, R357: OWN moves tiles between the core and a slot, all but those that an issued command
is to take (log entry 62); a command issues into a free slot and waits for a busy one or for its port; acceptance reads its
descriptors (cached: log entry 41), takes the tiles that stood pending at issue, then runs the command or halts it: with COPYF
where its descriptor is malformed or of another kind, at the first address of its local ranges that is outside the local store
or in no tile held, at an address that is not aligned or at a malformed pool (order of the checks: log entries 38 and 89), with
RDEPTH at a ray that is too deep; a burst of at most 512 bytes moves its bytes, and a GATHER or IWALK opens its next row or
non-zero (log entry 35), under CSR from the row that a binary search finds (R325); a bin's work is done fragment by fragment or
pixel by pixel, after the earlier command of its firing, and a RAST and an RCLEAR.pool of one firing use a pool in their order
(log entry 39); a fragment of a multi-layer target takes a node of the pool or merges the pair with the least gap (R339 to
R343; the last node's link: log entry 9; nodes before the head word: log entry 37), and RESOLVE gives the layer that is asked
for; a ray ends in a miss or at the first voxel that is dense enough; a completed command gives its tiles back and sends its
tokens, each for the credit of its engine's port (R220: log entry 13), and the last of them frees the slot; an engine fault
fires the trap actor, once no hold stands on the core, a barrier's among them (log entry 116). It is the model's choice which of
several checks of a render command that fail is reported (log entry 117), that a command accepted anew keeps its cursor (log entry
118), that a command halted at acceptance holds only what works on its bins (log entry 119), how NaN depths stand in a list (log
entry 120), that engstat keeps the low 32 bits of a cursor (log entry 106) and that a block
pixel outside a multi-layer target has the count 0 (log entry 107). -/
def Obligations.EngineCommands : Prop :=
  let dva := fun (o : Ops) (s : State) => addOff (s.me.word o.o0 0) o.imm
  let sl := fun (o : Ops) => slotOf o.md
  let port := fun (o : Ops) (s : State) => match o.o3 with
    | .c n => (s.outPort n.val).isSome
    | _ => true
  let w := fun (f : Ops → Operand) (o : Ops) (s : State) => s.me.word (f o) 0
  let none_ := fun (_ : Ops) (_ : State) => (0 : Word)
  let one := fun (i : Hdr → Ops → Instr) (op : EngOp) (kind : Byte) (ok : Ops → State → Bool) (a4 : Ops → State → Word) =>
    let c := fun (o : Ops) (s : State) => ({
      op := op, fire := s.me.fire.getD ⟨0, .normal, 0⟩, gang := s.me.gang.getD 0, ipc := s.me.pc, dva := dva o s
      a1 := w (·.o1) o s, a2 := w (·.o2) o s, a4 := a4 o s, md := o.md, port := s.cmdPort o.o3
      snap := some s.me.eng[sl o].pending, after := s.openWrites, seq := s.nextId, desc := 0, pool := 0, unit := 0
      opened := [], csr := none, done := [], bins := [], toks := [] } : Cmd)
    Reaches i (fun o s => ok o s && port o s && (dva o s).toNat % 64 == 0 && s.me.eng[sl o].state == .free && !s.portShut)
      (fun o s => ({ s.setMe { s.me with eng := s.me.eng.set (sl o) { s.me.eng[sl o] with
        state := .issued, kind := kind, cursor := 0, cmd := some (c o s) } } with
          nextId := s.nextId + 1 } : State).raise (s.me.gang.getD 0) 1) onward ∧
    Waits i (fun o s => ok o s && port o s && (dva o s).toNat % 64 == 0 &&
      (s.me.eng[sl o].state != .free || s.portShut)) ∧
    Traps i (fun o s => port o s && (dva o s).toNat % 64 != 0) cALIGN dva ∧
    ∀ (h : Hdr) (o : Ops) (s : State), s.clear h = true → port o s = false →
      exec (i h o) s = .next (s.takeTrap s.cur cCHAN (BitVec.ofNat 64 o.o3.portNo.val))
  let first := fun (o : Ops) (s : State) => (s.me.word o.o0 0).toNat
  let count := fun (o : Ops) (s : State) => (s.me.word o.o1 o.zext).toNat
  let inside := fun (o : Ops) (s : State) => !o.bit 3 && decide (first o s + count o s ≤ 128)
  let pend := fun (o : Ops) (s : State) (x : BitVec 128) =>
    ({ s.me with eng := s.me.eng.set (sl o) { s.me.eng[sl o] with pending := x } } : Core)
  let m := fun (x : Cmd) => x.snap.getD (BitVec.allOnes 128)
  Completes .own (fun o s => o.bit 3 &&
      (s.me.eng[sl o].state != .issued || (s.me.eng[sl o].cmd.bind (·.snap)).isNone)) (fun o s => pend o s 0) ∧
  (∀ x : BitVec 128, Completes .own (fun o s => o.bit 3 && s.me.eng[sl o].state == .issued &&
      decide (s.me.eng[sl o].cmd.bind (·.snap) = some x)) (fun o s => pend o s (s.me.eng[sl o].pending &&& x))) ∧
  (∀ (h : Hdr) (o : Ops) (s : State), s.ready h o = true → inside o s = true →
    let tiles := tileRange (first o s * 4096) (count o s * 4096)
    let given := fun (a : Access) =>
      if a.core = s.cur ∧ a.inTiles s.cur tiles = true then { a with pre := decide (a.fire.fid = s.me.fid) } else a
    (s.me.owned (first o s * 4096) (count o s * 4096) = true → exec (.own h o) s = .next s) ∧
    (s.me.owned (first o s * 4096) (count o s * 4096) = false → exec (.own h o) s =
      .next (({ s.setMe (pend o s (s.me.eng[sl o].pending ||| tiles)) with flight := s.flight.map given } : State).issued
        s.cur s.nextPc))) ∧
  Traps .own (fun o s => !o.bit 3 && !inside o s) cALIGN (fun o s => BitVec.ofNat 64 (first o s * 4096)) ∧
  (∀ f c t : Nat, f + c ≤ 128 → t < 128 → (tileRange (f * 4096) (c * 4096)).getLsbD t = decide (f ≤ t ∧ t < f + c)) ∧
  one .copy .copy 1 always none_ ∧ one .gather .gather 2 always (w (·.o4)) ∧ one .iwalk .iwalk 3 always (w (·.o4)) ∧
  one .rast .rast 0x10 always (w (·.o4)) ∧ one .resolve .resolve 0x11 always none_ ∧
  one .rmarch .rmarch 0x12 (fun o _ => decide (o.mod 4 6 ≤ 32)) none_ ∧ one .rclear .rclear 0x13 always none_ ∧
  Traps .rmarch (fun o s => port o s && (dva o s).toNat % 64 == 0 && decide (32 < o.mod 4 6)) cPAYLD
    (fun o _ => BitVec.ofNat 64 (o.mod 4 6)) ∧
  (∀ (s : State) (c : CoreId) (n : Fin 8) (g : Gang) (x : Cmd), s.issuedCmd c n = some (g, x) → x.op.isData = true →
    (s.portOpen (enginePort c) = false → exec (.commandAccept c n) s = .next s) ∧
    ∀ t d, s.portOpen (enginePort c) = true → s.readDesc g c x.dva = .ok (t, d) →
      let e := (t.core c).eng[n]
      let e' : EngSlot := { e with
        cmd := some { x with desc := d }, held := e.held ||| (e.pending &&& m x), pending := e.pending &&& ~~~m x }
      let put := fun (e : EngSlot) => t.setCore c { t.core c with eng := (t.core c).eng.set n e }
      (dataBad { x with desc := d } e'.held = none → exec (.commandAccept c n) s = .next (put { e' with state := .running })) ∧
      ∀ v, dataBad { x with desc := d } e'.held = some v → exec (.commandAccept c n) s =
        .next ((put { e' with state := .halted, fault := some (cCOPYF, v) }).stampIdle g.gid)) ∧
  (∀ (s : State) (c : CoreId) (n : Fin 8) (g : Gang) (x : Cmd), s.issuedCmd c n = some (g, x) → x.op.isData = false →
    (s.core c).renderWaits x = false → (s.core c).eng[n].rslot = false →
    let given := (∀ a ∈ x.after, s.access a = none) ∧ ∀ a ∈ s.flight, a.pre = true → a.core = c →
      a.inTiles c ((s.core c).eng[n].held ||| ((s.core c).eng[n].pending &&& m x)) = false
    (32 ≤ s.rslots[coreDie c] → exec (.renderSlotAccept c n) s = .next s) ∧
    (x.op = .rmarch → ¬ given → exec (.renderSlotAccept c n) s = .next s) ∧
    ∀ t y, s.rslots[coreDie c] < 32 → (x.op = .rmarch → given) → s.portOpen (renderPort (coreDie c)) = true → 
      s.readRender g c x ((s.core c).eng[n].held ||| ((s.core c).eng[n].pending &&& m x)) = .ok (t, y) →
      let e := (t.core c).eng[n]
      let e' : EngSlot := { e with
        cmd := some y, held := e.held ||| (e.pending &&& m y), pending := e.pending &&& ~~~m y, rslot := true }
      let put := fun (e : EngSlot) => ({ t with rslots := t.rslots.set (coreDie c) (t.rslots[coreDie c] + 1) } : State).setCore c
        { t.core c with eng := (t.core c).eng.set n e }
      (renderBad (t.core c) y e'.held g.img.rdepth = none →
        exec (.renderSlotAccept c n) s = .next (put { e' with state := .running })) ∧
      ∀ cause v, renderBad (t.core c) y e'.held g.img.rdepth = some (cause, v) → exec (.renderSlotAccept c n) s =
        .next ((put { e' with state := .halted, fault := some (cause, v) }).stampIdle g.gid)) ∧
  (∀ (k : Core) (x : Cmd) (held : BitVec 128) (rdepth : Nat),
    let d := x.desc
    let kind := getBits d 0 8
    let bad := fun (a : Int) => a < 0 ∨ 0x7FFFF < a ∨ held.getLsbD (a.toNat / 4096) = false
    let first := fun (bad : Int → Prop) (lo hi : Int) (bads : Int → Prop) (rest : Prop) =>
      (∀ v, lo ≤ v → v ≤ hi → bad v → (∀ a, lo ≤ a → a < v → ¬ bad a) → bads v) ∧
      ((∀ a, lo ≤ a → a ≤ hi → ¬ bad a) → rest)
    let r := dataBad x held
    let at_ := fun (v : Int) => r = some (BitVec.ofInt 64 v)
    let field := fun (lo n : Nat) => signedOf n (getBits d lo n)
    let low := fun (base s2 s1 : Int) => base + min 0 (s2 * getBits d 48 16) + min 0 (s1 * getBits d 32 16)
    let high := fun (base s2 s1 : Int) =>
      base + max 0 (s2 * getBits d 48 16) + max 0 (s1 * getBits d 32 16) + getBits d 16 16
    let block := fun (bad : Int → Prop) (base s2 s1 : Int) => first bad (low base s2 s1) (high base s2 s1) at_
    let b : Int := getBits x.a2 0 19
    let n := x.a4.toNat
    (x.op = .copy →
      (kind ≠ 1 ∨ getBits d 8 2 = 3 → r = some x.dva) ∧
      (kind = 1 → getBits d 8 2 < 3 → block bad b (field 224 32) (field 192 32)
        ((getBits d 8 2 < 2 → r = none) ∧ (getBits d 8 2 = 2 → block (fun a => a < 0 ∨ 0x7FFFF < a) (getBits x.a1 32 19)
          (field 128 64) (field 64 64) (r = none))))) ∧
    (x.op = .gather →
      let sz := if d.getLsbD 8 then 8 else 4
      let i := getBits x.a2 32 19
      (kind ≠ 2 → r = some x.dva) ∧ (kind = 2 → i % sz ≠ 0 → at_ i) ∧ (kind = 2 → i % sz = 0 →
        (n = 0 → r = none) ∧ (0 < n → first bad i (i + n * sz - 1) at_
          (first bad b (b + (n - 1) * getBits d 128 32 + getBits d 16 16) at_ (r = none))))) ∧
    (x.op = .iwalk →
      let pairs : Int := b + getBits d 384 19
      let area := fun (on : Bool) (off : Nat) (rest : Prop) =>
        let lo := b + getBits d off 19
        if on then first bad lo (lo + (n - 1) * getBits d 480 19 + getBits d 16 16) at_ rest else rest
      let wrong := kind ≠ 3 ∨ (d.getLsbD 8 = false ∧ getBits d 32 32 = 0)
      (wrong → r = some x.dva) ∧ (¬ wrong → pairs % 8 ≠ 0 → at_ pairs) ∧ (¬ wrong → pairs % 8 = 0 →
        (n = 0 → r = none) ∧ (0 < n → first bad pairs (pairs + 8 * n - 1) at_
          (area (d.getLsbD 9) 416 (area (d.getLsbD 10) 448 (r = none)))))) ∧
    let q := renderBad k x held rdepth
    let fails := fun (v : Word) => q = some (cCOPYF, v)
    let out := fun (v : Int) => fails (BitVec.ofInt 64 v)
    let ml := kind = 0x21
    let layers := getBits d 10 4
    let samp := getBits d 8 2
    let wrong := (kind ≠ 0x20 ∧ ¬ ml) ∨ 1 < samp ∨ (ml ∧ samp ≠ 0) ∨ (ml ∧ (layers = 0 ∨ 8 < layers)) ∨ (¬ ml ∧ layers ≠ 0) ∨
      getBits d 14 2 = 3 ∨ getBits d 64 64 % 64 ≠ 0
    let pool := ml ∧ (getBits x.pool 0 8 ≠ 0x30 ∨ getBits x.pool 32 32 = 0 ∨ 4096 < getBits x.pool 32 32 ∨
      getBits x.pool 64 64 % 4096 ≠ 0)
    let last := (pool → fails (BitVec.ofNat 64 (getBits d 128 64))) ∧ (¬ pool → q = none)
    (x.op = .rast ∨ x.op = .resolve ∨ x.op = .rclear → wrong → fails x.dva) ∧
    (x.op = .rast → ¬ wrong → (x.a1.toNat % 16 ≠ 0 → fails x.a1) ∧ (x.a1.toNat % 16 = 0 → last)) ∧
    (x.op = .resolve → ¬ wrong →
      let s := if ml then layers else if samp = 1 then 4 else 1
      (s ≤ getBits x.md 4 3 → fails x.dva) ∧ (getBits x.md 4 3 < s → (x.a2.toNat % 4096 ≠ 0 → fails x.a2) ∧
        (x.a2.toNat % 4096 = 0 → first bad x.a2.toNat (x.a2.toNat + 16383) out last))) ∧
    (x.op = .rclear → ¬ wrong → (x.md.getLsbD 4 = false → q = none) ∧
      (x.md.getLsbD 4 = true → (¬ ml → fails x.dva) ∧ (ml → last))) ∧
    (x.op = .rmarch →
      let h := getBits d 320 32
      let depth := fun (i : Nat) => memReadN k.ls (x.a1.toNat + 64 * i) 64 / 2 ^ 232 % 2 ^ 4
      let wrong := kind ≠ 0x40 ∨ getBits d 64 64 % 8 ≠ 0 ∨ h = 0 ∨ 0x7F800000 ≤ h
      (wrong → fails x.dva) ∧ (¬ wrong → x.a1.toNat % 64 ≠ 0 → fails x.a1) ∧ (¬ wrong → x.a1.toNat % 64 = 0 →
        first bad x.a1.toNat (x.a1.toNat + 64 * x.a2.toNat - 1) out
          ((∀ i, x.unit ≤ i → i < x.a2.toNat → rdepth ≤ depth i → (∀ j, x.unit ≤ j → j < i → depth j < rdepth) →
            q = some (cRDEPTH, BitVec.ofNat 64 (x.a1.toNat + 64 * i))) ∧
          ((∀ i, x.unit ≤ i → i < x.a2.toNat → depth i < rdepth) → q = none))))) ∧
  (∀ (far : Word) (near : Int) (n : Nat), ((runPieces far near n).map (·.len)).sum = n ∧
    ∀ p ∈ runPieces far near n, 0 < p.len ∧ p.far % 512 + p.len ≤ 512 ∧
      ∃ o : Nat, p.near = near + o ∧ p.far = (far + BitVec.ofNat 64 o).toNat ∧ o + p.len ≤ n) ∧
  (∀ (s : State) (c : CoreId) (n : Fin 8) (g : Gang) (x : Cmd), s.runningCmd c n = some (g, x) → s.upsets = [] →
    let slot := fun (t : State) (y : Cmd) (cur : Nat) =>
      ({ (t.core c).eng[n] with cmd := some y, cursor := BitVec.ofNat 32 cur } : EngSlot)
    let set := fun (t : State) (y : Cmd) (cur : Nat) =>
      t.setCore c { t.core c with eng := (t.core c).eng.set n (slot t y cur) }
    let store := fun (t : State) (u : CoreId) (a v len : Nat) =>
      t.setCore u { t.core u with ls := memWriteN (t.core u).ls a v len }
    (∀ i u k p, x.op.isData = true → x.finished = false → s.portOpen (enginePort c) = true →
      x.bursts[i]? = some (u, k, false, p) →
      let y := x.burstDone u k
      let free := s.inOrder g c x (s.soPiece g c x p) (underWay (x.bursts.take i))
      (free = false → exec (.engineBurst c n i) s = .next s) ∧
      (∀ t v, free = true → (x.op = .copy → copyDir x.desc = 0) → s.agentRead g c p.far p.len = .ok (t, v) → t.upsets = [] →
        exec (.engineBurst c n i) s = .next (set (store t c p.near.toNat v p.len) y y.progress)) ∧
      (∀ t, free = true → x.op = .copy → copyDir x.desc = 1 →
        s.agentWrite g c p.far p.len (memReadN (s.core c).ls p.near.toNat p.len) = .ok t →
        exec (.engineBurst c n i) s = .next (set t y y.progress)) ∧
      (free = true → x.op = .copy → copyDir x.desc = 2 → let u := g.copyTarget x
        ((s.core u).owned p.far p.len = true ∨ s.portOpen (corePort u) = false → exec (.engineBurst c n i) s = .next s) ∧
        ((s.core u).owned p.far p.len = false → s.portOpen (corePort u) = true → exec (.engineBurst c n i) s =
          .next (set (store s u p.far (memReadN (s.core c).ls p.near.toNat p.len) p.len) y y.progress)))) ∧
    (∀ i, x.op = .gather → s.portOpen (enginePort c) = true → x.bursts[i]? = none → x.unit < x.a4.toNat →
      let sz := if x.desc.getLsbD 8 then 8 else 4
      let a := getBits x.a2 32 19 + x.unit * sz
      let hit := ∃ p ∈ underWay x.bursts, p.near < a + sz ∧ (a : Int) < p.near + p.len
      let y := { x with
        unit := x.unit + 1
        opened := x.opened ++ [⟨x.unit, (BitVec.ofNat 64 (memReadN (s.core c).ls a sz)).toNat, 0, []⟩] }
      (hit → exec (.engineBurst c n i) s = .next s) ∧
      (¬ hit → exec (.engineBurst c n i) s = .next (set s y y.progress))) ∧
    (∀ i k t1 r t2 j, x.op = .iwalk → x.desc.getLsbD 8 = true → s.portOpen (enginePort c) = true → x.bursts[i]? = none →
      x.unit < x.a4.toNat → s.inOrder g c x false (underWay x.bursts) = true → k = x.a1.toNat + x.unit →
      s.read4 g c (!(underWay x.bursts).isEmpty) (BitVec.ofNat 64 (getBits x.desc 64 64 + 4 * k)) = .ok (t1, r) →
      t1.read4 g c (!(underWay x.bursts).isEmpty) (BitVec.ofNat 64 (getBits x.desc 128 64 + 4 * k)) = .ok (t2, j) →
      t2.upsets = [] →
      let y := { x with
        unit := x.unit + 1
        opened := if iwPieces x x.unit r j = [] then x.opened else x.opened ++ [⟨x.unit, r, j, []⟩] }
      exec (.engineBurst c n i) s = .next (set (store t2 c (x.base + getBits x.desc 384 19 + 8 * x.unit) (r + j * 2 ^ 32) 8)
        y y.progress)) ∧
    (∀ i t1 row nnz, x.op = .iwalk → x.desc.getLsbD 8 = false → s.portOpen (enginePort c) = true → x.bursts[i]? = none →
      s.inOrder g c x false (underWay x.bursts) = true →
      s.iwStart g c (!(underWay x.bursts).isEmpty) x = .ok (t1, row, nnz) →
      let k := x.a1.toNat + x.unit
      let pair := fun (t : State) (v : Nat) (y : Cmd) => exec (.engineBurst c n i) s = .next (set (store t c
        (x.base + getBits x.desc 384 19 + 8 * x.unit) v 8) y y.progress)
      (x.a4 = 0 → x.csr = none → let y := { x with csr := some (row, nnz) }
        exec (.engineBurst c n i) s = .next (set t1 y y.progress)) ∧
      (x.unit < x.a4.toNat → nnz ≤ k → t1.upsets = [] →
        pair t1 (2 ^ 64 - 1) { x with csr := some (row, nnz), unit := x.unit + 1 }) ∧
      ∀ t2 r t3 j, x.unit < x.a4.toNat → k < nnz →
        t1.rowWalk g c (!(underWay x.bursts).isEmpty) x.desc k row (2 ^ 54 + 1) = .ok (t2, r) →
        t2.read4 g c (!(underWay x.bursts).isEmpty) (BitVec.ofNat 64 (getBits x.desc 128 64 + 4 * k)) = .ok (t3, j) →
        t3.upsets = [] → pair t3 (r + j * 2 ^ 32) { x with
          csr := some (r, nnz), unit := x.unit + 1
          opened := if iwPieces x x.unit r j = [] then x.opened else x.opened ++ [⟨x.unit, r, j, []⟩] }) ∧
    (∀ b, x.op.isData = false → x.op ≠ .rmarch → b ∈ x.binList → b ∉ x.done → s.portOpen (renderPort (binDie b)) = true →
      let rest := x.bins.filter (·.bin != b)
      (s.binBusy x b = true → exec (.binWork c n b) s = .next s) ∧
      (∀ t p, s.binBusy x b = false → s.workBin g c x b = .ok t (some p) →
        let y := { x with bins := p :: rest }
        exec (.binWork c n b) s = .next (set t y y.renderCursor)) ∧
      (∀ t, s.binBusy x b = false → s.workBin g c x b = .ok t none →
        let y := { x with done := x.done ++ [b], bins := rest }
        exec (.binWork c n b) s = .next (set t y y.renderCursor)) ∧
      ∀ t cause v gid, s.binBusy x b = false → s.workBin g c x b = .halt t cause v → (t.core c).gang = some gid →
        exec (.binWork c n b) s = .next ((t.setCore c { t.core c with
          eng := (t.core c).eng.set n { (t.core c).eng[n] with state := .halted, fault := some (cause, v) } }).stampIdle gid)) ∧
    (∀ t rec toks, x.op = .rmarch → x.unit < x.a2.toNat → s.portOpen (renderPort (coreDie c)) = true →
      let a := x.a1.toNat + 64 * x.unit
      s.castRay g c x a = .ends t rec toks →
      let y := { x with unit := x.unit + 1, toks := x.toks ++ toks }
      let k := t.core c
      let l := memWriteN (memWriteN k.ls a rec 32) (a + 32 + getBits x.md 4 6) 0 (32 - getBits x.md 4 6)
      exec (.rayMarch c n) s = .next (set (t.setCore c { k with ls := l }) y y.renderCursor)) ∧
    let resets := (x.op == .rclear && x.md.getLsbD 4) = true
    (x.allDone = false ∨ s.poolBusy x = true ∨ (resets ∧ s.portOpen (renderPort (coreDie c)) = false) →
      exec (.commandComplete c n) s = .next s) ∧
    (∀ t, x.allDone = true → s.poolBusy x = false → (resets → s.portOpen (renderPort (coreDie c)) = true) → (if resets
        then s.wrVa g c ((targetOf x.desc).pool + 16) 12 0 = .ok t else t = s) →
      let k := t.core c
      let u := (t.freeRslot c k.eng[n]).stampIdle g.gid
      let e : EngSlot := { k.eng[n] with held := 0, rslot := false, cursor := BitVec.ofNat 32 x.finalCursor }
      let put := fun (e : EngSlot) => u.setCore c { k with eng := k.eng.set n e }
      (x.tokens = [] → exec (.commandComplete c n) s = .next ((put { e with state := .free, cmd := none }).lower g.gid 1)) ∧
      (x.tokens ≠ [] → exec (.commandComplete c n) s =
        .next (put { e with state := .token, cmd := some { x with toks := x.tokens } })))) ∧
  (∀ (s : State) (x y : Cmd) (b : Nat), x.op = .rast → (targetOf x.desc).ml = true → y.op = .rclear → y.md.getLsbD 4 = true →
    y.fire.fid = x.fire.fid →
    (y.seq < x.seq → (∃ k ∈ s.cores.toList, ∃ e ∈ k.eng.toList, e.state = .running ∧ e.cmd = some y) → s.binBusy x b = true) ∧
    (x.seq < y.seq → (∃ k ∈ s.cores.toList, ∃ e ∈ k.eng.toList, e.state = .running ∧ e.cmd = some x) → s.poolBusy y = true)) ∧
  (∀ (s : State) (g : Gang) (c : CoreId) (b : Bool) (x : Cmd) (k lo hi row n : Nat),
    let d := x.desc
    let rp := fun (t : State) (m : Nat) => t.read4 g c b (BitVec.ofNat 64 (getBits d 64 64 + 4 * m))
    (hi ≤ lo + 1 → s.rowSearch g c b d k lo hi (n + 1) = .ok (s, lo)) ∧
    (∀ t y, lo + 1 < hi → rp s ((lo + hi) / 2) = .ok (t, y) → s.rowSearch g c b d k lo hi (n + 1) =
      if y ≤ k then t.rowSearch g c b d k ((lo + hi) / 2) hi n else t.rowSearch g c b d k lo ((lo + hi) / 2) n) ∧
    (∀ t y, rp s (row + 1) = .ok (t, y) → s.rowWalk g c b d k row (n + 1) =
      if y ≤ k then t.rowWalk g c b d k (row + 1) n else .ok (t, row)) ∧
    (∀ y, x.csr = some y → s.iwStart g c b x = .ok (s, y)) ∧
    ∀ t u y, x.csr = none → s.rowSearch g c b d x.a1.toNat 0 (getBits d 32 32) 33 = .ok (t, row) →
      rp t (getBits d 32 32) = .ok (u, y) → s.iwStart g c b x = .ok (u, row, y)) ∧
  (∀ (s t : State) (g : Gang) (c : CoreId) (x : Cmd) (p : BinProg) (bin r v : Nat) (f : Frag) (raw : BitVec 384),
    let tg := targetOf x.desc
    let id := getBits x.a2 0 32 * 2 ^ 32 + p.tri
    let zs := v / 2 ^ 64 % 2 ^ 32
    let closer := (depthVal zs).isNaN = true ∨ (depthVal f.z).cmp (depthVal zs) = .lt ∨
      ((depthVal f.z).cmp (depthVal zs) = .eq ∧ id < v % 2 ^ 64)
    let next := some { p with pix := p.pix + 1 }
    x.op = .rast → tg.ml = false → x.progIn bin = p → p.raw = some raw → r = raw.toNat →
    ((triOf r).frags tg p.bin)[p.pix]? = some f →
    s.rdVa g c (BitVec.ofNat 64 (tg.base + 16 * ((f.y * tg.w + f.x) * tg.s + f.s))) 16 = .ok (t, v) →
    (¬ closer → s.workBin g c x bin = .ok t next) ∧
    ∀ u, closer → t.wrVa g c (BitVec.ofNat 64 (tg.base + 16 * ((f.y * tg.w + f.x) * tg.s + f.s))) 16 (id + f.z * 2 ^ 64) = .ok u →
      s.workBin g c x bin = .ok u next) ∧
  (∀ (s t u : State) (g : Gang) (c : CoreId) (x : Cmd) (p : BinProg) (bin h : Nat) (f : Frag) (raw : BitVec 384)
      (l : List (Nat × Node)),
    let tg := targetOf x.desc
    x.op = .rast → tg.ml = true → x.progIn bin = p → p.raw = some raw →
    ((triOf raw.toNat).frags tg p.bin)[p.pix]? = some f →
    s.rdVa g c (BitVec.ofNat 64 (tg.base + 4 * (f.y * tg.w + f.x))) 4 = .ok (t, h) →
    t.readNodes g c x.pool (h % 2 ^ 20) (min (h / 2 ^ 20 % 2 ^ 4) tg.k) = .ok (u, l) →
    let nodes := l.map (·.2)
    let j := nodes.countP fun n => !(depthVal n.z).isNaN && (depthVal n.z).cmp (depthVal f.z) != .gt
    let m := nodes.take j ++ [⟨f.z, getBits x.a2 0 32 * 2 ^ 32 + p.tri, false, raw.toNat / 2 ^ 288 % 2 ^ 8⟩] ++ nodes.drop j
    let next := some { p with pix := p.pix + 1 }
    (l.length < tg.k →
      (∀ w, u.allocate g c tg.pool x.pool = .empty w → s.workBin g c x bin = .halt w cPOOLEX (BitVec.ofNat 64
        ((p.bin / 2048 * ((tg.w + 63) / 64) + p.bin % 2048) * 2 ^ 32 + p.tri))) ∧
      (∀ w, u.allocate g c tg.pool x.pool = .bad w → s.workBin g c x bin = .halt w cCOPYF tg.pool) ∧
      ∀ w i z, u.allocate g c tg.pool x.pool = .node w i →
        w.writePixel g c tg x.pool f.x f.y ((l.map (·.1) ++ [i]).zip m) false (h.testBit 25) = .ok z →
        s.workBin g c x bin = .ok z next) ∧
    ∀ z, tg.k ≤ l.length →
      u.writePixel g c tg x.pool f.x f.y ((l.map (·.1)).zip (mergeList tg.rule m)) true true = .ok z →
      s.workBin g c x bin = .ok z next) ∧
  (∀ (s : State) (g : Gang) (c : CoreId) (pool : BitVec 512) (i n : Nat),
    s.readNodes g c pool i 0 = .ok (s, []) ∧
    ∀ t r u l, s.rdVa g c (BitVec.ofNat 64 (getBits pool 64 64 + 16 * i)) 16 = .ok (t, r) →
      t.readNodes g c pool (r / 2 ^ 96 % 2 ^ 20) n = .ok (u, l) → s.readNodes g c pool i (n + 1) =
        .ok (u, (i, ⟨r % 2 ^ 32, r / 2 ^ 32 % 2 ^ 64, r.testBit 116, r / 2 ^ 120 % 2 ^ 8⟩) :: l)) ∧
  (∀ (s t : State) (g : Gang) (c : CoreId) (va : Word) (pool : BitVec 512) (x : Nat), s.rdVa g c (va + 16) 12 = .ok (t, x) →
    let limit := 256 * getBits pool 32 32
    let next := x % 2 ^ 32
    let count := x / 2 ^ 32 % 2 ^ 32
    let head := x / 2 ^ 64 % 2 ^ 20
    let got := s.allocate g c va pool
    (count = 0 → limit ≤ next → got = .empty t) ∧ (0 < count → limit ≤ head → got = .bad t) ∧
    (∀ u, count = 0 → next < limit → t.wrVa g c (va + 16) 12 (next + 1 + head * 2 ^ 64) = .ok u → got = .node u next) ∧
    ∀ u r w, 0 < count → head < limit → t.rdVa g c (BitVec.ofNat 64 (getBits pool 64 64 + 16 * head)) 16 = .ok (u, r) →
      u.wrVa g c (va + 16) 12 (next + (count - 1) * 2 ^ 32 + r / 2 ^ 96 % 2 ^ 20 * 2 ^ 64) = .ok w → got = .node w head) ∧
  (∀ a b : Node, mergeNodes 0 a b = { a with mnode := true } ∧ mergeNodes 1 a b = { b with mnode := true } ∧
    ∃ n, mergeNodes 2 a b = { a with mnode := true, alpha := n } ∧
      2 * (255 * n) ≤ 2 * (a.alpha * 255 + b.alpha * (255 - a.alpha)) + 255 ∧
      2 * (a.alpha * 255 + b.alpha * (255 - a.alpha)) ≤ 2 * (255 * n) + 255) ∧
  (∀ (rule : Nat) (m : List Node), 2 ≤ m.length → (∀ n ∈ m, (depthVal n.z).isNaN = false) →
    let gap := fun (a b : Node) => match depthVal a.z, depthVal b.z with
      | .inf true, .inf true | .inf false, .inf false => XVal.zero false
      | x, y => (y.add false x.negate).1
    ∃ p a b r, m = p ++ a :: b :: r ∧ mergeList rule m = p ++ mergeNodes rule a b :: r ∧
      ∀ q a' b' r', m = q ++ a' :: b' :: r' → (gap a' b').cmp (gap a b) ≠ .lt ∧
        (q.length < p.length → (gap a b).cmp (gap a' b') = .lt)) ∧
  (∀ (s t u : State) (g : Gang) (c : CoreId) (tg : Target) (pool : BitVec 512) (px py : Nat) (l : List (Nat × Node))
      (merged ever : Bool), s.writeNodes g c pool l = .ok t →
    t.wrVa g c (BitVec.ofNat 64 (tg.base + 4 * (py * tg.w + px))) 4 ((l.head?.map (·.1)).getD 0 + l.length * 2 ^ 20 +
      merged.toNat * 2 ^ 24 + ever.toNat * 2 ^ 25) = .ok u → s.writePixel g c tg pool px py l merged ever = .ok u) ∧
  (∀ (s : State) (g : Gang) (c : CoreId) (pool : BitVec 512) (i : Nat) (n : Node) (l : List (Nat × Node)),
    s.writeNodes g c pool [] = .ok s ∧
    ∃ last < 2 ^ 20, ∀ t, s.wrVa g c (BitVec.ofNat 64 (getBits pool 64 64 + 16 * i)) 16 (n.z + n.id * 2 ^ 32 +
      ((l.head?.map (·.1)).getD last) * 2 ^ 96 + n.mnode.toNat * 2 ^ 116 + n.alpha * 2 ^ 120) = .ok t →
      s.writeNodes g c pool ((i, n) :: l) = t.writeNodes g c pool l) ∧
  (∀ (t : Tri) (area : Int) (x y k : Nat) (off : Int × Int),
    let qx := 256 * (x : Int) + off.1
    let qy := 256 * (y : Int) + off.2
    let edge := fun (a b : Vert) => (b.x - a.x) * (qy - a.y) - (b.y - a.y) * (qx - a.x)
    let inside := fun (a b : Vert) => 0 < edge a b ∨ (edge a b = 0 ∧ (a.y < b.y ∨ (b.y = a.y ∧ b.x < a.x)))
    let all := inside t.v0 t.v1 ∧ inside t.v1 t.v2 ∧ inside t.v2 t.v0
    let term := fun (e : Int) (z : XVal) => ((XVal.ofInt e).mul z).1
    let d := ((((term (edge t.v1 t.v2) t.v0.z).add false (term (edge t.v2 t.v0) t.v1.z)).1.add false
      (term (edge t.v0 t.v1) t.v2.z)).1.div (XVal.ofInt area)).1
    (¬ all ∨ d.isNaN = true → t.fragAt area x y k off = none) ∧
    (all → d.isNaN = false → t.fragAt area x y k off = some ⟨x, y, k, r32 d⟩)) ∧
  (∀ (s : State) (g : Gang) (c : CoreId) (x : Cmd) (bin px py : Nat),
    let tg := targetOf x.desc
    let p := x.progIn bin
    let q := x.rect
    let next := some { p with pix := p.pix + 1 }
    (binPixels p.bin q.1 q.2.1 q.2.2.1 q.2.2.2)[p.pix]? = some (px, py) →
    (∀ t, x.op = .rclear → tg.ml = true → s.wrVa g c (BitVec.ofNat 64 (tg.base + 4 * (py * tg.w + px))) 4 0 = .ok t →
      s.workBin g c x bin = .ok t next) ∧
    (∀ st : Nat → State, x.op = .rclear → tg.ml = false → st 0 = s →
      (∀ k < tg.s, (st k).wrVa g c (BitVec.ofNat 64 (tg.base + 16 * ((py * tg.w + px) * tg.s + k))) 16
        (2 ^ 64 - 1 + 0x7F800000 * 2 ^ 64) = .ok (st (k + 1))) →
      s.workBin g c x bin = .ok (st tg.s) next) ∧
    (x.op = .resolve →
      let e := 32 * (py - getBits x.a1 16 16) + (px - getBits x.a1 0 16)
      let b := x.a2.toNat
      let layer := getBits x.md 4 3
      let gives := fun (t : State) (z id alpha count : Nat) =>
        let l := memWriteN (memWriteN (t.core c).ls (b + 4 * e) z 4) (b + 4096 + 4 * e) id 4
        let l := memWriteN (memWriteN l (b + 8192 + 4 * e) (id / 2 ^ 32) 4) (b + 12288 + e) alpha 1
        t.upsets = [] → s.workBin g c x bin =
          .ok (t.setCore c { t.core c with ls := memWriteN l (b + 13312 + e) count 1 }) next
      (tg.w ≤ px ∨ tg.h ≤ py → gives s 0x7F800000 (2 ^ 64 - 1) 0 0) ∧
      (∀ t v, px < tg.w → py < tg.h → tg.ml = false →
        s.rdVa g c (BitVec.ofNat 64 (tg.base + 16 * ((py * tg.w + px) * tg.s + layer))) 16 = .ok (t, v) →
        let full := v % 2 ^ 64 ≠ 2 ^ 64 - 1
        gives t (v / 2 ^ 64 % 2 ^ 32) (v % 2 ^ 64) (if full then 255 else 0) (if full then 1 else 0)) ∧
      ∀ t v, px < tg.w → py < tg.h → tg.ml = true →
        s.rdVa g c (BitVec.ofNat 64 (tg.base + 4 * (py * tg.w + px))) 4 = .ok (t, v) →
        let count := min (v / 2 ^ 20 % 2 ^ 4) tg.k
        (count ≤ layer → gives t 0x7F800000 (2 ^ 64 - 1) 0 count) ∧
        ∀ u l i n, layer < count → t.readNodes g c x.pool (v % 2 ^ 20) (layer + 1) = .ok (u, l ++ [(i, n)]) →
          gives u n.z n.id n.alpha count)) ∧
  (∀ (s : State) (g : Gang) (c : CoreId) (d : BitVec 512) (ray i n : Nat),
    let tb := r32 ((XVal.ofInt i).mul (Ty.f32.decodeF false (getBits d 320 32))).1
    let t := Ty.f32.decodeF false tb
    let tmax := Ty.f32.decodeF false (ray / 2 ^ 192 % 2 ^ 32)
    let past := tmax.isNaN = true ∨ t.cmp tmax = .gt
    (past → s.march g c d ray i (n + 1) = .miss s) ∧
    (¬ past → voxelAt d ray t = none → s.march g c d ray i (n + 1) = s.march g c d ray (i + 1) n) ∧
    ∀ vx vy vz u b, ¬ past → voxelAt d ray t = some [vx, vy, vz] →
      let at_ := (vz * marchExt d 1 + vy) * marchExt d 0 + vx
      let x := Ty.f16.decodeF false b
      let th := Ty.f16.decodeF false (getBits d 304 16)
      let dense := x.isNaN = false ∧ th.isNaN = false ∧ x.cmp th ≠ .lt
      s.rdVa g c (BitVec.ofNat 64 (getBits d 128 64 + 2 * at_)) 2 = .ok (u, b) →
      (¬ dense → s.march g c d ray i (n + 1) = u.march g c d ray (i + 1) n) ∧
      ∀ y mat, dense → u.rdVa g c (BitVec.ofNat 64 (getBits d 192 64 + at_)) 1 = .ok (y, mat) →
        s.march g c d ray i (n + 1) = .at_ y tb [vx, vy, vz] mat) ∧
  (∀ (s : State) (g : Gang) (c : CoreId) (x : Cmd) (a : Nat),
    let ray := memReadN (s.core c).ls a 64
    let d := x.desc
    let va := BitVec.ofNat 64 a
    let depth := (ray / 2 ^ 232 % 2 ^ 4 + 1) * 2 ^ 144 + ray / 2 ^ 224 % 2 ^ 8 * 2 ^ 152
    let miss := fun (t : State) => Cast.ends t (depth + (2 ^ 32 - 1) * 2 ^ 192) (match x.port with
      | some r => [(r, va)]
      | none => [])
    (∀ t, s.march g c d ray 0 (2 ^ 24) = .miss t → s.castRay g c x a = miss t) ∧
    ∀ t tb vx vy vz mat, s.march g c d ray 0 (2 ^ 24) = .at_ t tb [vx, vy, vz] mat →
      let i := mat * getBits d 16 16 + ray / 2 ^ 224 % 2 ^ 8
      (getBits d 32 32 ≤ i → s.castRay g c x a = .stuck t) ∧
      ∀ u rec, i < getBits d 32 32 → t.rdVa g c (BitVec.ofNat 64 (getBits d 64 64 + 8 * i)) 8 = .ok (u, rec) →
        (rec = 0 → s.castRay g c x a = miss u) ∧
        (rec ≠ 0 → g.shaderPort (u.core c) x rec = none → s.castRay g c x a = .stuck u) ∧
        ∀ r, rec ≠ 0 → g.shaderPort (u.core c) x rec = some r → s.castRay g c x a =
          .ends u (tb + vx * 2 ^ 32 + vy * 2 ^ 64 + vz * 2 ^ 96 + mat * 2 ^ 128 + 2 ^ 136 + depth +
            rec / 2 ^ 32 % 2 ^ 32 * 2 ^ 160 + i * 2 ^ 192) [(r, va)]) ∧
  (∀ (s : State) (c : CoreId) (n : Fin 8) (g : Gang) (x : Cmd) (r : ChanRef) (v : Word) (l : List (ChanRef × Word)),
    s.gangAt (s.core c) = some g → g.active = true → (s.core c).eng[n].state = .token → (s.core c).eng[n].cmd = some x →
    x.toks = (r, v) :: l →
    let port := if x.op.isData then enginePort c else renderPort (coreDie c)
    (s.portOpen port = false → exec (.completionTokenSend c n) s = .next s) ∧ (s.portOpen port = true →
    let put := fun (t : State) (e : EngSlot) => t.setCore c { t.core c with eng := (t.core c).eng.set n e }
    exec (.completionTokenSend c n) s = match s.sendToken g.gid r v with
      | none => .next s
      | some t => .next (if l.isEmpty then (put t { (t.core c).eng[n] with state := .free, cmd := none }).lower g.gid 1
        else put t { (t.core c).eng[n] with cmd := some { x with toks := l } }))) ∧
  ∀ (s : State) (c : CoreId) (n : Fin 8) (g : Gang) (cause : Byte) (v : Word), s.gangAt (s.core c) = some g →
    (s.core c).eng[n].fault = some (cause, v) → (s.core c).inTrap = false → (s.core c).hold = none →
    (s.core c).starting = false → g.active = true →
    let k := s.core c
    let k' : Core := { k with
      eng := k.eng.set n { k.eng[n] with fault := none }
      trapcause := cause.zeroExtend 64 ||| BitVec.ofNat 64 (n.val * 256) ||| 0x800
      trappc := if k.fire.isSome then k.pc else 0, trapval := v }
    (∀ a, g.trapAt k.gx k.gy = some a → exec (.engineFaultDelivery c n) s = .next { s.setCore c { k' with
      issueMark := if k.fire.isSome then k.issueMark else s.tick
      susp := k.fire.map fun f => ⟨f, k.pc⟩, fire := some ⟨a.slot, .trap, s.nextId⟩
      pc := g.launch.image + BitVec.ofNat 64 a.entry, starting := true } with nextId := s.nextId + 1 }) ∧
    (g.trapAt k.gx k.gy = none → exec (.engineFaultDelivery c n) s =
      .next ((s.setCore c k').fatal g.gid cause k'.trappc v c))

/-! ### Firings and gangs -/

/-- R25, R182 to R184, R205, R206, R218, R362 to R366, R372: the selector picks a ready actor of the highest priority, and of
several the first slot after the one that last fired at it; an actor is ready whose required inputs, one of whose merge inputs
and all of whose outputs hold what R182 asks, and which is no exhausted source, trap or Dusk actor. Its firing enters with its
argument (actor 0's first: log entry 40) or its token in s0, a value still on its way there being of no effect (log entry 63); a
gang with every source exhausted and census zero reaches Dusk, told to stop or not, which is a step of its own in either case,
and retires after it; the first cause that ends a gang is kept, of those of one cycle the one with the lower code, then the
lower core; a gang that ends is stopped, with those of its accesses that were not sent dropped (log entry 56), and completed
once the others are over, by the dispatcher of its die (log entry 72); a core that issues nothing for as long as its gang's
limit trips the watchdog, and so does a gang in which nothing goes on: no command runs, be its token still to come, and no
request is parked, one that has its tuple being parked no more (the counts of ready actors: log entry 32); of several counts the one that reached its limit first is
reported, and of those of one cycle the first by kind, core and slot, in the cycle in which it did, before any agent moves (a
limit of 0: log entry 12); and the completion tuple holds what R218 lays out. -/
def Obligations.FiringsAndGangs : Prop :=
  (∀ (s : State) (c : CoreId) (g : Gang), (s.core c).fire = none → s.gangAt (s.core c) = some g → g.phase = .resident →
    g.active = true → (s.core c).engFault = false →
    let k := s.core c
    let s' : State := { s with flight := s.flight.map fun a => if a.holds c 0 (.s 0) then { a with req := a.req.discard } else a }
    let enter := fun (t : State) (k : Core) (a : Actor) (s0 : Word) => Host.Outcome.next (({ t.setCore c { k.setS 0 s0 with
      fire := some ⟨a.slot, .normal, t.nextId⟩, pc := g.launch.image + BitVec.ofNat 64 a.entry
      last := k.last.set a.prio a.slot, issueMark := t.tick } with nextId := t.nextId + 1 } : State).stampCore c)
    (g.pick k = none → exec (.firingSelect c) s = .next s) ∧
    ∀ i a, g.pick k = some (i, a) →
      (i = 0 → k.first0 = true →
        exec (.firingSelect c) s = enter s' { k with first0 := false } a g.launch.arg) ∧
      ((i ≠ 0 ∨ k.first0 = false) → g.entryPort k i a = none → exec (.firingSelect c) s = enter s' k a 0) ∧
      ∀ p r ch, (i ≠ 0 ∨ k.first0 = false) → g.entryPort k i a = some p → g.inOf i k.gx k.gy p = some (r, ch) →
        let t := s'.dequeue g.gid r
        exec (.firingSelect c) s =
          enter t (if 8 ≤ p then (t.core c).setRot a.slot p else t.core c) a ((g.headTok r).getD 0)) ∧
  (∀ (g : Gang) (k : Core) (i : Nat) (a : Actor), g.pick k = some (i, a) →
    g.readyIn k a.slot = some (i, a) ∧ ∀ slot j b, g.readyIn k slot = some (j, b) → b.prio ≤ a.prio) ∧
  (∀ (g : Gang) (k : Core), (g.pick k = none ↔ ∀ slot, g.readyIn k slot = none) ∧ ∀ i a, g.pick k = some (i, a) →
    let after := fun (slot : Fin 8) => (slot.val + 7 - k.last[a.prio].val) % 8
    ∀ slot j b, g.readyIn k slot = some (j, b) → b.prio = a.prio → after a.slot ≤ after slot) ∧
  (∀ (g : Gang) (k : Core) (slot : Fin 8) (i : Nat) (a : Actor),
    let held := fun (n : Nat) (ch : Chan) => ((g.toks (ch.intoRef n k.gx k.gy)).takeWhile (·.visible)).length
    let merge := fun (n : Nat) (ch : Chan) => g.img.chans[n]? = some ch ∧ ch.consAct = i ∧ 8 ≤ ch.consPort.val
    (g.readyIn k slot = some (i, a) ↔ g.actorIn k.gx k.gy slot = some (i, a) ∧ g.img.trap ≠ some i ∧ g.img.dusk ≠ some i ∧
      k.exhausted[a.slot] = false ∧
      (∀ n ch, g.img.chans[n]? = some ch → ch.consAct = i → ch.consPort.val < 8 → ch.consCount ≤ held n ch) ∧
      ((∃ n ch, merge n ch) → ∃ n ch, merge n ch ∧ ch.consCount ≤ held n ch) ∧
      ∀ n ch, g.img.chans[n]? = some ch → ch.prodAct = i → ch.prodCount ≤ ch.slots - (g.toks ⟨n, k.gx, k.gy⟩).length) ∧
    g.entryPort k i a = (match a.firstIn with
      | none => none
      | some p => if p.val < 8 then some p.val else scanPorts k.rot[a.slot] ((List.range 16).filter fun q => decide (8 ≤ q) &&
        (match g.inOf i k.gx k.gy q with
          | some (r, ch) => decide (ch.consCount ≤ ((g.toks r).takeWhile (·.visible)).length)
          | none => false)))) ∧
  (∀ (s : State) (gid : Nat) (g : Gang), s.gangOf gid = some g →
    let idle := ∀ c ∈ g.coreIds, (s.core c).fire = none ∧ (s.core c).susp = none
    let quiet := idle ∧ ∀ c ∈ g.coreIds, ∀ x ∈ g.actorsAt (s.core c).gx (s.core c).gy, x.2.source = true →
      (s.core c).exhausted[x.2.slot] = true
    let dusk := s.setGang { g with phase := .dusk, dusked := true }
    (g.phase = .resident → g.doom = none → g.census = 0 → quiet →
      (g.img.dusk = none → exec (.dusk gid) s = .next dusk) ∧
      ∀ i a, g.img.dusk = some i → g.img.actors[i]? = some a → exec (.dusk gid) s = .next (dusk.fireDusk g a)) ∧
    (g.census ≠ 0 ∨ ¬ quiet → exec (.dusk gid) s = .next s) ∧
    (g.doom = none → (g.order.isSome = true ∨ g.phase = .resident → .dusk g.gid ∈ g.steps) ∧
      (g.order.isSome = true ∨ g.phase = .dusk → .gangRetire g.gid ∈ g.steps)) ∧
    (g.phase = .dusk → g.doom = none → g.census = 0 → (∀ a ∈ s.flight, a.gang ≠ gid) → idle →
      exec (.gangRetire gid) s = .next (s.endGang g ⟨stOK, 0, 0, 0, 0, 0, 0⟩)) ∧
    (g.census ≠ 0 → exec (.gangRetire gid) s = .next s) ∧
    (∀ d, g.doom = some d → g.phase ≠ .killing → ∃ t, exec (.gangKill gid) s = .next t ∧
      t.gangOf gid = some { g with
        phase := .killing, order := none, insts := [], edges := [], barCount := none, barIn := [], cores := []
        scratch := [], mcmds := [], resends := [], image := [], resvs := [] } ∧
      t.flight = (s.flight.filter fun a => a.gang != gid || s.runsOn a) ∧ t.mem = s.mem ∧
      (g.onQuads = true → ∀ c ∈ g.coreIds, (t.core c).fire = none ∧ (t.core c).susp = none ∧ (t.core c).hold = none ∧
        (t.core c).eng = .replicate 8 EngSlot.empty) ∧
      ∀ q, (∀ p ∈ (t.slice q).parked, p.ofGang gid = false) ∧ ∀ x ∈ (t.slice q).mcmds, x.gang ≠ gid) ∧
    (∀ d, g.doom = some d → g.phase = .killing → exec (.killComplete gid) s =
      .next (if s.flight.any (·.gang == gid) then s else s.endGang g d)) ∧
    (∀ d, (s.endGang g d).gangOf gid = none ∧ (s.endGang g d).comps = s.comps ++
      [⟨s.nextId, Fin.ofNat 4 (g.qx / 8 + 2 * (g.qy / 4)), doneTuple g.launch d g.gid s.tick, g.launch.creg, g.launch.asid, false⟩]) ∧
    (∀ d : Doom, let t := s.setGang { g with doom := some { d with census := g.census, tick := s.tick } }
      (g.doom = none → s.doom gid d = t) ∧
      ∀ e, g.doom = some e →
        let before := d.cause.toNat < e.cause.toNat ∨ (d.cause = e.cause ∧ d.fcore.toNat < e.fcore.toNat)
        (e.tick = s.tick → g.phase ≠ .killing → before → s.doom gid d = t) ∧
        (e.tick ≠ s.tick ∨ g.phase = .killing ∨ ¬ before → s.doom gid d = s)) ∧
    (g.active = true → 0 < g.limit →
      let key := fun (r : WdogRec) => (r.faddr % 256 * 2 ^ 32 + r.fcore) * 8 + r.faddr / 256
      (s.wdogOf g = none → exec (.wdogExpiry gid) s = .next s) ∧
      (∀ r, s.wdogOf g = some r →
        let d : Doom := ⟨stFault, cWDOG, r.fpc, BitVec.ofNat 64 r.faddr, BitVec.ofNat 32 r.fcore, g.census, r.due⟩
        exec (.wdogExpiry gid) s = .next (s.setGang { g with doom := some d })) ∧
      (g.qx + g.launch.w ≤ 16 → g.qy + g.launch.h ≤ 8 → (s.expiries g).Pairwise fun x y => key x < key y) ∧
      (∀ r, s.wdogOf g = some r ↔ ∃ l₁ l₂, s.expiries g = l₁ ++ r :: l₂ ∧ (∀ x ∈ l₁, r.due < x.due) ∧ ∀ x ∈ l₂, r.due ≤ x.due) ∧
      (∀ r ∈ s.expiries g, r.due ≤ s.tick) ∧
      (∀ c ∈ g.coreIds, (s.core c).fire.isSome = true → g.limit ≤ s.tick - (s.core c).issueMark →
        ⟨(s.core c).pc, 1, coreIdVal c, (s.core c).issueMark + g.limit⟩ ∈ s.expiries g) ∧
      (∀ c ∈ g.coreIds, ∀ (i : Fin 8) (t : Nat), (s.core c).readyMark[i] = some t → g.limit ≤ s.tick - t →
        ⟨if (s.core c).fire.isSome then (s.core c).pc else 0, 2 + 256 * i.val, coreIdVal c, t + g.limit⟩ ∈ s.expiries g) ∧
      ((∀ c ∈ g.coreIds, ((s.core c).fire = none ∨ s.tick - (s.core c).issueMark < g.limit) ∧
          ∀ (i : Fin 8) (t : Nat), (s.core c).readyMark[i] = some t → s.tick - t < g.limit) →
        (s.gangBusy g = true ∨ s.tick - g.idleMark < g.limit ∨ ∃ c ∈ g.coreIds, s.tick - (s.core c).lastIssue < g.limit) →
        s.expiries g = []) ∧
      ((∀ c ∈ g.coreIds, (s.core c).fire = none ∧ g.limit ≤ s.tick - (s.core c).lastIssue ∧
          ∀ i : Fin 8, (s.core c).readyMark[i] = none) → s.gangBusy g = false → g.limit ≤ s.tick - g.idleMark →
        ∃ m, (∀ c ∈ g.coreIds, (s.core c).lastIssue ≤ m) ∧ g.idleMark ≤ m ∧
          (m = g.idleMark ∨ ∃ c ∈ g.coreIds, m = (s.core c).lastIssue) ∧ s.wdogOf g = some ⟨0, 3, 0, m + g.limit⟩))) ∧
  (∀ (s : State) (g : Gang), s.gangBusy g = true ↔
    (∃ c ∈ g.coreIds, ∃ i : Fin 8, (s.core c).eng[i].state = .issued ∨ (s.core c).eng[i].state = .running) ∨
    (∃ q, ∃ c r, (s.slice q).mcmds = c :: r ∧ c.gang = g.gid ∧ c.ended = false) ∨
    (∃ q, ∃ p ∈ (s.slice q).parked, p.got = none ∧ p.ofGang g.gid = true) ∨
    ∃ x ∈ s.far, ∃ p ∈ x.sl.parked, p.got = none ∧ p.ofGang g.gid = true) ∧
  (∀ (s : State) (gid : Nat) (g : Gang) (r : WdogRec), s.storeErrs = 0 → s.backErrs = [] → (s.gangs.map (·.gid)).Nodup →
    s.pass.gangOf gid = some g → g.active = true → 0 < g.limit → s.pass.wdogOf g = some r →
    let d : Doom := ⟨stFault, cWDOG, r.fpc, BitVec.ofNat 64 r.faddr, BitVec.ofNat 32 r.fcore, g.census, r.due⟩
    s.advance.gangOf gid = some { g with doom := some d }) ∧
  ∀ (l : Launch) (d : Doom) (gid tick : Nat), d.census < 2 ^ 64 → gid < 2 ^ 32 → tick < 2 ^ 64 →
    let t := doneTuple l d gid tick
    getBits t 0 64 = l.ctag.toNat ∧ getBits t 64 8 = d.status.toNat ∧ getBits t 72 8 = d.cause.toNat ∧
    getBits t 120 8 = l.pri.toNat ∧ getBits t 128 64 = l.cookie.toNat ∧ getBits t 192 64 = d.fpc.toNat ∧
    getBits t 256 64 = d.faddr.toNat ∧ getBits t 320 64 = d.census ∧ getBits t 384 32 = gid ∧
    getBits t 416 32 = d.fcore.toNat ∧ getBits t 448 64 = tick

/-! ### The dispatchers -/

/-- R26, R203, R208 to R218, R239, R367 to R372: a dispatcher takes the head, first from the system region (the settings take
effect then: log entry 52), checks it (log entry 49) and places it at the first free origin in the order of R211, every core at
its reset state; what waits gains a step of priority for each interval; a decision tells exactly the victims that overlap the
room it found to stop, or waits (log entry 55); a gang that has drained, and neither reaches Dusk nor retires, is saved with
every register (log entry 54), and continues where it is restored, with its saved registers, empty caches and the contents of
its ways (kept in the gang: log entry 111), at an origin where no other image takes a way from it (log entry 54); an image moves to
free reserves; an image that cannot be read ends its gang (log entry 88); a save, a move and a restore wait for the credit of the
ports of what they read (R220: log entry 13); a completion is deposited, parked, sent again or dropped. -/
def Obligations.Dispatchers : Prop :=
  (∀ (s : State),
    let w : State := { s with sched := s.schedSet }
    (w.takeShut = true → exec .launchTake s = .next s) ∧
    (∀ t kind pa, s.accepting = true → s.head = none → w.takeShut = false → w.launchHard s.launchRegions = some (t, kind, pa) →
      exec .launchTake s = .next (({ t with sched := s.sched } : State).packageError kind cECCU pa)) ∧
    ((∀ p, s.portOpen p = true) → s.takeShut = false ∧ ∀ x, s.compShut x = false)) ∧
  (∀ (s : State) (b : DawnBoot), s.accepting = true → s.head = none →
    let w : State := { s with sched := s.schedSet }
    w.takeShut = false → w.launchHard s.launchRegions = none → s.boot = some b → b.sysLaunch ≠ b.launch →
    let t := w.lookAt b.sysLaunch.toNat
    let u := t.lookAt b.launch.toNat
    (∀ r x, t.launchIn b.sysLaunch.toNat = some (r, x) →
      exec .launchTake s = .next ((t.removeStored r.pkg r.q x.seq).launchCheck x true)) ∧
    (t.launchIn b.sysLaunch.toNat = none →
      (∀ r x, u.launchIn b.launch.toNat = some (r, x) →
        exec .launchTake s = .next ((u.removeStored r.pkg r.q x.seq).launchCheck x false)) ∧
      (u.launchIn b.launch.toNat = none → exec .launchTake s = .next { u with sched := s.sched }))) ∧
  (∀ (s : State) (x : Stored) (sys : Bool), s.upsets = [] →
    let l := launchOf x.tuple
    (l.inRange = false → s.launchCheck x sys = s.refuse l stBadLaunch 0 0) ∧
    (l.inRange = true → l.sys = true → sys = false → s.launchCheck x sys = s.refuse l stRefused 0 0) ∧
    (l.inRange = true → (l.sys = false ∨ sys = true) →
      (s.loadImage l = .ok none → s.launchCheck x sys = s.refuse l stBadImage 0 0) ∧
      (∀ c va, s.loadImage l = .error (.fault c va) → s.launchCheck x sys = s.refuse l stFault c va) ∧
      ∀ m, s.loadImage l = .ok (some m) →
        s.launchCheck x sys = { s with head := some ⟨x.tuple, l, m, x.since, s.effPri l.pri.toNat x.since, none, false⟩ })) ∧
  (∀ (s : State) (x : Stored) (h : Head) (g : Gang),
    let eff := fun (pri since : Nat) =>
      max pri (min s.sched.cap.toNat (pri + if s.sched.aging = 0 then 0 else (s.tick - since) / s.sched.aging))
    (s.launchRegions.contains x.region = true → getBits x.tuple 0 64 = 1 →
      s.storedPri x = eff (getBits x.tuple 120 8) x.since) ∧
    s.headPri h = eff h.launch.pri.toNat h.since ∧ s.savedPri g = eff g.launch.pri.toNat g.waitFrom) ∧
  (∀ (s : State), (s.head = none → exec .agingStep s = .next s) ∧ ∀ h, s.head = some h →
    (s.headPri h = h.aged → exec .agingStep s = .next s) ∧
    (s.headPri h ≠ h.aged →
      exec .agingStep s = .next { s with head := some { h with aged := s.headPri h, waits := false } })) ∧
  (∀ (s : State) (h : Head), s.head = some h → s.accepting = true → s.quiet = true →
    let w := h.launch.w
    let n := h.launch.h
    (h.rect = none → s.savedFirst h = false →
      (∀ o, findOrigin s.held w n = some o → exec .gangPlacement s = .next (s.place h o)) ∧
      (findOrigin s.held w n = none → exec .gangPlacement s = .next (match s.compaction w n with
        | some (ms, _) => s.orderMoves ms
        | none => s))) ∧
    (∀ o, h.rect = some o → exec .gangPlacement s =
      .next (if s.held.any (·.meets o w n) then s else s.place h o)) ∧
    (s.savedFirst h = true ∨ s.compacting w n = true ∨ s.fits w n = true ∨ (h.waits = true ∧ h.aged = s.headPri h) →
      exec .preemptDecision s = .next s) ∧
    (h.rect = none → s.fits w n = false → s.compacting w n = false → s.savedFirst h = false →
      (h.waits = false ∨ h.aged ≠ s.headPri h) →
      ∀ q, (s.residents.map (·.launch.pri.toNat)).min? = some q →
      let wait := { s with head := some { h with aged := s.headPri h, waits := true } }
      let found := firstRoom s.held w n [] (s.victims (s.headPri h))
      (s.headPri h < q + s.sched.margin.toNat → exec .preemptDecision s = .next wait) ∧
      (q + s.sched.margin.toNat ≤ s.headPri h → found = none → exec .preemptDecision s = .next wait) ∧
      ∀ o took, q + s.sched.margin.toNat ≤ s.headPri h → found = some (o, took) →
        exec .preemptDecision s = .next { (took.filter fun g => g.rect.meets o w n).foldl (fun (t : State) g =>
          t.setGang { g with order := some (.save s.tick) }) s with head := some { h with rect := some o } })) ∧
  (∀ (s : State) (p : Nat),
    (∀ g, g ∈ s.victims p ↔ g ∈ s.gangs ∧ g.onQuads = true ∧ g.active = true ∧
      g.launch.pri.toNat + s.sched.margin.toNat ≤ p ∧ ∀ q ∈ g.slices, ∀ x ∈ s.gangs, q ∉ x.image) ∧
    (s.victims p).Pairwise fun a b => a.launch.pri.toNat < b.launch.pri.toNat ∨
      (a.launch.pri = b.launch.pri ∧ b.placedAt ≤ a.placedAt)) ∧
  (∀ (held : List Rect) (w h : Nat), 1 ≤ w → w ≤ 16 → 1 ≤ h → h ≤ 8 →
    let inDie := fun (o : Nat × Nat) => o.1 / 8 = (o.1 + w - 1) / 8 ∧ o.2 / 4 = (o.2 + h - 1) / 4
    let earlier := fun (o p : Nat × Nat) => (inDie o ∧ ¬ inDie p) ∨ ((inDie o ↔ inDie p) ∧ (o.2 < p.2 ∨ (o.2 = p.2 ∧ o.1 < p.1)))
    (∀ o, findOrigin held w h = some o → o.1 + w ≤ 16 ∧ o.2 + h ≤ 8 ∧ (∀ r ∈ held, r.meets o w h = false) ∧
      ∀ p : Nat × Nat, p.1 + w ≤ 16 → p.2 + h ≤ 8 → earlier p o → ∃ r ∈ held, r.meets p w h = true) ∧
    (findOrigin held w h = none → ∀ o : Nat × Nat, o.1 + w ≤ 16 → o.2 + h ≤ 8 → ∃ r ∈ held, r.meets o w h = true)) ∧
  (∀ (s : State) (h : Head) (o : Nat × Nat),
    let image := s.dispBytes h.launch.asid (h.launch.image.toNat + h.img.lsoff) (upTo h.img.lssize 64 / 64)
    (image = .error .wait → s.place h o = s) ∧
    ∀ c va, s.upsets = [] → image = .error (.fault c va) → s.place h o = s.refuse h.launch stFault c va) ∧
  (∀ (s : State) (h : Head) (o : Nat × Nat) (bytes : List Byte), o.1 + h.launch.w ≤ 16 → o.2 + h.launch.h ≤ 8 → s.upsets = [] →
    s.dispBytes h.launch.asid (h.launch.image.toNat + h.img.lsoff) (upTo h.img.lssize 64 / 64) = .ok bytes →
    let t := s.place h o
    t.gangs = s.gangs ++ [newGang s h o] ∧ t.head = none ∧ t.dieTurn = s.dieTurn + 1 ∧ t.mem = s.mem ∧
    ∀ x y, x < 2 * h.launch.w → y < 2 * h.launch.h →
      { t.core ((newGang s h o).coreAt x y) with readyMark := Core.reset.readyMark } = { Core.reset with
        gang := some s.nextGang, gx := x, gy := y, first0 := true, issueMark := s.tick, lastIssue := s.tick
        ls := memWriteBytes [] 0 (bytes.take h.img.lssize) }) ∧
  (∀ (s : State) (gid : Nat) (g : Gang), s.gangOf gid = some g → g.doom = none → s.upsets = [] →
    let quadsOpen := (∀ c ∈ g.coreIds, s.portOpen (corePort c) = true) ∧ ∀ q ∈ g.slices, s.portOpen (slicePort q) = true
    let imageOpen := ∀ q ∈ g.image, s.portOpen (slicePort q) = true
    (∀ since, g.order = some (.save since) →
      (s.gangDrained g = false ∨ s.duskReady g = true ∨ s.retires g = true ∨ ¬quadsOpen →
        exec (.gangPreempt gid) s = .next s) ∧
      (s.gangDrained g = true → s.duskReady g = false → s.retires g = false → quadsOpen →
        exec (.gangPreempt gid) s = .next (s.save g))) ∧
    (∃ g', (s.save g).gangOf gid = some g' ∧ g'.phase = .saved ∧ g'.onQuads = false ∧ g'.order = none ∧
      g'.census = g.census ∧ g'.insts = g.insts ∧ g'.ways = g.ways ∧ g'.image = g.slices ∧
      g'.resvs = g.slices.map s.resvAt ∧
      g'.scratch = g.slices.map (fun q => (s.slice q).way) ∧ g'.mcmds = g.slices.map (fun q => (s.slice q).mcmds) ∧
      g'.cores = g.coreIds.map fun c => (s.core c).freeze g.stoppedAt g.launch.live) ∧
    (∀ x y since, g.order = some (.move x y since) → g.phase ≠ .saved → ¬quadsOpen → exec (.gangMove gid) s = .next s) ∧
    (∀ x y since t, g.order = some (.move x y since) → s.gangDrained g = true → s.duskReady g = false → s.retires g = false →
      quadsOpen →
      (s.held.filter (·.gid != gid)).any (·.meets (x, y) g.launch.w g.launch.h) = false → (s.save g).gangOf gid = some t →
      exec (.gangMove gid) s = .next ((s.save g).restoreAt t (x, y))) ∧
    (g.phase = .saved → s.accepting = true → s.quiet = true → s.restoreHeld g = false →
      let wake := fun (t : State) => Host.Outcome.next
        ({ t with head := t.head.map fun h => { h with waits := false } } : State)
      (s.held.any (·.meets (g.qx, g.qy) g.launch.w g.launch.h) = false → s.keepsWays g (g.qx, g.qy) = true →
        (imageOpen → exec (.gangRestore gid) s = wake (s.restoreAt g (g.qx, g.qy))) ∧
        (¬imageOpen → exec (.gangRestore gid) s = .next s)) ∧
      (s.held.any (·.meets (g.qx, g.qy) g.launch.w g.launch.h) = true ∨ s.keepsWays g (g.qx, g.qy) = false →
        (∀ o, s.originFor s.held g = some o → (imageOpen → exec (.gangRestore gid) s = wake (s.restoreAt g o)) ∧
          (¬imageOpen → exec (.gangRestore gid) s = .next s)) ∧
        (s.originFor s.held g = none → exec (.gangRestore gid) s =
          .next (match s.compaction g.launch.w g.launch.h with
            | some (ms, _) => s.orderMoves ms
            | none => s)))) ∧
    (g.phase = .saved → ∀ o : Nat × Nat, (s.keepsWays g o = true ↔ ∀ x y r, x < g.launch.w → y < g.launch.h →
        g.resvs[y * g.launch.w + x]? = some r → ∀ i < 16 - r.val, getBits g.ways (2 * i) 2 = 1 ∨ getBits g.ways (2 * i) 2 = 2 →
        i < 16 - (if s.resv.val < 3 ∧ ∃ z ∈ s.gangs, z.gid ≠ gid ∧ sliceAt (o.1 + x) (o.2 + y) ∈ z.image then 3 else s.resv.val)) ∧
      (∀ held p, s.originFor held g = some p → p.1 + g.launch.w ≤ 16 ∧ p.2 + g.launch.h ≤ 8 ∧ s.keepsWays g p = true ∧
        ∀ r ∈ held, r.meets p g.launch.w g.launch.h = false) ∧
      ∀ held, s.originFor held g = none → o.1 + g.launch.w ≤ 16 → o.2 + g.launch.h ≤ 8 → s.keepsWays g o = true →
        ∃ r ∈ held, r.meets o g.launch.w g.launch.h = true) ∧
    (∀ dst, ¬imageOpen → exec (.saveImageMove gid dst) s = .next s) ∧
    (∀ dst, g.phase = .saved → dst.length = g.image.length → distinct dst = true → 3 ≤ s.resv.val → imageOpen →
      (∀ q ∈ dst, ∀ x ∈ s.gangs, q ∉ x.image) → exec (.saveImageMove gid dst) s = .next (s.setGang { g with image := dst })) ∧
    ∀ o : Nat × Nat, o.1 + g.launch.w ≤ 16 → o.2 + g.launch.h ≤ 8 → g.cores.length = 4 * g.launch.w * g.launch.h →
      g.scratch.length = g.launch.w * g.launch.h → g.mcmds.length = g.launch.w * g.launch.h →
      let t := s.restoreAt g o
      (∃ g', t.gangOf gid = some g' ∧ g'.phase = (if g.dusked then .dusk else .resident) ∧ g'.onQuads = true ∧ g'.qx = o.1 ∧
        g'.qy = o.2 ∧ g'.ways = g.ways ∧ g'.census = g.census ∧ g'.insts = g.insts) ∧
      (∀ x y k, x < 2 * g.launch.w → y < 2 * g.launch.h → g.cores[y * (2 * g.launch.w) + x]? = some k →
        t.core (coreAt (2 * o.1 + x) (2 * o.2 + y)) = k.thaw s.tick) ∧
      (∀ x y w, x < g.launch.w → y < g.launch.h → g.scratch[y * g.launch.w + x]? = some w →
        (t.slice (sliceAt (o.1 + x) (o.2 + y))).way = w) ∧
      ∀ x y, x < g.launch.w → y < g.launch.h → (t.slice (sliceAt (o.1 + x) (o.2 + y))).tlb = []) ∧
  (∀ (s : State) (gid : Nat) (g : Gang), s.gangOf gid = some g → g.doom = none → g.phase = .saved →
    (∃ u ∈ s.upsets, u.hard = true ∧ ∃ q w, u.site = .way q w ∧ q ∈ g.image ∧ 13 ≤ w * 8 / 2 ^ 20) →
    (∀ q ∈ g.image, s.portOpen (slicePort q) = true) →
    let read := s.imageRead g
    let lost := Host.Outcome.next (read.doom gid ⟨stFault, cECCU, 0, 0, 0, 0, 0⟩)
    { read with upsets := s.upsets, slices := s.slices } = s ∧
    (∀ u, u ∈ read.upsets ↔ u ∈ s.upsets ∧ (u.hard = true ∨ ∀ q w, u.site = .way q w → q ∈ g.image → w * 8 / 2 ^ 20 < 13)) ∧
    (s.accepting = true → s.quiet = true → s.restoreHeld g = false →
      s.held.any (·.meets (g.qx, g.qy) g.launch.w g.launch.h) = false → s.keepsWays g (g.qx, g.qy) = true →
      exec (.gangRestore gid) s = lost) ∧
    ∀ dst, dst.length = g.image.length → distinct dst = true → 3 ≤ s.resv.val →
      (∀ q ∈ dst, ∀ x ∈ s.gangs, q ∉ x.image) → exec (.saveImageMove gid dst) s = lost) ∧
  (∀ (k : Core) (stop live tick : Nat), live ≤ 524288 →
    let k' := k.freeze stop live
    { k' with
      issueMark := k.issueMark, lastIssue := k.lastIssue, readyMark := k.readyMark, l1 := k.l1, tlb := k.tlb, tlb2 := k.tlb2
      cdesc := k.cdesc, edesc := k.edesc, ls := k.ls } = k.writeInner ∧
    k'.l1 = [] ∧ k'.tlb = [] ∧ k'.tlb2 = [] ∧ k'.cdesc = [] ∧ k'.edesc = [] ∧
    (∀ a < live, memRead k'.ls a = memRead k.ls a) ∧ (∀ a, live ≤ a → a < 524288 → memRead k'.ls a = 0) ∧
    { k.thaw tick with issueMark := k.issueMark, lastIssue := k.lastIssue, readyMark := k.readyMark } = k ∧
    (k.haloPend = [] → k.writeInner = k) ∧
    ∀ p, k.haloPend = [p] →
      k.writeInner = { k.setElems p.dst (shapeOf p.shp).ty.width p.inner with haloPend := [{ p with inner := [] }] }) ∧
  ∀ (s : State) (i : Nat) (x : Completion), s.comps.find? (·.id == i) = some x →
    let gone := fun (t : State) => ({ t with comps := t.comps.filter (·.id != x.id) } : State)
    let sent := match s.compHome x with
      | none => { gone (s.compMeets x) with dropped := s.dropped ++ [compCookie x] }
      | some r =>
        let s := (s.compMeets x).dispKeep x.die r.region r.desc
        match s.offer r x.tuple with
        | some t => gone t
        | none => if (s.home2 r.pkg r.q).tableFree then gone (s.park r.pkg r.q
            ⟨0, r.region, .dep, x.tuple, 0, r.desc, .dispatcher x.id, none, false⟩)
          else { s with comps := s.comps.map fun y => if y.id = x.id then { y with busy := true } else y }
    (s.upsets = [] → s.compMeets x = s) ∧
    (x.busy = false → exec (.completionRetry i) s = .next s) ∧ (x.busy = true → exec (.completionDeposit i) s = .next s) ∧
    (s.compShut x = true → exec (.completionDeposit i) s = .next s ∧ exec (.completionRetry i) s = .next s) ∧
    (s.compShut x = false → (x.busy = false → exec (.completionDeposit i) s = .next sent) ∧
      (x.busy = true → exec (.completionRetry i) s = .next sent))

/-! ### The host and the management plane -/

/-- R214, R219, R220, R236, R237, R288, R291, R366, R374 to R376, R382, R384, R385, R395 to R397: the answers to the host's
requests and the delivery of a tuple to the host (its address: log entry 42), its reads and writes through the aperture (log
entry 53: what the aperture answers with an error, and the system region's address, which is "bad"; log entry 50: an
uncorrectable error there), what waits while the link is down or its port, or what answers, has no credit, the recall of a line
with an uncorrectable error, the errors of a Cloche way whose tuples leave it and of lines that a slice wrote back (log entry
57), the settings of the firmware (log entry 12: a value out of range), the credit of a bucket (log entry 13), the power and
cooling events (log entries 11 and 66: the shutdown, and an internal scan), a fatal package error and its dump (that it, a shutdown
and the errors of a store, a back-channel or a recall leave no gang at once, with accesses still under way: log entry 56), Dawn (log
entry 3), and the accesses of the management bus and the test port. -/
def Obligations.HostAndManagement : Prop :=
  (∀ (h : HostHdr) (b : BitVec 512) (s : State),
    let reply := fun (t : State) (n : Fin 8) => Host.Outcome.next ({ t with hostOut := t.hostOut ++ [.answer h.reqid n] } : State)
    let m := s.hostMeets h.region.toNat
    let may := h.region.toNat % 64 = 0 ∧ s.paOk h.region.toNat = true ∧ (s.boot.any fun x => x.sysLaunch == h.region) = false
    let cached := ∃ d ∈ s.hdescs, d.asid = 0 ∧ d.va = h.region.toNat
    (may → ¬cached → m = s.correctMem 0 h.region.toNat 64) ∧
    (¬may ∨ (cached ∧ ∀ d ∈ s.hdescs, d.data ≠ 0) → m = s) ∧
    (s.hostWaits h b = false → s.hostHard h.region.toNat = false → ∀ r, s.hostHome h b = some r →
      let u := m.hostKeep r.region r.desc
      let v := u.examineAt r (tupTag b)
      let deliver := fun (t : State) (x : Stored) => ({ t with hostOut := t.hostOut ++ [.answer h.reqid 4] } : State).deliverHost
        h.dest.toNat x.tuple h.vector h.reqid
      let parked := fun (t : State) (k : PKind) => if (t.home2 r.pkg r.q).tableFree then reply (t.park r.pkg r.q
          ⟨0, r.region, k, b, h.dest.toNat, r.desc, .host h.vector h.reqid, none, false⟩) 3
        else reply t 2
      (h.op = 1 → exec (.hostDeposit h b) s = match u.offer r b with
        | some t => reply t 0
        | none => reply u 1) ∧
      (h.op = 2 → exec (.hostWaitingDeposit h b) s = match u.offer r b with
        | some t => reply t 0
        | none => parked u .dep) ∧
      let hard := u.matchHard r (tupTag b)
      (h.op = 3 → hard = false → exec (.hostParkedTake h b) s = match v.selectAt r b with
        | some x => .next (deliver (v.removeStored r.pkg r.q x.seq) x)
        | none => parked v .take) ∧
      (h.op = 4 → hard = false → exec (.hostParkedCopy h b) s = match v.selectAt r b with
        | some x => .next (deliver v x)
        | none => parked v .copy) ∧
      (hard = true → (h.op = 3 → exec (.hostParkedTake h b) s =
          .next ((u.matchMeets r (tupTag b)).packageError 2 cECCU 0)) ∧
        (h.op = 4 → exec (.hostParkedCopy h b) s = .next ((u.matchMeets r (tupTag b)).packageError 2 cECCU 0))) ∧
      (h.op = 5 → exec (.hostCancel h b) s =
        match (u.home2 r.pkg r.q).parked.find? (·.hostCancels r.region h.dest.toNat (tupTag b)) with
        | some p => reply (u.unpark r.pkg r.q p.id) 5
        | none => reply u 6)) ∧
    (s.hostWaits h b = false → s.hostHard h.region.toNat = true →
      let lost := Host.Outcome.next (m.packageError 1 cECCU h.region.toNat)
      (h.op = 1 → exec (.hostDeposit h b) s = lost) ∧ (h.op = 2 → exec (.hostWaitingDeposit h b) s = lost) ∧
      (h.op = 3 → exec (.hostParkedTake h b) s = lost) ∧ (h.op = 4 → exec (.hostParkedCopy h b) s = lost) ∧
      (h.op = 5 → exec (.hostCancel h b) s = lost)) ∧
    (s.hostWaits h b = false → s.hostHard h.region.toNat = false → s.hostHome h b = none →
      (h.op = 1 → exec (.hostDeposit h b) s = reply m 7) ∧ (h.op = 2 → exec (.hostWaitingDeposit h b) s = reply m 7) ∧
      (h.op = 3 → exec (.hostParkedTake h b) s = reply m 7) ∧ (h.op = 4 → exec (.hostParkedCopy h b) s = reply m 7) ∧
      (h.op = 5 → exec (.hostCancel h b) s = reply m 7) ∧
      (1 ≤ h.op.toNat → h.op.toNat ≤ 5 → exec (.hostBadRequest h b) s = reply m 7)) ∧
    (h.region.toNat % 64 ≠ 0 ∨ s.paOk h.region.toNat = false ∨
        (s.boot.any fun x => x.sysLaunch == h.region) = true →
      s.hostHome h b = none ∧ s.hostHard h.region.toNat = false) ∧
    ((h.op = 3 ∨ h.op = 4 ∨ h.op = 5) → h.dest.toNat % 64 ≠ 0 → s.hostHome h b = none) ∧
    (s.hostWaits h b = false → (h.op = 0 ∨ 5 < h.op.toNat) → exec (.hostBadRequest h b) s = reply s 7) ∧
    (s.hostWaits h b = true → exec (.hostDeposit h b) s = .next s ∧ exec (.hostWaitingDeposit h b) s = .next s ∧
      exec (.hostParkedTake h b) s = .next s ∧ exec (.hostParkedCopy h b) s = .next s ∧
      exec (.hostCancel h b) s = .next s ∧ exec (.hostBadRequest h b) s = .next s) ∧
    (s.glarikHeld = true → s.hostWaits h b = true) ∧
    (s.glarikUp = true → (∀ p, s.portOpen p = true) → s.hostWaits h b = false) ∧
    (s.glarikHeld = false ↔ s.glarikUp = true ∧ s.portOpen glarikPort = true)) ∧
  (∀ (s : State) (dest : Nat) (x : BitVec 512) (v : BitVec 16) (q : BitVec 32),
    let pa := s.pkg.toNat * 2 ^ 40 + 0x8000000000 + dest % 2 ^ 39
    (∀ i < 64, s.lineKey ((pa + i) / 128) = 0) →
    s.deliverHost dest x v q =
      { s with mem := memWriteN s.mem pa x.toNat 64, hostOut := s.hostOut ++ [.interrupt v q] }) ∧
  (∀ (s : State) (off n : Nat), 0 < n →
    (s.apertureOk off n = true ↔ off + n ≤ 0x1800000000 ∧ ∀ r ∈ s.reservedRanges, off + n ≤ r.1 ∨ r.1 + r.2 ≤ off) ∧
    ∀ x, s.boot = some x → (∀ r ∈ x.reserved, r ∈ s.reservedRanges) ∧ x.bonnet ∈ s.reservedRanges ∧
      ∀ a ∈ x.backing, (a, 4194304) ∈ s.reservedRanges) ∧
  (∀ (s : State) (off n : Nat) (data : List Byte),
    let pa := s.pkg.toNat * 2 ^ 40 + off
    (s.glarikHeld = true ∨ (s.apertureOk off n = true ∧ s.memOpen pa n = false) → exec (.hostMemoryRead off n) s = .next s) ∧
    (s.glarikHeld = true ∨ (s.apertureOk off data.length = true ∧ s.memOpen pa data.length = false) →
      exec (.hostMemoryWrite off data) s = .next s) ∧
    ((∀ p, s.portOpen p = true) → s.memOpen pa n = true)) ∧
  (∀ (s : State) (off n : Nat) (data : List Byte), s.glarikHeld = false →
    let pa := s.pkg.toNat * 2 ^ 40 + off
    let open_ := fun (n : Nat) => s.memOpen pa n = true
    (open_ n → s.apertureOk off n = true → s.upsets = [] → exec (.hostMemoryRead off n) s =
      .next { s with hostOut := s.hostOut ++ [.data ((List.range n).map fun i => s.physByte 0 (pa + i))] }) ∧
    (s.apertureOk off n = false → exec (.hostMemoryRead off n) s = .next { s with hostOut := s.hostOut ++ [.error] }) ∧
    (open_ n → s.apertureOk off n = true → s.hardAt ((wordsOf pa n).map .mem) = true →
      exec (.hostMemoryRead off n) s = .next ((s.correctMem 0 pa n).packageError 1 cECCU pa)) ∧
    (open_ data.length → s.apertureOk off data.length = true → s.hardAt ((wordsOf pa data.length).map .mem) = true →
      exec (.hostMemoryWrite off data) s = .next ((s.correctWrite 0 pa data.length).packageError 1 cECCU pa)) ∧
    (open_ data.length → s.apertureOk off data.length = true → s.upsets = [] →
      (∀ i < data.length, s.lineKey ((pa + i) / 128) = 0) →
      exec (.hostMemoryWrite off data) s =
        .next { s with mem := memWriteBytes s.mem pa data, hostOut := s.hostOut ++ [.ack] }) ∧
    (s.apertureOk off data.length = false →
      exec (.hostMemoryWrite off data) s = .next { s with hostOut := s.hostOut ++ [.error] })) ∧
  (∀ (s : State) (pa : Nat) (data : List Byte), paPkg pa = s.pkg.toNat → paHost pa = true → pa % 128 + data.length ≤ 128 →
    let line := pa / 128 * 128
    (s.portOpen glarikPort = false ∨ s.memOpen line 128 = false → exec (.hostLineRecall pa data) s = .next s) ∧
    (s.portOpen glarikPort = true → s.memOpen line 128 = true → s.lineKey (pa / 128) = 0 →
      (s.upsets = [] → exec (.hostLineRecall pa data) s = .next { s with mem := memWriteBytes s.mem pa data }) ∧
      ∀ e ∈ s.upsets, e.hard = true → e.site ∈ (wordsOf line 128).map .mem → s.flight = [] →
        ∃ t, exec (.hostLineRecall pa data) s = .next t ∧ t.accepting = false ∧ t.gangs = [])) ∧
  (∀ (s : State), 0 < s.storeErrs → s.advance.accepting = false ∧ s.advance.gangs = []) ∧
  (∀ (s : State) (q : SliceId) (w : Nat), (q, w) ∈ s.backErrs → s.flight = [] → s.advance.accepting = false ∧ s.advance.gangs = []) ∧
  (∀ (s : State) (m c : Byte) (n : Nat) (b : Bool),
    (∃ a, exec (.schedSettingsWrite m n c b) s = .next { s with schedSet := ⟨m, a, c, b⟩ } ∧
      (n = 0 ∨ (2 ^ 10 ≤ n ∧ n ≤ 2 ^ 30) → a = n)) ∧
    ∃ a, exec (.wdogLimitWrite n) s = .next { s with wdog := a } ∧ (2 ^ 20 ≤ n ∧ n ≤ 2 ^ 40 → a = n)) ∧
  (∀ (s : State) (p : Nat) (v : Word), ∃ t x, exec (.bucketControlWrite p v) s = .next t ∧ t.bucket p = ⟨p, x, (t.bucket p).credit⟩ ∧
    getBits x 0 16 = max 1 (getBits v 0 16) ∧ getBits x 16 16 = max 1 (getBits v 16 16) ∧ getBits x 33 31 = 0 ∧
    x.getLsbD 32 = v.getLsbD 32 ∧ (v.getLsbD 32 = true → (s.bucket p).word.getLsbD 32 = false →
      (t.bucket p).credit = max 1 (getBits v 0 16) * 256) ∧ t.cores = s.cores ∧ t.mem = s.mem) ∧
  (∀ (b : Bucket) (cycles flits : Nat),
    (b.word.getLsbD 32 = false → b.refill cycles flits = b) ∧
    (b.word.getLsbD 32 = true → ∃ k ≤ flits, ∃ c, b.refill cycles flits = { b with credit := c } ∧
      c + 256 * k = min (getBits b.word 0 16 * 256) (b.credit + getBits b.word 16 16 * cycles))) ∧
  (∀ s : State, ∃ t, exec .thermalThrottle s = .next t ∧ t.cores = s.cores ∧ t.mem = s.mem ∧
    t.buckets.length = s.buckets.length ∧ ∀ b ∈ s.buckets, b.word.getLsbD 32 = true → ∃ b' ∈ t.buckets, b'.port = b.port ∧
      getBits b'.word 16 16 = max 1 (getBits b.word 16 16 / 16) ∧ getBits b'.word 0 16 = getBits b.word 0 16) ∧
  (∀ s : State, (∃ t, exec .thermalShutdown s = .next t ∧ t.powered = false ∧ t.accepting = false ∧ t.gangs = []) ∧
    (s.powered = false → step s = .fault .powerOff)) ∧
  (∀ (s : State) (n : Fin 4) (pa : Nat), ∃ t, exec (.packageFatalError n pa) s = .next t ∧ t.accepting = false ∧
    t.gangs = [] ∧ t.powered = s.powered) ∧
  (∀ (s : State) (n : Nat) (reason : Byte) (x : BitVec 512), n < 2 ^ 32 →
    let h := BitVec.ofNat 512 (s.dumpHeader n reason)
    (s.dumpHeader n reason < 2 ^ 512) ∧ getBits h 0 32 = 0x46554D44 ∧ getBits h 32 32 = (s.dumpSeq + 1) % 2 ^ 32 ∧
    getBits h 64 8 = reason.toNat ∧
    getBits h 72 8 = 0 ∧ getBits h 80 12 = s.pkg.toNat ∧ getBits h 92 4 = 0 ∧ getBits h 96 32 = n ∧
    getBits h 128 64 = s.tick % 2 ^ 64 ∧ getBits h 192 320 = 0 ∧
    getBits (BitVec.ofNat 512 (faultRec x)) 0 8 = 2 ∧
    getBits (BitVec.ofNat 512 (faultRec x)) 8 504 = getBits x 8 504) ∧
  (∀ (s : State) (b : DawnBoot),
    (b.selfCheck = false → exec (.dawn b) s =
      .next { s with accepting := false, hostOut := s.hostOut ++ [.selfCheckFailed] }) ∧
    (b.selfCheck = true → ∃ t, exec (.dawn b) s = .next t ∧ t.dawned = true ∧ t.accepting = true ∧ t.gangs = [] ∧
      t.flight = [] ∧ (∀ c, t.core c = Core.reset) ∧ t.pkg = s.busPkg ∧ t.dawns = s.dawns + 1 ∧ t.resv = b.resv ∧
      t.boot = some b ∧ t.keys.getLsbD 0 = true ∧ t.xts = (if b.fuse then [] else b.keys) ∧
      (b.fuse = false → ∀ x ∈ b.keys, t.keys.getLsbD x.1.val = true) ∧ (b.fuse = true → t.keys = 1))) ∧
  (∀ (s : State) (b : DawnBoot) (k : Fin 128) (pa : Nat),
    let logged := fun (a : BonnetAccess) => Host.Outcome.next ({ s with refusals := s.refusals ++ [a] } : State)
    (s.boot = none → ∀ a, exec (.bonnetAccessRefused a) s = .next s) ∧
    (s.boot = some b →
      exec (.bonnetAccessRefused (.key k)) s = logged (.key k) ∧ exec (.bonnetAccessRefused .root) s = logged .root ∧
      (paPkg pa = s.pkg.toNat ∧ b.bonnet.1 ≤ paOff pa ∧ paOff pa < b.bonnet.1 + b.bonnet.2 →
        exec (.bonnetAccessRefused (.mem pa)) s = .next s) ∧
      (¬(paPkg pa = s.pkg.toNat ∧ b.bonnet.1 ≤ paOff pa ∧ paOff pa < b.bonnet.1 + b.bonnet.2) →
        exec (.bonnetAccessRefused (.mem pa)) s = logged (.mem pa)))) ∧
  ∀ (s : State) (p : BitVec 12) (i : Bool),
    exec (.smbusAccess (.setPackageNumber p)) s = .next { s with busPkg := p } ∧
    exec (.smbusAccess .readTelemetry) s = .next { s with
      hostOut := s.hostOut ++ [.telemetry (s.slices.toList.map (·.errors)).sum s.dropped] } ∧
    exec .gddr7Refresh s = .next s ∧
    ((i = false ∨ s.boot.any (·.fuse) = false) → exec (.boundaryScan i) s = .next s) ∧
    (s.boot.any (·.fuse) = true → exec (.boundaryScan true) s = .refused .internalScan)

/-! ### The fabric -/

/-- R387 to R391, R393: the members of a reduction window (log entry 68: a count of 0); which RED enters a window, with the
current epoch, whatever stands at its home; what a FENCE.rel.sys waits for and counts, and when an epoch closes; the folds at
the package, the leaf, the spine and the home, and the end of an epoch; an uncorrectable error of this package's memory that a
WINDOW_HOME_MERGE meets is a package error, which is the model's choice (log entry 50); the path of a line, around what has
failed where its own has (log entry 59); and what a failed link or switch leaves: the gangs that span it end with LINK, the
accesses on its paths are dropped, the windows whose paths use it are no longer enabled and lose the elements of the epochs
that are not done, and the memory stands. Log entry 59: the partial sums of other packages, which LEAF_FOLD brings, whether
this package's slot equals the home's, the key of the home's write, which accesses stand on a failed path (not one that its L1
served, nor one in its walk; a CFLUSH by its lines), and that those are dropped. -/
def Obligations.FabricSteps : Prop :=
  (∀ (x : Win) (p : BitVec 12), let first := getBits x.mem 0 12
    (∀ m, m ∈ x.members ↔ first ≤ m ∧ m < first + x.memberCount) ∧
    (1 ≤ getBits x.mem 16 12 → x.memberCount = getBits x.mem 16 12) ∧ (getBits x.mem 16 12 = 0 → x.memberCount = 4096) ∧
    (x.member p = true ↔ p.toNat ∈ x.members) ∧ x.members.Pairwise (· < ·)) ∧
  (∀ (s : State) (w : Fin 4) (e : Nat), (w ∈ s.liveWins ↔ s.wins[w].en = true ∧ s.pkg.toNat ∈ s.wins[w].members) ∧
    (s.epochDone (w, e) = true ↔ e < s.wins[w].doneTo)) ∧
  (∀ (s : State) (a : Access) (op pa : Nat) (ty : Ty) (v : Word) (p : Page) (w : Fin 4), a.req = .red op ty v →
    let enters := fun (w : Fin 4) => let x := s.wins[w]
      let base := x.range.toNat / 2 ^ 30 % 2 ^ 10
      w ∈ s.liveWins ∧ paPkg pa = x.cfg.toNat / 2 ^ 16 % 2 ^ 12 ∧ base ≤ pa % 2 ^ 40 / 2 ^ 30 ∧
      pa % 2 ^ 40 / 2 ^ 30 ≤ base + x.range.toNat / 2 ^ 40 % 2 ^ 6 ∧ (match x.cfg.toNat / 2 % 4 with
        | 0 => op = 8 ∧ ty = .f32
        | 1 => op = 0 ∧ (ty = .s64 ∨ ty = .n64)
        | 2 => op = 0 ∧ (ty = .s32 ∨ ty = .n32)
        | _ => False)
    (s.windowFor a (.phys pa p) = some w ↔ enters w ∧ ∀ u, u < w → ¬enters u) ∧
    (s.access a.id = some a → a.phase = .sent (.phys pa p) → a.window = none → s.mayPerform a = true → s.gone a.gang = false →
      s.windowFor a (.phys pa p) = some w →
      let x := s.wins[w]
      let y := { x with elems := x.elems ++ [⟨⟨pa, p.key, v⟩, a.gang, x.epoch⟩] }
      exec (.sliceAccess a.id) s = .next (({ s with wins := s.wins.set w y } : State).setAccess
        { a with window := some (w, x.epoch) }))) ∧
  (∀ (s : State) (a : Access), s.mayEnter a = true ↔ a.window = none ∧ (∃ op ty v, a.req = .red op ty v) ∧
    (a.phase = .new ∨ ∃ pl, a.place = some pl ∧ s.windowFor a pl ≠ none)) ∧
  (∀ (s : State) (w : Fin 4),
    let x := s.wins[w]
    let held := ∃ g ∈ s.gangs, ∃ e ∈ g.resends, e.1 = w ∧ e.2.epoch = x.epoch
    let counted : State := { s with wins := s.wins.set w { x with count := x.count + 1 } }
    (x.count = 0 ∨ x.count < x.parts.toNat ∨ held → s.closeEpoch w = s) ∧
    (x.count ≠ 0 → x.parts.toNat ≤ x.count → ¬held → s.closeEpoch w = { s with
      wins := s.wins.set w { x with count := 0, epoch := x.epoch + 1, closed := x.closed ++ [x.epoch] } }) ∧
    (w ∉ s.liveWins → s.participate.wins[w] = x) ∧
    (w ∈ s.liveWins → s.participate.wins[w] = (counted.closeEpoch w).wins[w]) ∧ { s.participate with wins := s.wins } = s) ∧
  (∀ (s : State) (c : CoreId) (acq : Bool) (l : List (Fin 4 × Nat)), (s.core c).hold = some (.fence acq true 4 l) →
    let k := s.core c
    let mine := fun (f : Access → Prop) => ∃ a ∈ s.flight, a.fire.fid = k.fid ∧ f a
    let awaited := mine fun a => a.req.drains = true ∨
      (acq = true ∧ ((∃ d t ro, a.req = .load d t ro) ∨ ∃ op t v cmp d, a.req = .atom op t v cmp d))
    (l = [] → s.liveWins ≠ [] → (mine (s.mayEnter · = true) → exec (.fenceComplete c) s = .next s) ∧
      (¬mine (s.mayEnter · = true) → exec (.fenceComplete c) s = .next (s.participate.setCore c { k with
        hold := some (.fence acq true 4 (s.liveWins.map fun w => (w, s.wins[w].epoch))) }))) ∧
    (l ≠ [] ∨ s.liveWins = [] → (awaited ∨ (∃ x ∈ l, s.epochDone x = false) → exec (.fenceComplete c) s = .next s) ∧
      (¬awaited → (∀ x ∈ l, s.epochDone x = true) → exec (.fenceComplete c) s = .next (s.setCore c { k with
        hold := none, fpflags := k.fpflags ||| k.heldFlags, heldFlags := 0
        l1 := if acq then k.l1.filter (·.ro) else k.l1 })))) ∧
  (∀ (op : Nat) (l : List Share) (y : Share),
    foldShares op [] = [] ∧
    ((∀ z ∈ foldShares op l, z.addr ≠ y.addr) → foldShares op (l ++ [y]) = foldShares op l ++ [y]) ∧
    ((∃ z ∈ foldShares op l, z.addr = y.addr) → foldShares op (l ++ [y]) = (foldShares op l).map fun z =>
      if z.addr = y.addr then { z with val := mergeVal op z.val y.val } else z)) ∧
  (∀ x y : BitVec 64, mergeVal 1 x y = x + y ∧
    mergeVal 2 x y = BitVec.ofNat 64 ((x.toNat + y.toNat) % 2 ^ 32) ∧
    mergeVal 0 x y = BitVec.ofNat 64 (atomNew .f32 8 (x.toNat % 2 ^ 32) y.toNat 0).1) ∧
  (∀ (s : State) (w : Fin 4),
    let x := s.wins[w]
    let put := fun (t : State) (y : Win) => Host.Outcome.next ({ t with wins := t.wins.set w y } : State)
    (x.closed = [] → exec (.windowPackageFold w) s = .next s) ∧
    (∀ e r, x.closed = e :: r → exec (.windowPackageFold w) s = put s { x with
      closed := r, elems := x.elems.filter (·.epoch != e)
      leaf := x.leaf ++ [⟨e, s.pkg.toNat, foldShares x.op ((x.elems.filter (·.epoch == e)).map (·.share))⟩] }) ∧
    (∀ e leaf others b, x.en = true → leaf = s.pkg.toNat / 64 → s.pkg.toNat ∈ x.members →
      others.map (·.1) = (x.below leaf).filter (· != s.pkg.toNat) → batchOf x.leaf e s.pkg.toNat = some b → x.doneTo ≤ e →
      x.merged.contains e = false → x.home.any (·.epoch == e) = false → batchOf x.spine e leaf = none →
      let folded := fun (own : List Share) => { x with
        leaf := x.leaf.filter (·.epoch != e)
        spine := x.spine ++ [⟨e, leaf, foldShares x.op (leafShares s.pkg.toNat own others (x.below leaf))⟩] }
      exec (.leafFold w e leaf true others) s = put s (folded b.shares) ∧
      exec (.leafFold w e leaf false others) s = put (s.refuseElems w e) (folded []) ∧
      ∀ a, s.flight.filter (fun a => a.window == some (w, e)) = [a] →
        s.refuseElems w e = s.accessFault a ⟨cPROT, none⟩) ∧
    (∀ e leaf others, x.en = true → leaf ≠ s.pkg.toNat / 64 → x.below leaf ≠ [] → others.map (·.1) = x.below leaf →
      x.doneTo ≤ e → x.merged.contains e = false → x.home.any (·.epoch == e) = false → batchOf x.spine e leaf = none →
      exec (.leafFold w e leaf true others) s = put s { x with
        spine := x.spine ++ [⟨e, leaf, foldShares x.op (others.flatMap (·.2))⟩] }) ∧
    (∀ e, let parts := x.leaves.map fun l => batchOf x.spine e l
      parts ≠ [] → (∀ p ∈ parts, p.isSome = true) → exec (.spineFold w e) s = put s { x with
        spine := x.spine.filter (·.epoch != e)
        home := x.home ++ [⟨e, 0, foldShares x.op (parts.flatMap fun b => (b.map (·.shares)).getD [])⟩] }) ∧
    (∀ b r, x.home = b :: r →
      (∀ y ∈ b.shares, paPkg y.addr = s.pkg.toNat → s.hardAt (s.writeSites y.key y.addr 1) = false) → exec (.windowHomeMerge w) s =
      put (b.shares.foldl (fun t y => (t.correctWrite y.key y.addr (x.redOp.2.width / 8)).homeRed x.redOp.1 x.redOp.2 y) s)
        { x with home := r, merged := x.merged ++ [b.epoch] }) ∧
    (∀ key pa n, (s.upsets = [] → s.correctMem key pa n = s ∧ s.correctWrite key pa n = s) ∧
      (∀ u, u ∈ (s.correctMem key pa n).upsets ↔ u ∈ s.upsets ∧ (u.hard = true ∨ u.site ∉ s.readSites key pa n)) ∧
      ∀ u, u ∈ (s.correctWrite key pa n).upsets ↔ u ∈ s.upsets ∧ (u.hard = true ∨ u.site ∉ s.writeSites key pa n)) ∧
    (∀ b r y, x.home = b :: r → b.shares = [y] → paPkg y.addr = s.pkg.toNat → s.hardAt [.mem (y.addr / 8)] = true →
      exec (.windowHomeMerge w) s =
        .next ((s.correctWrite y.key y.addr (x.redOp.2.width / 8)).packageError 1 cECCU y.addr)) ∧
    (x.merged.contains x.doneTo = false → exec (.epochDone w) s = .next s) ∧
    (x.merged.contains x.doneTo = true → exec (.epochDone w) s = put { s with
        flight := s.flight.map fun a => if a.window = some (w, x.doneTo) then { a with phase := .done 0 0 } else a }
      { x with merged := x.merged.filter (· != x.doneTo), doneTo := x.doneTo + 1 })) ∧
  (∀ (s : State) (y : Share) (op : Nat) (ty : Ty), let n := ty.width / 8
    s.homeRed op ty y = s.physWrite y.key y.addr n (atomNew ty op (s.physRead y.key y.addr n) y.val.toNat 0).1) ∧
  (∀ (s : State) (p q a : Nat),
    let own := (bitsN a 10 7 ^^^ bitsN a 14 11, bitsN a 20 15)
    (s.pathDown p q own = false → s.wayOf p q a = own) ∧
    (s.pathDown p q own = true → (∃ w ∈ allWays, s.pathDown p q w = false) →
      s.pathDown p q (s.wayOf p q a) = false ∧ s.wayOf p q a ∈ allWays) ∧
    ∀ w, (s.pathDown p q w = true ↔ (∃ l ∈ s.linksDown, linkUsed l p q w = true) ∨ ∃ x ∈ s.deadSw, switchUsed x p q w = true)) ∧
  (∀ (p q x l y : Nat) (r : Fin 16) (w : Nat × Nat),
    (linkUsed (.port x r) p q w = true ↔ p ≠ q ∧ r.val = w.1 ∧ (x = p ∨ x = q)) ∧
    (linkUsed (.up r l y) p q w = true ↔ p / 64 ≠ q / 64 ∧ r.val = w.1 ∧ y = w.2 ∧ (l = p / 64 ∨ l = q / 64)) ∧
    (switchUsed (.leaf r l) p q w = true ↔ p ≠ q ∧ r.val = w.1 ∧ (l = p / 64 ∨ l = q / 64)) ∧
    (switchUsed (.spine r y) p q w = true ↔ p / 64 ≠ q / 64 ∧ r.val = w.1 ∧ y = w.2)) ∧
  (∀ (s : State) (a : Access) (hit : Nat → Nat → Bool),
    let there := fun (p : Page) (va : Nat) => p.fill = false ∧ hit (paPkg (p.frame + (va - p.base))) (p.frame + (va - p.base)) = true
    let lo := a.va.toNat / 128 * 128
    let done := ∃ x, a.window = some x ∧ s.epochDone x = true
    (done → s.reaches a hit = false) ∧
    (∀ n b, ¬done → a.req = .flush n b → (s.reaches a hit = true ↔ 0 < n ∧ ∃ i p, lo + 128 * i < min (a.va.toNat + n) (2 ^ 56) ∧
      s.pageOf a.core a.asid (lo + 128 * i) = .ok p ∧ there p (lo + 128 * i))) ∧
    (¬done → (∀ n b, a.req ≠ .flush n b) → (a.page = none ∨ a.walking = true ∨ a.atL1 = true → s.reaches a hit = false) ∧
      ∀ p, a.page = some p → a.walking = false → a.atL1 = false →
        (∀ d q dsc, a.req = .cloche d q dsc →
          s.reaches a hit = hit (dscPkg dsc) (p.frame + (a.va.toNat - p.base))) ∧
        ((∀ d q dsc, a.req ≠ .cloche d q dsc) → (s.reaches a hit = true ↔ there p a.va.toNat))) ∧
    s.toHost a = match a.req with
      | .cloche _ _ _ => false
      | _ => s.reaches a fun _ pa => decide (0x8000000000 ≤ pa % 2 ^ 40)) ∧
  (∀ (s : State) (uses : Nat → Nat → Nat × Nat → Bool),
    let t := s.fabricFailure uses
    let cut := fun (a : Access) => s.reaches a (fun q pa => uses s.pkg.toNat q (s.wayOf s.pkg.toNat q pa)) = true
    t.mem = s.mem ∧ t.linksDown = s.linksDown ∧ t.deadSw = s.deadSw ∧
    (∀ a ∈ t.flight, a ∈ s.flight ∧ ¬cut a) ∧
    (∀ a ∈ s.flight, ¬cut a → (∀ x, a.window = some x →
      s.wins[x.1].en = false ∨ s.windowUses uses s.wins[x.1] = false ∨ s.epochDone x = true) → a ∈ t.flight) ∧
    (∀ w : Fin 4, (s.wins[w].en = true → s.windowUses uses s.wins[w] = true →
        t.wins[w].en = false ∧ t.wins[w].elems = [] ∧ ∀ a ∈ t.flight, ∀ e, a.window = some (w, e) → s.epochDone (w, e) = true) ∧
      (s.wins[w].en = false ∨ s.windowUses uses s.wins[w] = false → t.wins[w] = s.wins[w])) ∧
    ∀ g, s.gangOf g.gid = some g → g.doom = none →
      ((∃ a ∈ s.flight, a.gang = g.gid ∧ cut a) ∨ s.parkedOver g.gid uses = true ∨
        (∃ w : Fin 4, s.wins[w].en = true ∧ s.windowUses uses s.wins[w] = true ∧ s.inEpoch g w = true)) →
      ∃ g' d, t.gangOf g.gid = some g' ∧ g'.doom = some d ∧ d.status = stLink ∧ d.cause = 0) ∧
  (∀ (s : State) (l : FabricLink), s.linksDown.contains l = false →
    let t := { s.fabricFailure (linkUsed l) with linksDown := s.linksDown ++ [l] }
    exec (.linkFailure l) s = .next t ∧ exec (.linkRetrain l false) s = .next t ∧ exec (.linkRetrain l true) s = .next s) ∧
  (∀ (s : State) (x : FabricSwitch), s.deadSw.contains x = false →
    exec (.switchFailure x) s = .next { s.fabricFailure (switchUsed x) with deadSw := s.deadSw ++ [x] }) ∧
  ∀ s : State, s.glarikUp = true → ∃ t, exec .glarikFailure s = .next t ∧ t.glarikUp = false ∧ t.mem = s.mem ∧
    (∀ a ∈ t.flight, a ∈ s.flight ∧ s.toHost a = false) ∧ (∀ q, ∀ p ∈ (t.slice q).parked, Park.ofHost p = false) ∧
    ∀ g, s.gangOf g.gid = some g → g.doom = none → (∃ a ∈ s.flight, a.gang = g.gid ∧ s.toHost a = true) →
      ∃ g' d, t.gangOf g.gid = some g' ∧ g'.doom = some d ∧ d.status = stLink ∧ d.cause = 0
end

