-- ==== Sys2Proof/Laws/Issue.lean ====
section
/-!
SUPPORT. Sys2Proof/Laws/Issue.lean: everything that issue can do, case by case.
-/

namespace Sys2Proof.Machine

open Sys2Proof

/-- An instruction that may issue and passes its static checks does what its body says. -/
theorem issue_ready {h : Hdr} {o : Ops} {pre : State → Option (Byte × Word)} {body : State → Act} {s : State}
    (hr : s.ready h o = true) (hp : pre s = none) : issue h o pre body s = .next (s.finish (body s)) := by
  simp only [State.ready, State.clear, Bool.and_eq_true, Bool.not_eq_true'] at hr
  obtain ⟨⟨⟨h1, h2⟩, h3⟩, h4⟩ := hr
  simp [issue, hp, h1, h2, h3, h4]

/-- A drain that is not over makes the instruction wait, whatever its checks. -/
theorem issue_draining {h : Hdr} {o : Ops} {pre : State → Option (Byte × Word)} {body : State → Act} {s : State}
    (hd : s.clear h = false) : issue h o pre body s = .next s := by
  simp only [State.clear, Bool.not_eq_false'] at hd
  simp only [issue, hd, if_true]

/-- Once no drain holds it, a static check that fails takes its trap, whatever the guard. -/
theorem issue_refused {h : Hdr} {o : Ops} {pre : State → Option (Byte × Word)} {body : State → Act} {s : State}
    {c : Byte} {v : Word} (hd : s.clear h = true) (hp : pre s = some (c, v)) :
    issue h o pre body s = .next (s.takeTrap s.cur c v) := by
  simp only [State.clear, Bool.not_eq_true'] at hd
  simp [issue, hd, hp]

/-- Issue answers in one of four ways: a trap of the static checks, a wait, the next word under a false guard, or the
body's act. -/
theorem issue_cases (h : Hdr) (o : Ops) (pre : State → Option (Byte × Word)) (body : State → Act) (s : State) :
    (s.clear h = true ∧ ∃ c v, pre s = some (c, v) ∧ issue h o pre body s = .next (s.takeTrap s.cur c v)) ∨
    ((s.clear h = false ∨ pre s = none) ∧ issue h o pre body s = .next s) ∨
    (pre s = none ∧ s.me.guard h.guard = false ∧ issue h o pre body s = .next (s.issued s.cur s.nextPc)) ∨
    (pre s = none ∧ s.ready h o = true ∧ issue h o pre body s = .next (s.finish (body s))) := by
  by_cases hd : s.clear h = true
  case neg => exact .inr (.inl ⟨.inl (by simpa using hd), issue_draining (by simpa using hd)⟩)
  have h1 := hd
  simp only [State.clear, Bool.not_eq_true'] at h1
  cases hp : pre s with
  | some x => exact .inl ⟨hd, x.1, x.2, rfl, issue_refused hd hp⟩
  | none =>
    simp only [issue, State.ready, hd, hp]
    by_cases h2 : h.guard.preds.any s.regPending = true
    · exact .inr (.inl (by simp [h1, h2]))
    by_cases h3 : s.me.guard h.guard = true
    · by_cases h4 : o.regs.any s.regPending = true
      · exact .inr (.inl (by simp [h1, h2, h3, h4]))
      · exact .inr (.inr (.inr (by simp [h1, h2, h3, h4])))
    · exact .inr (.inr (.inl (by simp [h1, h2, h3])))

/-- An act that goes on leaves the core as it made it, at the next word. -/
theorem finish_put (s : State) (k : Core) : s.finish (.go (s.setMe k)) = s.put k := rfl

/-- A false guard goes on to the next word. -/
theorem issue_guarded {h : Hdr} {o : Ops} {pre : State → Option (Byte × Word)} {body : State → Act} {s : State}
    (hp : pre s = none) (hd : s.clear h = true) (h2 : h.guard.preds.any s.regPending = false)
    (h3 : s.me.guard h.guard = false) : issue h o pre body s = .next (s.issued s.cur s.nextPc) := by
  simp only [State.clear, Bool.not_eq_true'] at hd
  simp [issue, hp, hd, h2, h3]

/-- A pending predicate of the guard, or with a true guard a pending register, makes the instruction wait. -/
theorem issue_waits {h : Hdr} {o : Ops} {pre : State → Option (Byte × Word)} {body : State → Act} {s : State}
    (hp : pre s = none) (hw : h.guard.preds.any s.regPending = true ∨
      (s.me.guard h.guard = true ∧ o.regs.any s.regPending = true)) : issue h o pre body s = .next s := by
  simp only [issue, hp]
  rcases hw with h2 | ⟨h3, h4⟩
  · simp [h2]
  · simp [h3, h4]

end Sys2Proof.Machine
end

