-- ==== Sys2Proof/Laws/Memory.lean ====
section
/-!
SUPPORT. Sys2Proof/Laws/Memory.lean: every operation over memory keeps the canonical form, and what one byte reads as
after a write.
-/

namespace Sys2Proof.Machine

open Sys2Proof

/-! ### The canonical form -/

/-- The canonical form of a list with a first cell: a byte other than zero, below every later address. -/
theorem wf_cons (k : Nat) (b : Byte) (l : List Host.Cell) :
    Memory.wf ((k, b) :: l) = true ↔ b ≠ 0 ∧ (∀ x ∈ l, k < x.1) ∧ Memory.wf l = true := by
  simp only [Memory.wf, List.pairwise_cons, List.all_cons, Bool.and_eq_true, decide_eq_true_eq, bne_iff_ne]
  tauto

/-- The empty memory is in canonical form. -/
@[simp] theorem wf_nil : Memory.wf [] = true := by decide

/-- A cell of a memory after a write is the written one or stood there before. -/
theorem mem_memWrite {l : List Host.Cell} {a : Nat} {b : Byte} {x : Host.Cell} (h : x ∈ memWrite l a b) :
    x.1 = a ∨ x ∈ l := by
  induction l with
  | nil => simp only [memWrite] at h; split at h <;> simp_all
  | cons y l ih =>
    obtain ⟨k, c⟩ := y
    simp only [memWrite] at h
    split at h
    · split at h <;> simp_all; aesop
    · split at h
      · split at h <;> simp_all; aesop
      · simp only [List.mem_cons] at h ⊢
        rcases h with h | h
        · exact .inr (.inl h)
        · rcases ih h with h | h
          · exact .inl h
          · exact .inr (.inr h)

/-- Writing one byte keeps the canonical form. -/
theorem memWrite_wf {l : List Host.Cell} (h : Memory.wf l = true) (a : Nat) (b : Byte) :
    Memory.wf (memWrite l a b) = true := by
  induction l with
  | nil =>
    simp only [memWrite]
    split
    · exact h
    · exact (wf_cons ..).2 ⟨‹_›, by simp, wf_nil⟩
  | cons y l ih =>
    obtain ⟨k, c⟩ := y
    obtain ⟨hc, hk, hl⟩ := (wf_cons k c l).1 h
    simp only [memWrite]
    split
    · rename_i hlt
      split
      · exact h
      · refine (wf_cons ..).2 ⟨‹_›, ?_, h⟩
        rintro x (_ | hx)
        · exact hlt
        · have := hk x ‹_›; omega
    · split
      · rename_i heq
        split
        · exact hl
        · exact (wf_cons ..).2 ⟨‹_›, by simpa [heq] using hk, hl⟩
      · refine (wf_cons ..).2 ⟨hc, ?_, ih hl⟩
        intro x hx
        rcases mem_memWrite hx with h | h
        · omega
        · exact hk x h

/-- Writing a number keeps the canonical form. -/
theorem memWriteN_wf {l : List Host.Cell} (h : Memory.wf l = true) (a x n : Nat) :
    Memory.wf (memWriteN l a x n) = true := by
  induction n generalizing l a x with
  | zero => exact h
  | succ n ih => exact ih (memWrite_wf h ..) ..

/-- Writing a list of bytes keeps the canonical form. -/
theorem memWriteBytes_wf {l : List Host.Cell} (h : Memory.wf l = true) (a : Nat) (bs : List Byte) :
    Memory.wf (memWriteBytes l a bs) = true := by
  induction bs generalizing l a with
  | nil => exact h
  | cons b r ih => exact ih (memWrite_wf h ..) _

/-- Dropping cells keeps the canonical form. -/
theorem filter_wf {l : List Host.Cell} (h : Memory.wf l = true) (f : Host.Cell → Bool) :
    Memory.wf (l.filter f) = true := by
  simp only [Memory.wf, Bool.and_eq_true, decide_eq_true_eq, List.all_eq_true] at h ⊢
  exact ⟨h.1.filter f, fun x hx => h.2 x (List.mem_of_mem_filter hx)⟩

/-- Clearing a range keeps the canonical form. -/
theorem memClear_wf {l : List Host.Cell} (h : Memory.wf l = true) (lo hi : Nat) : Memory.wf (memClear l lo hi) = true :=
  filter_wf h _

/-! ### Reading after writing -/

/-- Below its first address a memory reads as zero. -/
theorem memRead_below {l : List Host.Cell} {a : Nat} (h : ∀ x ∈ l, a < x.1) : memRead l a = 0 := by
  induction l with
  | nil => rfl
  | cons y l ih =>
    have h1 := h y List.mem_cons_self
    simp only [memRead]
    rw [if_neg (by omega)]
    exact ih fun x hx => h x (List.mem_cons_of_mem _ hx)

/-- A byte that was written reads as what was written. -/
theorem memRead_memWrite_same {l : List Host.Cell} (h : Memory.wf l = true) (a : Nat) (b : Byte) :
    memRead (memWrite l a b) a = b := by
  induction l with
  | nil => simp only [memWrite]; split <;> simp_all [memRead]
  | cons y l ih =>
    obtain ⟨k, c⟩ := y
    obtain ⟨-, hk, hl⟩ := (wf_cons k c l).1 h
    simp only [memWrite]
    split
    · rename_i hlt
      split
      · rename_i hb
        rw [hb]
        exact memRead_below (by rintro x (_ | hx); exacts [hlt, by have := hk x ‹_›; omega])
      · simp [memRead]
    · split
      · rename_i heq
        split
        · rename_i hb
          rw [hb]
          exact memRead_below (by simpa [heq] using hk)
        · simp [memRead]
      · simp only [memRead]
        rw [if_neg (by omega)]
        exact ih hl

/-- A write leaves every other byte. -/
theorem memRead_memWrite_other {l : List Host.Cell} {a a' : Nat} (h : a' ≠ a) (b : Byte) :
    memRead (memWrite l a b) a' = memRead l a' := by
  induction l with
  | nil => simp only [memWrite]; split <;> simp_all [memRead, Ne.symm]
  | cons y l ih =>
    obtain ⟨k, c⟩ := y
    simp only [memWrite]
    split
    · split
      · rfl
      · simp [memRead, Ne.symm h]
    · split
      · rename_i heq
        split <;> simp [memRead, heq ▸ Ne.symm h, Ne.symm h]
      · simp only [memRead, ih]

/-! ### Memory under a key slot -/

/-- Filling a line under a key slot changes the memory and the keys of lines alone, and keeps the canonical form. -/
theorem claimLine_form (s : State) (key : Fin 128) (line : Nat) :
    ∃ m k, s.claimLine key line = { s with mem := m, lineKeys := k } ∧ (s.MemInv → Memory.wf m = true) := by
  simp only [State.claimLine]
  split
  · exact ⟨s.mem, s.lineKeys, rfl, id⟩
  · exact ⟨_, _, rfl, fun h => memWriteBytes_wf h ..⟩

/-- Filling the lines of a list, one after another. -/
theorem claimLines_form (l : List Nat) (s : State) (key : Fin 128) (f : Nat → Nat) :
    ∃ m k, l.foldl (fun s i => s.claimLine key (f i)) s = { s with mem := m, lineKeys := k } ∧
      (s.MemInv → Memory.wf m = true) := by
  induction l generalizing s with
  | nil => exact ⟨s.mem, s.lineKeys, rfl, id⟩
  | cons i l ih =>
    obtain ⟨m, k, h, hw⟩ := claimLine_form s key (f i)
    obtain ⟨m', k', h', hw'⟩ := ih (s.claimLine key (f i))
    refine ⟨m', k', by rw [List.foldl_cons, h', h], fun hs => hw' ?_⟩
    rw [h]
    exact hw hs

/-- Filling the lines of a range changes the memory and the keys of lines alone, and keeps the canonical form. -/
theorem claim_form (s : State) (key : Fin 128) (pa n : Nat) :
    ∃ m k, s.claim key pa n = { s with mem := m, lineKeys := k } ∧ (s.MemInv → Memory.wf m = true) := by
  simp only [State.claim]
  split
  · exact ⟨s.mem, s.lineKeys, rfl, id⟩
  · exact claimLines_form ..

/-- A write to physical memory changes the memory and the keys of lines alone, and keeps the canonical form. -/
theorem physWrite_form (s : State) (key : Fin 128) (pa n x : Nat) :
    ∃ m k, s.physWrite key pa n x = { s with mem := m, lineKeys := k } ∧ (s.MemInv → Memory.wf m = true) := by
  obtain ⟨m, k, h, hw⟩ := claim_form s key pa n
  exact ⟨memWriteN m pa x n, k, by simp only [State.physWrite, h], fun hs => memWriteN_wf (hw hs) ..⟩

/-- The bytes that the host writes change the memory and the keys of lines alone, and keep the canonical form. -/
theorem physBytes_form (s : State) (pa : Nat) (l : List Byte) :
    ∃ m k, s.physBytes pa l = { s with mem := m, lineKeys := k } ∧ (s.MemInv → Memory.wf m = true) := by
  obtain ⟨m, k, h, hw⟩ := claim_form s 0 pa l.length
  exact ⟨memWriteBytes m pa l, k, by simp only [State.physBytes, h], fun hs => memWriteBytes_wf (hw hs) ..⟩

/-- A write at a place changes memory, one slice's ways or one core's local store, and keeps the canonical form. -/
theorem writeAt_inv {s : State} (h : s.MemInv) (pl : Place) (n x : Nat) : (s.writeAt pl n x).MemInv := by
  cases pl with
  | phys pa p =>
    obtain ⟨m, k, e, hw⟩ := physWrite_form s p.key pa n x
    simp only [State.writeAt, e]
    exact hw h
  | fill _ _ => exact h
  | scratch _ _ => exact h
  | remote _ _ => exact h

/-- Where every line of a range stands under the key already, filling it changes nothing. -/
theorem claim_same {s : State} {key : Fin 128} {pa n : Nat} (h : ∀ i < n, s.lineKey ((pa + i) / 128) = key) :
    s.claim key pa n = s := by
  have key_line : ∀ l : List Nat, (∀ i ∈ l, s.lineKey (pa / 128 + i) = key) →
      l.foldl (fun s i => s.claimLine key (pa / 128 + i)) s = s := by
    intro l
    induction l with
    | nil => intro; rfl
    | cons i l ih =>
      intro hl
      have h1 : s.claimLine key (pa / 128 + i) = s := by simp [State.claimLine, hl i List.mem_cons_self]
      rw [List.foldl_cons, h1]
      exact ih fun j hj => hl j (List.mem_cons_of_mem _ hj)
  simp only [State.claim]
  split
  · rfl
  · refine key_line _ fun i hi => ?_
    have hi := List.mem_range.1 hi
    have := h (if i = 0 then 0 else 128 * (pa / 128 + i) - pa) (by split <;> omega)
    convert this using 2
    split <;> omega

end Sys2Proof.Machine
end

