-- ==== Sys2Proof/Laws/Keeps.lean ====
section
/-!
SUPPORT. Sys2Proof/Laws/Keeps.lean: the shared operations keep the memory's canonical form, the tick and the number of
steps; one lemma for each operation, and the lemmas that join them.
-/

namespace Sys2Proof.Machine

open Sys2Proof

/-- A change of state that keeps the memory in canonical form and moves neither the tick nor the number of steps. -/
structure State.Keeps (s t : State) : Prop where
  mem   : s.MemInv → t.MemInv
  tick  : t.tick = s.tick
  steps : t.steps = s.steps

namespace State.Keeps

/-- Nothing changes. -/
theorem refl (s : State) : s.Keeps s := ⟨id, rfl, rfl⟩

/-- One change after another. -/
theorem trans {s t u : State} (h : s.Keeps t) (g : t.Keeps u) : s.Keeps u :=
  ⟨fun x => g.mem (h.mem x), g.tick.trans h.tick, g.steps.trans h.steps⟩

/-- A fold of changes. -/
theorem foldl {α : Type} {f : State → α → State} (h : ∀ (s : State) (a : α), s.Keeps (f s a)) (l : List α) (s : State) :
    s.Keeps (l.foldl f s) := by
  induction l generalizing s with
  | nil => exact refl s
  | cons a l ih => exact (h s a).trans (ih _)

end State.Keeps

open State.Keeps

/-! ### Cores, slices and gangs -/

theorem setCore_keeps (s : State) (c : CoreId) (k : Core) : s.Keeps (s.setCore c k) := ⟨id, rfl, rfl⟩
theorem setMe_keeps (s : State) (k : Core) : s.Keeps (s.setMe k) := ⟨id, rfl, rfl⟩
theorem issued_keeps (s : State) (c : CoreId) (pc : Word) : s.Keeps (s.issued c pc) := ⟨id, rfl, rfl⟩
theorem setSlice_keeps (s : State) (q : SliceId) (z : Slice) : s.Keeps (s.setSlice q z) := ⟨id, rfl, rfl⟩
theorem setGang_keeps (s : State) (g : Gang) : s.Keeps (s.setGang g) := ⟨id, rfl, rfl⟩
theorem setWin_keeps (s : State) (w : Fin 4) (x : Win) : s.Keeps (s.setWin w x) := ⟨id, rfl, rfl⟩

/-- The census of a gang moves, and nothing else. -/
theorem raise_form (s : State) (g n : Nat) : ∃ l, s.raise g n = { s with gangs := l } := by
  simp only [State.raise]; split <;> exact ⟨_, rfl⟩
theorem lower_form (s : State) (g n : Nat) : ∃ l, s.lower g n = { s with gangs := l } := by
  simp only [State.lower]; split <;> exact ⟨_, rfl⟩
/-- The mark of a gang's idle count moves, and nothing else. -/
theorem stampIdle_form (s : State) (g : Nat) : ∃ l, s.stampIdle g = { s with gangs := l } := by
  simp only [State.stampIdle]; split <;> exact ⟨_, rfl⟩
/-- The end of a gang is written down, and nothing else. -/
theorem doom_form (s : State) (g : Nat) (d : Doom) : ∃ l, s.doom g d = { s with gangs := l } := by
  simp only [State.doom]; split
  · split
    · split <;> exact ⟨_, rfl⟩
    · exact ⟨_, rfl⟩
  · exact ⟨_, rfl⟩

theorem raise_keeps (s : State) (g n : Nat) : s.Keeps (s.raise g n) := by
  obtain ⟨l, h⟩ := raise_form s g n; rw [h]; exact ⟨id, rfl, rfl⟩
theorem lower_keeps (s : State) (g n : Nat) : s.Keeps (s.lower g n) := by
  obtain ⟨l, h⟩ := lower_form s g n; rw [h]; exact ⟨id, rfl, rfl⟩
theorem stampIdle_keeps (s : State) (g : Nat) : s.Keeps (s.stampIdle g) := by
  obtain ⟨l, h⟩ := stampIdle_form s g; rw [h]; exact ⟨id, rfl, rfl⟩
theorem doom_keeps (s : State) (g : Nat) (d : Doom) : s.Keeps (s.doom g d) := by
  obtain ⟨l, h⟩ := doom_form s g d; rw [h]; exact ⟨id, rfl, rfl⟩
theorem fatal_keeps (s : State) (g : Nat) (cause : Byte) (fpc faddr : Word) (c : CoreId) :
    s.Keeps (s.fatal g cause fpc faddr c) := doom_keeps ..
/-- A trap writes one core, or with it the end of its gang. -/
theorem takeTrap_keeps (s : State) (c : CoreId) (cause : Byte) (v : Word) : s.Keeps (s.takeTrap c cause v) := by
  simp only [State.takeTrap]; split
  · exact setCore_keeps ..
  · split
    · exact ⟨id, rfl, rfl⟩
    · exact (setCore_keeps ..).trans (fatal_keeps ..)

/-- The end of an act whose state keeps. -/
theorem finish_keeps {s : State} {a : Act}
    (h : ∀ t, (a = .go t ∨ (∃ pc, a = .jump t pc) ∨ a = .fin t ∨ (∃ c v, a = .fatal t c v)) → s.Keeps t) : s.Keeps (s.finish a) := by
  cases a with
  | go t => exact (h t (.inl rfl)).trans (issued_keeps ..)
  | jump t pc => exact (h t (.inr (.inl ⟨pc, rfl⟩))).trans (issued_keeps ..)
  | fin t => exact (h t (.inr (.inr (.inl rfl)))).trans (setCore_keeps ..)
  | trap c v => exact takeTrap_keeps ..
  | fatal t c v => exact (h t (.inr (.inr (.inr ⟨c, v, rfl⟩)))).trans (fatal_keeps ..)
  | wait => exact refl s

/-- An instruction whose body keeps: everything that issue can answer keeps. -/
theorem issue_keeps {h : Hdr} {o : Ops} {pre : State → Option (Byte × Word)} {body : State → Act} {s t : State}
    (hb : ∀ u, (body s = .go u ∨ (∃ pc, body s = .jump u pc) ∨ body s = .fin u ∨ (∃ c v, body s = .fatal u c v)) → s.Keeps u)
    (ht : issue h o pre body s = .next t) : s.Keeps t := by
  simp only [issue] at ht
  split at ht
  · cases ht; exact refl s
  · split at ht
    · cases ht; exact takeTrap_keeps ..
    · split at ht
      · cases ht; exact refl s
      · split at ht
        · cases ht; exact issued_keeps ..
        · split at ht
          · cases ht; exact refl s
          · cases ht; exact finish_keeps hb

/-! ### Channels -/

theorem stampCore_keeps (s : State) (c : CoreId) : s.Keeps (s.stampCore c) := by
  simp only [State.stampCore]; split
  · exact refl s
  · exact setCore_keeps ..
theorem stampInst_keeps (s : State) (g : Nat) (r : ChanRef) : s.Keeps (s.stampInst g r) := by
  simp only [State.stampInst]; split
  · exact refl s
  · split
    · exact (stampCore_keeps ..).trans (stampCore_keeps ..)
    · exact stampCore_keeps ..
theorem enqueue_keeps (s : State) (g : Nat) (r : ChanRef) (v : Word) (l : List Nat) : s.Keeps (s.enqueue g r v l) := by
  simp only [State.enqueue]; split
  · exact refl s
  · refine State.Keeps.trans ?_ (stampInst_keeps _ _ _)
    exact ⟨id, rfl, rfl⟩
theorem dequeue_keeps (s : State) (g : Nat) (r : ChanRef) : s.Keeps (s.dequeue g r) := by
  simp only [State.dequeue]; split
  · exact refl s
  · exact (setGang_keeps ..).trans (stampInst_keeps ..)

/-! ### Memory -/

theorem claim_keeps (s : State) (key : Fin 128) (pa n : Nat) : s.Keeps (s.claim key pa n) := by
  obtain ⟨m, k, h, hw⟩ := claim_form s key pa n; rw [h]; exact ⟨hw, rfl, rfl⟩
theorem physWrite_keeps (s : State) (key : Fin 128) (pa n x : Nat) : s.Keeps (s.physWrite key pa n x) := by
  obtain ⟨m, k, h, hw⟩ := physWrite_form s key pa n x; rw [h]; exact ⟨hw, rfl, rfl⟩
theorem physBytes_keeps (s : State) (pa : Nat) (l : List Byte) : s.Keeps (s.physBytes pa l) := by
  obtain ⟨m, k, h, hw⟩ := physBytes_form s pa l; rw [h]; exact ⟨hw, rfl, rfl⟩
theorem writeAt_keeps (s : State) (pl : Place) (n x : Nat) : s.Keeps (s.writeAt pl n x) := by
  cases pl with
  | phys pa p => exact physWrite_keeps ..
  | fill _ _ => exact refl s
  | scratch _ _ => exact setSlice_keeps ..
  | remote _ _ => exact setCore_keeps ..
theorem correctIf_keeps (s : State) (q : Option SliceId) (p : Site → Bool) : s.Keeps (s.correctIf q p) := by
  simp only [State.correctIf]; split
  · exact refl s
  · split <;> exact ⟨id, rfl, rfl⟩
theorem correct_keeps (s : State) (q : Option SliceId) (l : List Site) : s.Keeps (s.correct q l) := correctIf_keeps ..
theorem correctWords_keeps (s : State) (l : List Site) : s.Keeps (s.correctWords l) := by
  simp only [State.correctWords]; split
  · exact refl s
  · exact State.Keeps.foldl (fun _ _ => correct_keeps ..) _ _
theorem correctMem_keeps (s : State) (key : Fin 128) (pa n : Nat) : s.Keeps (s.correctMem key pa n) := correctWords_keeps ..
theorem walked_keeps (s : State) (asid : BitVec 16) (va : Nat) : s.Keeps (s.walked asid va) := by
  simp only [State.walked]; split
  · exact refl s
  · exact State.Keeps.foldl (fun _ _ => correctMem_keeps ..) _ _
theorem walkedBy_keeps (s : State) (c : CoreId) (asid : BitVec 16) (va : Nat) : s.Keeps (s.walkedBy c asid va) := by
  simp only [State.walkedBy]; split
  · exact walked_keeps ..
  · exact (walked_keeps s asid va).trans ⟨id, rfl, rfl⟩
theorem walkedFor_keeps (s : State) (c : CoreId) (asid : BitVec 16) (va : Nat) : s.Keeps (s.walkedFor c asid va) := by
  simp only [State.walkedFor]; split
  · exact refl s
  · exact walkedBy_keeps ..
/-- The end of a gang by what an agent met keeps, where what the agent did up to it keeps. -/
theorem agentFault_keeps {s : State} {x : AgentErr} (h : s.Keeps x.s) (g : Nat) (c : CoreId) (ipc : Word) :
    s.Keeps (s.agentFault g c ipc x) := by
  simp only [State.agentFault]; split
  · exact refl s
  · split
    · exact h.trans (doom_keeps ..)
    · exact h.trans (fatal_keeps ..)
theorem noteNear_keeps (s : State) (pa : Nat) (p : Page) : s.Keeps (s.noteNear pa p) := by
  simp only [State.noteNear]; split
  · exact refl s
  · exact ⟨id, rfl, rfl⟩
theorem breakCount_keeps (s : State) (c : CoreId) (pl : Place) : s.Keeps (s.breakCount c pl) := by
  cases pl with
  | phys pa p =>
    refine State.Keeps.trans ?_ (noteNear_keeps _ _ _)
    exact ⟨id, rfl, rfl⟩
  | fill _ _ => exact refl s
  | scratch _ _ => exact refl s
  | remote _ _ => exact refl s
theorem fillTlb_keeps (s : State) (c : CoreId) (p : Page) : s.Keeps (s.fillTlb c p) := ⟨id, rfl, rfl⟩
theorem countAccess_keeps (s : State) (c : CoreId) (pl : Place) : s.Keeps (s.countAccess c pl) := by
  unfold State.countAccess; split
  · dsimp only
    split
    · exact breakCount_keeps ..
    · split <;> (refine State.Keeps.trans ?_ (noteNear_keeps _ _ _); exact ⟨id, rfl, rfl⟩)
  · exact refl s

/-- The state that an agent's access leaves, whether it is performed or ends. -/
def AgentR.left {α : Type} (f : α → State) : AgentR α → State
  | .ok x => f x
  | .error e => e.s

/-- An agent's translation: the TLBs take the page and single-bit errors are corrected, also where it ends with a fault. -/
theorem agentPlace_keeps (s : State) (g : Gang) (c : CoreId) (u : Use) (va n : Nat) :
    s.Keeps (AgentR.left Prod.fst (s.agentPlace g c u va n)) := by
  simp only [State.agentPlace]
  repeat' split
  all_goals first
    | exact refl s
    | exact correct_keeps ..
    | exact walkedFor_keeps ..
    | exact (((walkedFor_keeps ..).trans (fillTlb_keeps ..)).trans (correct_keeps ..)).trans (breakCount_keeps ..)
theorem agentRead_keeps (s : State) (g : Gang) (c : CoreId) (va n : Nat) :
    s.Keeps (AgentR.left Prod.fst (s.agentRead g c va n)) := by
  have h := agentPlace_keeps s g c .read va n
  simp only [State.agentRead]
  cases hp : s.agentPlace g c .read va n <;> simpa [hp, Except.map, AgentR.left] using h
theorem agentWrite_keeps (s : State) (g : Gang) (c : CoreId) (va n x : Nat) :
    s.Keeps (AgentR.left id (s.agentWrite g c va n x)) := by
  have h := agentPlace_keeps s g c .write va n
  simp only [State.agentWrite]
  cases hp : s.agentPlace g c .write va n
  · simpa [hp, Except.map, AgentR.left] using h
  · simp only [hp, AgentR.left] at h
    simpa [Except.map, AgentR.left] using h.trans (writeAt_keeps ..)

/-! ### Accesses -/

theorem setAccess_keeps (s : State) (a : Access) : s.Keeps (s.setAccess a) := ⟨id, rfl, rfl⟩
theorem dropAccess_keeps (s : State) (id : Nat) : s.Keeps (s.dropAccess id) := ⟨fun h => h, rfl, rfl⟩
theorem accessFault_keeps (s : State) (a : Access) (e : WalkErr) : s.Keeps (s.accessFault a e) := by
  simp only [State.accessFault]; split
  · exact dropAccess_keeps ..
  · exact (dropAccess_keeps ..).trans (doom_keeps ..)
  · exact (dropAccess_keeps ..).trans (fatal_keeps ..)
theorem fillL1_keeps (s : State) (a : Access) (ro : Bool) : s.Keeps (s.fillL1 a ro) := by
  simp only [State.fillL1]; split
  · exact refl s
  · split
    · exact refl s
    · split <;> exact setCore_keeps ..
theorem acquireEnd_keeps (s : State) (a : Access) : s.Keeps (s.acquireEnd a) := by
  simp only [State.acquireEnd]; split
  · exact setCore_keeps ..
  · exact refl s
theorem effect_keeps (s : State) (a : Access) (pl : Place) : s.Keeps (s.effect a pl).1 := by
  simp only [State.effect]; split
  all_goals first | exact writeAt_keeps .. | exact refl s
theorem keepRegion_keeps (s : State) (a : Access) (dsc : BitVec 512) : s.Keeps (s.keepRegion a dsc) := by
  simp only [State.keepRegion]; split
  · exact setCore_keeps ..
  · exact refl s
theorem sendCloche_keeps (s : State) (a : Access) (d : Operand) (q : CReq) (pl : Place) (dsc : BitVec 512) :
    s.Keeps (s.sendCloche a d q pl dsc) := by
  simp only [State.sendCloche]; split
  · exact accessFault_keeps ..
  · exact setAccess_keeps ..
theorem bindDesc_keeps (s : State) (a : Access) (d : Operand) (q : CReq) (held : BitVec 512) (pl : Place) :
    s.Keeps (s.bindDesc a d q held pl) := by
  simp only [State.bindDesc]; split
  · exact sendCloche_keeps ..
  · split
    · exact setAccess_keeps ..
    · split
      · exact (correct_keeps ..).trans (accessFault_keeps ..)
      · exact (((correct_keeps ..).trans (countAccess_keeps ..)).trans (keepRegion_keeps ..)).trans (sendCloche_keeps ..)
theorem arrive_keeps (s : State) (a : Access) (pl : Place) : s.Keeps (s.arrive a pl) := by
  simp only [State.arrive]; split
  · exact bindDesc_keeps ..
  · split <;> exact setAccess_keeps ..
theorem keepPage_keeps (s : State) (a : Access) : s.Keeps (s.keepPage a) := by
  simp only [State.keepPage]; split
  · exact fillTlb_keeps ..
  · exact refl s
theorem walkStep_keeps (s : State) (id : Nat) : s.Keeps (s.walkStep id) := by
  simp only [State.walkStep]; split
  · exact refl s
  · split
    · split
      · exact refl s
      · exact (walkedBy_keeps ..).trans (accessFault_keeps ..)
    · split
      · exact arrive_keeps ..
      · split
        · exact refl s
        · split
          · exact ((walkedBy_keeps ..).trans (keepPage_keeps ..)).trans (arrive_keeps ..)
          · exact (walkedBy_keeps ..).trans (arrive_keeps ..)
    · exact refl s
theorem translate_keeps (s : State) (a : Access) : s.Keeps (s.translate a) := by
  simp only [State.translate]; split
  · split
    · exact accessFault_keeps ..
    · exact setAccess_keeps ..
  · split
    · exact (keepPage_keeps ..).trans (arrive_keeps ..)
    · exact setAccess_keeps ..
theorem pushAccess_keeps (s : State) (a : Access) : s.Keeps (s.pushAccess a) := by
  refine State.Keeps.trans ?_ (translate_keeps _ _)
  exact ⟨id, rfl, rfl⟩

/-! ### Cloche homes -/

theorem setHome2_keeps (s : State) (pkg : Nat) (q : SliceId) (z : Slice) : s.Keeps (s.setHome2 pkg q z) := by
  simp only [State.setHome2]; split <;> exact ⟨id, rfl, rfl⟩
theorem park_keeps (s : State) (pkg : Nat) (q : SliceId) (p : Park) : s.Keeps (s.park pkg q p) := by
  refine State.Keeps.trans ?_ (setHome2_keeps _ _ _ _)
  exact ⟨id, rfl, rfl⟩
theorem unpark_keeps (s : State) (pkg : Nat) (q : SliceId) (id : Nat) : s.Keeps (s.unpark pkg q id) := setHome2_keeps ..
theorem upsets_keeps (s : State) (l : List Upset) : s.Keeps { s with upsets := l } := ⟨id, rfl, rfl⟩
theorem spill_keeps (s : State) (q : SliceId) (l : List (Fin 262144)) : s.Keeps (s.spill q l) := by
  simp only [State.spill]; split
  · exact refl s
  · exact (correct_keeps ..).trans ⟨id, rfl, rfl⟩
theorem settleAt_keeps (s : State) (pkg : Nat) (q : SliceId) (z : Slice) : s.Keeps (s.settleAt pkg q z) := by
  simp only [State.settleAt]
  refine State.Keeps.trans ?_ (State.Keeps.foldl stampIdle_keeps _ _)
  split
  · exact setHome2_keeps ..
  · exact ((setSlice_keeps ..).trans (spill_keeps ..)).trans ((upsets_keeps ..).trans (setSlice_keeps ..))
theorem examineAt_keeps (s : State) (r : HomeReq) (tag : Nat) : s.Keeps (s.examineAt r tag) :=
  (correct_keeps ..).trans (settleAt_keeps ..)
theorem offer_keeps {s t : State} {r : HomeReq} {x : BitVec 512} (h : s.offer r x = some t) : s.Keeps t := by
  simp only [State.offer, Option.map_eq_some_iff] at h
  obtain ⟨z, -, rfl⟩ := h
  exact settleAt_keeps ..
theorem lowerAsker_keeps (s : State) (a : Asker) : s.Keeps (s.lowerAsker a) := by
  cases a with
  | core _ _ _ _ _ => exact (lower_keeps ..).trans (stampIdle_keeps ..)
  | host _ _ => exact refl s
  | dispatcher _ => exact refl s
theorem removeStored_keeps (s : State) (pkg : Nat) (q : SliceId) (seq : Nat) :
    s.Keeps (s.removeStored pkg q seq) :=
  (settleAt_keeps ..).trans (State.Keeps.foldl lowerAsker_keeps _ _)

end Sys2Proof.Machine
end

