-- ==== Sys2Proof/Laws/PerInstr.lean ====
section
/-!
SUPPORT. Sys2Proof/Laws/PerInstr.lean: for every instruction, that the decoder's table builds it from the opcode, the
header and the operands that the encoder takes it apart into: the two tables name the same row.
-/

namespace Sys2Proof.Laws

open Sys2Proof

namespace Opcode

/-- The decoder builds the instruction from its own parts. -/
def Statement (i : Instr) : Prop := ∀ n h o, i.parts = some (n, h, o) → build h o n = some i

/-- A row that is no instruction of a program has no parts. -/
theorem of_step {i : Instr} (h : i.parts = none) : Statement i := by
  intro n g o e
  rw [h] at e
  cases e

/-- A row of the table with its opcode. -/
theorem of_row {i : Instr} {n : Nat} {h : Hdr} {o : Ops} (hp : i.parts = some (n, h, o)) (hb : build h o n = some i) :
    Statement i := by
  intro n' h' o' e
  rw [hp] at e
  cases e
  exact hb

theorem nop (h : Hdr) (o : Ops) : Statement (.nop h o) := of_row rfl rfl
theorem br (h : Hdr) (o : Ops) : Statement (.br h o) := of_row rfl rfl
theorem jmp (h : Hdr) (o : Ops) : Statement (.jmp h o) := of_row rfl rfl
theorem call (h : Hdr) (o : Ops) : Statement (.call h o) := of_row rfl rfl
theorem ret (h : Hdr) (o : Ops) : Statement (.ret h o) := of_row rfl rfl
theorem loop (h : Hdr) (o : Ops) : Statement (.loop h o) := of_row rfl rfl
theorem fin (h : Hdr) (o : Ops) : Statement (.fin h o) := of_row rfl rfl
theorem brk (h : Hdr) (o : Ops) : Statement (.brk h o) := of_row rfl rfl
theorem eret (h : Hdr) (o : Ops) : Statement (.eret h o) := of_row rfl rfl
theorem kill (h : Hdr) (o : Ops) : Statement (.kill h o) := of_row rfl rfl
theorem add (h : Hdr) (o : Ops) : Statement (.add h o) := of_row rfl rfl
theorem sub (h : Hdr) (o : Ops) : Statement (.sub h o) := of_row rfl rfl
theorem mul (h : Hdr) (o : Ops) : Statement (.mul h o) := of_row rfl rfl
theorem mulh (h : Hdr) (o : Ops) : Statement (.mulh h o) := of_row rfl rfl
theorem div (h : Hdr) (o : Ops) : Statement (.div h o) := of_row rfl rfl
theorem rem (h : Hdr) (o : Ops) : Statement (.rem h o) := of_row rfl rfl
theorem min (h : Hdr) (o : Ops) : Statement (.min h o) := of_row rfl rfl
theorem max (h : Hdr) (o : Ops) : Statement (.max h o) := of_row rfl rfl
theorem and (h : Hdr) (o : Ops) : Statement (.and h o) := of_row rfl rfl
theorem or (h : Hdr) (o : Ops) : Statement (.or h o) := of_row rfl rfl
theorem xor (h : Hdr) (o : Ops) : Statement (.xor h o) := of_row rfl rfl
theorem andn (h : Hdr) (o : Ops) : Statement (.andn h o) := of_row rfl rfl
theorem shl (h : Hdr) (o : Ops) : Statement (.shl h o) := of_row rfl rfl
theorem shr (h : Hdr) (o : Ops) : Statement (.shr h o) := of_row rfl rfl
theorem sra (h : Hdr) (o : Ops) : Statement (.sra h o) := of_row rfl rfl
theorem rot (h : Hdr) (o : Ops) : Statement (.rot h o) := of_row rfl rfl
theorem bfx (h : Hdr) (o : Ops) : Statement (.bfx h o) := of_row rfl rfl
theorem bfi (h : Hdr) (o : Ops) : Statement (.bfi h o) := of_row rfl rfl
theorem clz (h : Hdr) (o : Ops) : Statement (.clz h o) := of_row rfl rfl
theorem ctz (h : Hdr) (o : Ops) : Statement (.ctz h o) := of_row rfl rfl
theorem popc (h : Hdr) (o : Ops) : Statement (.popc h o) := of_row rfl rfl
theorem cmp (h : Hdr) (o : Ops) : Statement (.cmp h o) := of_row rfl rfl
theorem sel (h : Hdr) (o : Ops) : Statement (.sel h o) := of_row rfl rfl
theorem movhi (h : Hdr) (o : Ops) : Statement (.movhi h o) := of_row rfl rfl
theorem fadd (h : Hdr) (o : Ops) : Statement (.fadd h o) := of_row rfl rfl
theorem fsub (h : Hdr) (o : Ops) : Statement (.fsub h o) := of_row rfl rfl
theorem fmul (h : Hdr) (o : Ops) : Statement (.fmul h o) := of_row rfl rfl
theorem fdiv (h : Hdr) (o : Ops) : Statement (.fdiv h o) := of_row rfl rfl
theorem fsqrt (h : Hdr) (o : Ops) : Statement (.fsqrt h o) := of_row rfl rfl
theorem fma (h : Hdr) (o : Ops) : Statement (.fma h o) := of_row rfl rfl
theorem fmin (h : Hdr) (o : Ops) : Statement (.fmin h o) := of_row rfl rfl
theorem fmax (h : Hdr) (o : Ops) : Statement (.fmax h o) := of_row rfl rfl
theorem fabs (h : Hdr) (o : Ops) : Statement (.fabs h o) := of_row rfl rfl
theorem fneg (h : Hdr) (o : Ops) : Statement (.fneg h o) := of_row rfl rfl
theorem fcmp (h : Hdr) (o : Ops) : Statement (.fcmp h o) := of_row rfl rfl
theorem fcvt (h : Hdr) (o : Ops) : Statement (.fcvt h o) := of_row rfl rfl
theorem fcvti (h : Hdr) (o : Ops) : Statement (.fcvti h o) := of_row rfl rfl
theorem icvtf (h : Hdr) (o : Ops) : Statement (.icvtf h o) := of_row rfl rfl
theorem fclass (h : Hdr) (o : Ops) : Statement (.fclass h o) := of_row rfl rfl
theorem pand (h : Hdr) (o : Ops) : Statement (.pand h o) := of_row rfl rfl
theorem por (h : Hdr) (o : Ops) : Statement (.por h o) := of_row rfl rfl
theorem pxor (h : Hdr) (o : Ops) : Statement (.pxor h o) := of_row rfl rfl
theorem pandn (h : Hdr) (o : Ops) : Statement (.pandn h o) := of_row rfl rfl
theorem pnot (h : Hdr) (o : Ops) : Statement (.pnot h o) := of_row rfl rfl
theorem pset (h : Hdr) (o : Ops) : Statement (.pset h o) := of_row rfl rfl
theorem pget (h : Hdr) (o : Ops) : Statement (.pget h o) := of_row rfl rfl
theorem mfc (h : Hdr) (o : Ops) : Statement (.mfc h o) := of_row rfl rfl
theorem mtc (h : Hdr) (o : Ops) : Statement (.mtc h o) := of_row rfl rfl
theorem ldl (h : Hdr) (o : Ops) : Statement (.ldl h o) := of_row rfl rfl
theorem stl (h : Hdr) (o : Ops) : Statement (.stl h o) := of_row rfl rfl
theorem vld (h : Hdr) (o : Ops) : Statement (.vld h o) := of_row rfl rfl
theorem vst (h : Hdr) (o : Ops) : Statement (.vst h o) := of_row rfl rfl
theorem vldm (h : Hdr) (o : Ops) : Statement (.vldm h o) := of_row rfl rfl
theorem vstm (h : Hdr) (o : Ops) : Statement (.vstm h o) := of_row rfl rfl
theorem vadd (h : Hdr) (o : Ops) : Statement (.vadd h o) := of_row rfl rfl
theorem vsub (h : Hdr) (o : Ops) : Statement (.vsub h o) := of_row rfl rfl
theorem vmul (h : Hdr) (o : Ops) : Statement (.vmul h o) := of_row rfl rfl
theorem vdiv (h : Hdr) (o : Ops) : Statement (.vdiv h o) := of_row rfl rfl
theorem vfma (h : Hdr) (o : Ops) : Statement (.vfma h o) := of_row rfl rfl
theorem vmin (h : Hdr) (o : Ops) : Statement (.vmin h o) := of_row rfl rfl
theorem vmax (h : Hdr) (o : Ops) : Statement (.vmax h o) := of_row rfl rfl
theorem vabs (h : Hdr) (o : Ops) : Statement (.vabs h o) := of_row rfl rfl
theorem vneg (h : Hdr) (o : Ops) : Statement (.vneg h o) := of_row rfl rfl
theorem vsqrt (h : Hdr) (o : Ops) : Statement (.vsqrt h o) := of_row rfl rfl
theorem vrcp (h : Hdr) (o : Ops) : Statement (.vrcp h o) := of_row rfl rfl
theorem vrsq (h : Hdr) (o : Ops) : Statement (.vrsq h o) := of_row rfl rfl
theorem vexp2 (h : Hdr) (o : Ops) : Statement (.vexp2 h o) := of_row rfl rfl
theorem vlog2 (h : Hdr) (o : Ops) : Statement (.vlog2 h o) := of_row rfl rfl
theorem vtanh (h : Hdr) (o : Ops) : Statement (.vtanh h o) := of_row rfl rfl
theorem vfcmp (h : Hdr) (o : Ops) : Statement (.vfcmp h o) := of_row rfl rfl
theorem vclamp (h : Hdr) (o : Ops) : Statement (.vclamp h o) := of_row rfl rfl
theorem viadd (h : Hdr) (o : Ops) : Statement (.viadd h o) := of_row rfl rfl
theorem visub (h : Hdr) (o : Ops) : Statement (.visub h o) := of_row rfl rfl
theorem vimul (h : Hdr) (o : Ops) : Statement (.vimul h o) := of_row rfl rfl
theorem vimulh (h : Hdr) (o : Ops) : Statement (.vimulh h o) := of_row rfl rfl
theorem vimin (h : Hdr) (o : Ops) : Statement (.vimin h o) := of_row rfl rfl
theorem vimax (h : Hdr) (o : Ops) : Statement (.vimax h o) := of_row rfl rfl
theorem viabs (h : Hdr) (o : Ops) : Statement (.viabs h o) := of_row rfl rfl
theorem vshl (h : Hdr) (o : Ops) : Statement (.vshl h o) := of_row rfl rfl
theorem vshr (h : Hdr) (o : Ops) : Statement (.vshr h o) := of_row rfl rfl
theorem vand (h : Hdr) (o : Ops) : Statement (.vand h o) := of_row rfl rfl
theorem vor (h : Hdr) (o : Ops) : Statement (.vor h o) := of_row rfl rfl
theorem vxor (h : Hdr) (o : Ops) : Statement (.vxor h o) := of_row rfl rfl
theorem vandn (h : Hdr) (o : Ops) : Statement (.vandn h o) := of_row rfl rfl
theorem vlut4 (h : Hdr) (o : Ops) : Statement (.vlut4 h o) := of_row rfl rfl
theorem vicmp (h : Hdr) (o : Ops) : Statement (.vicmp h o) := of_row rfl rfl
theorem vsel (h : Hdr) (o : Ops) : Statement (.vsel h o) := of_row rfl rfl
theorem vbcast (h : Hdr) (o : Ops) : Statement (.vbcast h o) := of_row rfl rfl
theorem vmov (h : Hdr) (o : Ops) : Statement (.vmov h o) := of_row rfl rfl
theorem viota (h : Hdr) (o : Ops) : Statement (.viota h o) := of_row rfl rfl
theorem vpopc (h : Hdr) (o : Ops) : Statement (.vpopc h o) := of_row rfl rfl
theorem vcvt (h : Hdr) (o : Ops) : Statement (.vcvt h o) := of_row rfl rfl
theorem vquant (h : Hdr) (o : Ops) : Statement (.vquant h o) := of_row rfl rfl
theorem vdequant (h : Hdr) (o : Ops) : Statement (.vdequant h o) := of_row rfl rfl
theorem vreds (h : Hdr) (o : Ops) : Statement (.vreds h o) := of_row rfl rfl
theorem vredr (h : Hdr) (o : Ops) : Statement (.vredr h o) := of_row rfl rfl
theorem vscan (h : Hdr) (o : Ops) : Statement (.vscan h o) := of_row rfl rfl
theorem vsortk (h : Hdr) (o : Ops) : Statement (.vsortk h o) := of_row rfl rfl
theorem vsegred (h : Hdr) (o : Ops) : Statement (.vsegred h o) := of_row rfl rfl
theorem vargx (h : Hdr) (o : Ops) : Statement (.vargx h o) := of_row rfl rfl
theorem vshift (h : Hdr) (o : Ops) : Statement (.vshift h o) := of_row rfl rfl
theorem mand (h : Hdr) (o : Ops) : Statement (.mand h o) := of_row rfl rfl
theorem mor (h : Hdr) (o : Ops) : Statement (.mor h o) := of_row rfl rfl
theorem mxor (h : Hdr) (o : Ops) : Statement (.mxor h o) := of_row rfl rfl
theorem mandn (h : Hdr) (o : Ops) : Statement (.mandn h o) := of_row rfl rfl
theorem mnot (h : Hdr) (o : Ops) : Statement (.mnot h o) := of_row rfl rfl
theorem mmov (h : Hdr) (o : Ops) : Statement (.mmov h o) := of_row rfl rfl
theorem mpop (h : Hdr) (o : Ops) : Statement (.mpop h o) := of_row rfl rfl
theorem many (h : Hdr) (o : Ops) : Statement (.many h o) := of_row rfl rfl
theorem mrule (h : Hdr) (o : Ops) : Statement (.mrule h o) := of_row rfl rfl
theorem medge (h : Hdr) (o : Ops) : Statement (.medge h o) := of_row rfl rfl
theorem actrd (h : Hdr) (o : Ops) : Statement (.actrd h o) := of_row rfl rfl
theorem actwr (h : Hdr) (o : Ops) : Statement (.actwr h o) := of_row rfl rfl
theorem mshift (h : Hdr) (o : Ops) : Statement (.mshift h o) := of_row rfl rfl
theorem mzero (h : Hdr) (o : Ops) : Statement (.mzero h o) := of_row rfl rfl
theorem mma (h : Hdr) (o : Ops) : Statement (.mma h o) := of_row rfl rfl
theorem mmas (h : Hdr) (o : Ops) : Statement (.mmas h o) := of_row rfl rfl
theorem accrd (h : Hdr) (o : Ops) : Statement (.accrd h o) := of_row rfl rfl
theorem accwr (h : Hdr) (o : Ops) : Statement (.accwr h o) := of_row rfl rfl
theorem send (h : Hdr) (o : Ops) : Statement (.send h o) := of_row rfl rfl
theorem recv (h : Hdr) (o : Ops) : Statement (.recv h o) := of_row rfl rfl
theorem peek (h : Hdr) (o : Ops) : Statement (.peek h o) := of_row rfl rfl
theorem steer (h : Hdr) (o : Ops) : Statement (.steer h o) := of_row rfl rfl
theorem merge (h : Hdr) (o : Ops) : Statement (.merge h o) := of_row rfl rfl
theorem rld (h : Hdr) (o : Ops) : Statement (.rld h o) := of_row rfl rfl
theorem rst (h : Hdr) (o : Ops) : Statement (.rst h o) := of_row rfl rfl
theorem ratom (h : Hdr) (o : Ops) : Statement (.ratom h o) := of_row rfl rfl
theorem barg (h : Hdr) (o : Ops) : Statement (.barg h o) := of_row rfl rfl
theorem ld (h : Hdr) (o : Ops) : Statement (.ld h o) := of_row rfl rfl
theorem st (h : Hdr) (o : Ops) : Statement (.st h o) := of_row rfl rfl
theorem ldro (h : Hdr) (o : Ops) : Statement (.ldro h o) := of_row rfl rfl
theorem atom (h : Hdr) (o : Ops) : Statement (.atom h o) := of_row rfl rfl
theorem red (h : Hdr) (o : Ops) : Statement (.red h o) := of_row rfl rfl
theorem redv (h : Hdr) (o : Ops) : Statement (.redv h o) := of_row rfl rfl
theorem pref (h : Hdr) (o : Ops) : Statement (.pref h o) := of_row rfl rfl
theorem cinv (h : Hdr) (o : Ops) : Statement (.cinv h o) := of_row rfl rfl
theorem cflush (h : Hdr) (o : Ops) : Statement (.cflush h o) := of_row rfl rfl
theorem dscinv (h : Hdr) (o : Ops) : Statement (.dscinv h o) := of_row rfl rfl
theorem fence (h : Hdr) (o : Ops) : Statement (.fence h o) := of_row rfl rfl
theorem afence (h : Hdr) (o : Ops) : Statement (.afence h o) := of_row rfl rfl
theorem dep (h : Hdr) (o : Ops) : Statement (.dep h o) := of_row rfl rfl
theorem depw (h : Hdr) (o : Ops) : Statement (.depw h o) := of_row rfl rfl
theorem take (h : Hdr) (o : Ops) : Statement (.take h o) := of_row rfl rfl
theorem takep (h : Hdr) (o : Ops) : Statement (.takep h o) := of_row rfl rfl
theorem cpy (h : Hdr) (o : Ops) : Statement (.cpy h o) := of_row rfl rfl
theorem cpyp (h : Hdr) (o : Ops) : Statement (.cpyp h o) := of_row rfl rfl
theorem pcancel (h : Hdr) (o : Ops) : Statement (.pcancel h o) := of_row rfl rfl
theorem clcount (h : Hdr) (o : Ops) : Statement (.clcount h o) := of_row rfl rfl
theorem mxpose (h : Hdr) (o : Ops) : Statement (.mxpose h o) := of_row rfl rfl
theorem mxout (h : Hdr) (o : Ops) : Statement (.mxout h o) := of_row rfl rfl
theorem mseq (h : Hdr) (o : Ops) : Statement (.mseq h o) := of_row rfl rfl
theorem own (h : Hdr) (o : Ops) : Statement (.own h o) := of_row rfl rfl
theorem copy (h : Hdr) (o : Ops) : Statement (.copy h o) := of_row rfl rfl
theorem gather (h : Hdr) (o : Ops) : Statement (.gather h o) := of_row rfl rfl
theorem iwalk (h : Hdr) (o : Ops) : Statement (.iwalk h o) := of_row rfl rfl
theorem rast (h : Hdr) (o : Ops) : Statement (.rast h o) := of_row rfl rfl
theorem resolve (h : Hdr) (o : Ops) : Statement (.resolve h o) := of_row rfl rfl
theorem rmarch (h : Hdr) (o : Ops) : Statement (.rmarch h o) := of_row rfl rfl
theorem rclear (h : Hdr) (o : Ops) : Statement (.rclear h o) := of_row rfl rfl
theorem tlbi (h : Hdr) (o : Ops) : Statement (.tlbi h o) := of_row rfl rfl
theorem shapeRegisterWrite (n : Fin 32) (v : Word) : Statement (.shapeRegisterWrite n v) := of_step rfl
theorem fpmodeWrite (v : Word) : Statement (.fpmodeWrite v) := of_step rfl
theorem fpflagsWrite (v : Word) : Statement (.fpflagsWrite v) := of_step rfl
theorem fpflagsRead (d : Operand) : Statement (.fpflagsRead d) := of_step rfl
theorem lfsrWrite (v : Word) : Statement (.lfsrWrite v) := of_step rfl
theorem waysWrite (c : CoreId) : Statement (.waysWrite c) := of_step rfl
theorem ptrootWrite (v : Word) : Statement (.ptrootWrite v) := of_step rfl
theorem walkctlWrite (v : Word) : Statement (.walkctlWrite v) := of_step rfl
theorem wcfgWrite (c : CoreId) : Statement (.wcfgWrite c) := of_step rfl
theorem ctlregWrite (n : BitVec 12) (v : Word) : Statement (.ctlregWrite n v) := of_step rfl
theorem schedSettingsWrite (margin : Byte) (aging : Nat) (cap : Byte) (compaction : Bool) : Statement (.schedSettingsWrite margin aging cap compaction) := of_step rfl
theorem bucketControlWrite (port : Nat) (v : Word) : Statement (.bucketControlWrite port v) := of_step rfl
theorem wdogLimitWrite (limit : Nat) : Statement (.wdogLimitWrite limit) := of_step rfl
theorem firingSelect (c : CoreId) : Statement (.firingSelect c) := of_step rfl
theorem trapActorStart (c : CoreId) : Statement (.trapActorStart c) := of_step rfl
theorem engineFaultDelivery (c : CoreId) (slot : Fin 8) : Statement (.engineFaultDelivery c slot) := of_step rfl
theorem loadReturn (id : Nat) : Statement (.loadReturn id) := of_step rfl
theorem writeAck (id : Nat) : Statement (.writeAck id) := of_step rfl
theorem tokenVisible (id : Nat) : Statement (.tokenVisible id) := of_step rfl
theorem haloEdgeArrival (c : CoreId) (dir : Fin 8) : Statement (.haloEdgeArrival c dir) := of_step rfl
theorem remoteLsAccess (id : Nat) : Statement (.remoteLsAccess id) := of_step rfl
theorem sliceAccess (id : Nat) : Statement (.sliceAccess id) := of_step rfl
theorem pageWalk (id : Nat) : Statement (.pageWalk id) := of_step rfl
theorem superblockMigration (sb : Nat) (dst : SliceId) : Statement (.superblockMigration sb dst) := of_step rfl
theorem sliceScrub (q : SliceId) : Statement (.sliceScrub q) := of_step rfl
theorem mittenScrub (q : SliceId) : Statement (.mittenScrub q) := of_step rfl
theorem clocheDepositArrival (id : Nat) : Statement (.clocheDepositArrival id) := of_step rfl
theorem clocheMatchArrival (id : Nat) : Statement (.clocheMatchArrival id) := of_step rfl
theorem clocheCancelArrival (id : Nat) : Statement (.clocheCancelArrival id) := of_step rfl
theorem clocheCountArrival (id : Nat) : Statement (.clocheCountArrival id) := of_step rfl
theorem clocheDelivery (id : Nat) : Statement (.clocheDelivery id) := of_step rfl
theorem hostDeposit (h : HostHdr) (body : BitVec 512) : Statement (.hostDeposit h body) := of_step rfl
theorem hostWaitingDeposit (h : HostHdr) (body : BitVec 512) : Statement (.hostWaitingDeposit h body) := of_step rfl
theorem hostParkedTake (h : HostHdr) (body : BitVec 512) : Statement (.hostParkedTake h body) := of_step rfl
theorem hostParkedCopy (h : HostHdr) (body : BitVec 512) : Statement (.hostParkedCopy h body) := of_step rfl
theorem hostCancel (h : HostHdr) (body : BitVec 512) : Statement (.hostCancel h body) := of_step rfl
theorem hostBadRequest (h : HostHdr) (body : BitVec 512) : Statement (.hostBadRequest h body) := of_step rfl
theorem hostMemoryRead (off n : Nat) : Statement (.hostMemoryRead off n) := of_step rfl
theorem hostMemoryWrite (off : Nat) (data : List Byte) : Statement (.hostMemoryWrite off data) := of_step rfl
theorem hostLineRecall (pa : Nat) (data : List Byte) : Statement (.hostLineRecall pa data) := of_step rfl
theorem launchTake : Statement .launchTake := of_step rfl
theorem gangPlacement : Statement .gangPlacement := of_step rfl
theorem gangMove (g : Nat) : Statement (.gangMove g) := of_step rfl
theorem preemptDecision : Statement .preemptDecision := of_step rfl
theorem gangPreempt (g : Nat) : Statement (.gangPreempt g) := of_step rfl
theorem saveImageMove (g : Nat) (dst : List SliceId) : Statement (.saveImageMove g dst) := of_step rfl
theorem gangRestore (g : Nat) : Statement (.gangRestore g) := of_step rfl
theorem agingStep : Statement .agingStep := of_step rfl
theorem completionDeposit (i : Nat) : Statement (.completionDeposit i) := of_step rfl
theorem completionRetry (i : Nat) : Statement (.completionRetry i) := of_step rfl
theorem dusk (g : Nat) : Statement (.dusk g) := of_step rfl
theorem gangRetire (g : Nat) : Statement (.gangRetire g) := of_step rfl
theorem gangKill (g : Nat) : Statement (.gangKill g) := of_step rfl
theorem killComplete (g : Nat) : Statement (.killComplete g) := of_step rfl
theorem wdogExpiry (g : Nat) : Statement (.wdogExpiry g) := of_step rfl
theorem commandAccept (c : CoreId) (slot : Fin 8) : Statement (.commandAccept c slot) := of_step rfl
theorem renderSlotAccept (c : CoreId) (slot : Fin 8) : Statement (.renderSlotAccept c slot) := of_step rfl
theorem engineBurst (c : CoreId) (slot : Fin 8) (n : Nat) : Statement (.engineBurst c slot n) := of_step rfl
theorem commandComplete (c : CoreId) (slot : Fin 8) : Statement (.commandComplete c slot) := of_step rfl
theorem completionTokenSend (c : CoreId) (slot : Fin 8) : Statement (.completionTokenSend c slot) := of_step rfl
theorem binWork (c : CoreId) (slot : Fin 8) (bin : Nat) : Statement (.binWork c slot bin) := of_step rfl
theorem rayMarch (c : CoreId) (slot : Fin 8) : Statement (.rayMarch c slot) := of_step rfl
theorem mittenCommandStart (q : SliceId) : Statement (.mittenCommandStart q) := of_step rfl
theorem mittenCommandComplete (q : SliceId) : Statement (.mittenCommandComplete q) := of_step rfl
theorem tlbiAck (c : CoreId) : Statement (.tlbiAck c) := of_step rfl
theorem fenceComplete (c : CoreId) : Statement (.fenceComplete c) := of_step rfl
theorem dscinvAck (c : CoreId) : Statement (.dscinvAck c) := of_step rfl
theorem windowPackageFold (w : Fin 4) : Statement (.windowPackageFold w) := of_step rfl
theorem leafFold (w : Fin 4) (epoch leaf : Nat) (same : Bool) (others : List (Nat × List Share)) : Statement (.leafFold w epoch leaf same others) := of_step rfl
theorem spineFold (w : Fin 4) (epoch : Nat) : Statement (.spineFold w epoch) := of_step rfl
theorem windowHomeMerge (w : Fin 4) : Statement (.windowHomeMerge w) := of_step rfl
theorem epochDone (w : Fin 4) : Statement (.epochDone w) := of_step rfl
theorem linkFailure (l : FabricLink) : Statement (.linkFailure l) := of_step rfl
theorem switchFailure (x : FabricSwitch) : Statement (.switchFailure x) := of_step rfl
theorem glarikFailure : Statement .glarikFailure := of_step rfl
theorem thermalThrottle : Statement .thermalThrottle := of_step rfl
theorem thermalShutdown : Statement .thermalShutdown := of_step rfl
theorem packageFatalError (reason : Fin 4) (pa : Nat) : Statement (.packageFatalError reason pa) := of_step rfl
theorem bonnetAccessRefused (a : BonnetAccess) : Statement (.bonnetAccessRefused a) := of_step rfl
theorem dawn (b : DawnBoot) : Statement (.dawn b) := of_step rfl
theorem smbusAccess (a : SmbusOp) : Statement (.smbusAccess a) := of_step rfl
theorem linkRetrain (l : FabricLink) (within : Bool) : Statement (.linkRetrain l within) := of_step rfl
theorem gddr7Refresh : Statement .gddr7Refresh := of_step rfl
theorem boundaryScan (internal : Bool) : Statement (.boundaryScan internal) := of_step rfl

end Opcode

end Sys2Proof.Laws
end

