-- ==== Sys2Proof/Laws/State.lean ====
section
/-!
SUPPORT. Sys2Proof/Laws/State.lean: what each update of the state leaves of each field, one lemma for a field and an
update; and what a core reads after its own update.
-/

namespace Sys2Proof.Machine

open Sys2Proof

/-! ### State.setCore -/

@[simp] theorem State.setCore_slices (s : State) (c : CoreId) (k : Core) : (s.setCore c k).slices = s.slices := rfl
@[simp] theorem State.setCore_far (s : State) (c : CoreId) (k : Core) : (s.setCore c k).far = s.far := rfl
@[simp] theorem State.setCore_mem (s : State) (c : CoreId) (k : Core) : (s.setCore c k).mem = s.mem := rfl
@[simp] theorem State.setCore_upsets (s : State) (c : CoreId) (k : Core) : (s.setCore c k).upsets = s.upsets := rfl
@[simp] theorem State.setCore_lineKeys (s : State) (c : CoreId) (k : Core) : (s.setCore c k).lineKeys = s.lineKeys := rfl
@[simp] theorem State.setCore_moved (s : State) (c : CoreId) (k : Core) : (s.setCore c k).moved = s.moved := rfl
@[simp] theorem State.setCore_near (s : State) (c : CoreId) (k : Core) : (s.setCore c k).near = s.near := rfl
@[simp] theorem State.setCore_movCount (s : State) (c : CoreId) (k : Core) : (s.setCore c k).movCount = s.movCount := rfl
@[simp] theorem State.setCore_gangs (s : State) (c : CoreId) (k : Core) : (s.setCore c k).gangs = s.gangs := rfl
@[simp] theorem State.setCore_flight (s : State) (c : CoreId) (k : Core) : (s.setCore c k).flight = s.flight := rfl
@[simp] theorem State.setCore_nextId (s : State) (c : CoreId) (k : Core) : (s.setCore c k).nextId = s.nextId := rfl
@[simp] theorem State.setCore_nextGang (s : State) (c : CoreId) (k : Core) : (s.setCore c k).nextGang = s.nextGang := rfl
@[simp] theorem State.setCore_tick (s : State) (c : CoreId) (k : Core) : (s.setCore c k).tick = s.tick := rfl
@[simp] theorem State.setCore_steps (s : State) (c : CoreId) (k : Core) : (s.setCore c k).steps = s.steps := rfl
@[simp] theorem State.setCore_cur (s : State) (c : CoreId) (k : Core) : (s.setCore c k).cur = s.cur := rfl
@[simp] theorem State.setCore_agenda (s : State) (c : CoreId) (k : Core) : (s.setCore c k).agenda = s.agenda := rfl
@[simp] theorem State.setCore_powered (s : State) (c : CoreId) (k : Core) : (s.setCore c k).powered = s.powered := rfl
@[simp] theorem State.setCore_dawned (s : State) (c : CoreId) (k : Core) : (s.setCore c k).dawned = s.dawned := rfl
@[simp] theorem State.setCore_accepting (s : State) (c : CoreId) (k : Core) : (s.setCore c k).accepting = s.accepting := rfl
@[simp] theorem State.setCore_boot (s : State) (c : CoreId) (k : Core) : (s.setCore c k).boot = s.boot := rfl
@[simp] theorem State.setCore_pkg (s : State) (c : CoreId) (k : Core) : (s.setCore c k).pkg = s.pkg := rfl
@[simp] theorem State.setCore_dawns (s : State) (c : CoreId) (k : Core) : (s.setCore c k).dawns = s.dawns := rfl
@[simp] theorem State.setCore_resv (s : State) (c : CoreId) (k : Core) : (s.setCore c k).resv = s.resv := rfl
@[simp] theorem State.setCore_ptroot (s : State) (c : CoreId) (k : Core) : (s.setCore c k).ptroot = s.ptroot := rfl
@[simp] theorem State.setCore_walkctl (s : State) (c : CoreId) (k : Core) : (s.setCore c k).walkctl = s.walkctl := rfl
@[simp] theorem State.setCore_keys (s : State) (c : CoreId) (k : Core) : (s.setCore c k).keys = s.keys := rfl
@[simp] theorem State.setCore_xts (s : State) (c : CoreId) (k : Core) : (s.setCore c k).xts = s.xts := rfl
@[simp] theorem State.setCore_dieTurn (s : State) (c : CoreId) (k : Core) : (s.setCore c k).dieTurn = s.dieTurn := rfl
@[simp] theorem State.setCore_head (s : State) (c : CoreId) (k : Core) : (s.setCore c k).head = s.head := rfl
@[simp] theorem State.setCore_schedSet (s : State) (c : CoreId) (k : Core) : (s.setCore c k).schedSet = s.schedSet := rfl
@[simp] theorem State.setCore_sched (s : State) (c : CoreId) (k : Core) : (s.setCore c k).sched = s.sched := rfl
@[simp] theorem State.setCore_wdog (s : State) (c : CoreId) (k : Core) : (s.setCore c k).wdog = s.wdog := rfl
@[simp] theorem State.setCore_comps (s : State) (c : CoreId) (k : Core) : (s.setCore c k).comps = s.comps := rfl
@[simp] theorem State.setCore_dropped (s : State) (c : CoreId) (k : Core) : (s.setCore c k).dropped = s.dropped := rfl
@[simp] theorem State.setCore_wins (s : State) (c : CoreId) (k : Core) : (s.setCore c k).wins = s.wins := rfl
@[simp] theorem State.setCore_buckets (s : State) (c : CoreId) (k : Core) : (s.setCore c k).buckets = s.buckets := rfl
@[simp] theorem State.setCore_hostOut (s : State) (c : CoreId) (k : Core) : (s.setCore c k).hostOut = s.hostOut := rfl
@[simp] theorem State.setCore_linksDown (s : State) (c : CoreId) (k : Core) : (s.setCore c k).linksDown = s.linksDown := rfl
@[simp] theorem State.setCore_deadSw (s : State) (c : CoreId) (k : Core) : (s.setCore c k).deadSw = s.deadSw := rfl
@[simp] theorem State.setCore_glarikUp (s : State) (c : CoreId) (k : Core) : (s.setCore c k).glarikUp = s.glarikUp := rfl
@[simp] theorem State.setCore_dumpSeq (s : State) (c : CoreId) (k : Core) : (s.setCore c k).dumpSeq = s.dumpSeq := rfl
@[simp] theorem State.setCore_refusals (s : State) (c : CoreId) (k : Core) : (s.setCore c k).refusals = s.refusals := rfl
@[simp] theorem State.setCore_busPkg (s : State) (c : CoreId) (k : Core) : (s.setCore c k).busPkg = s.busPkg := rfl
@[simp] theorem State.setCore_rslots (s : State) (c : CoreId) (k : Core) : (s.setCore c k).rslots = s.rslots := rfl
@[simp] theorem State.setCore_rdescs (s : State) (c : CoreId) (k : Core) : (s.setCore c k).rdescs = s.rdescs := rfl
@[simp] theorem State.setCore_ddescs (s : State) (c : CoreId) (k : Core) : (s.setCore c k).ddescs = s.ddescs := rfl
@[simp] theorem State.setCore_hdescs (s : State) (c : CoreId) (k : Core) : (s.setCore c k).hdescs = s.hdescs := rfl
@[simp] theorem State.setCore_storeErrs (s : State) (c : CoreId) (k : Core) : (s.setCore c k).storeErrs = s.storeErrs := rfl
@[simp] theorem State.setCore_backErrs (s : State) (c : CoreId) (k : Core) : (s.setCore c k).backErrs = s.backErrs := rfl

/-! ### State.setMe -/

@[simp] theorem State.setMe_slices (s : State) (k : Core) : (s.setMe k).slices = s.slices := rfl
@[simp] theorem State.setMe_far (s : State) (k : Core) : (s.setMe k).far = s.far := rfl
@[simp] theorem State.setMe_mem (s : State) (k : Core) : (s.setMe k).mem = s.mem := rfl
@[simp] theorem State.setMe_upsets (s : State) (k : Core) : (s.setMe k).upsets = s.upsets := rfl
@[simp] theorem State.setMe_lineKeys (s : State) (k : Core) : (s.setMe k).lineKeys = s.lineKeys := rfl
@[simp] theorem State.setMe_moved (s : State) (k : Core) : (s.setMe k).moved = s.moved := rfl
@[simp] theorem State.setMe_near (s : State) (k : Core) : (s.setMe k).near = s.near := rfl
@[simp] theorem State.setMe_movCount (s : State) (k : Core) : (s.setMe k).movCount = s.movCount := rfl
@[simp] theorem State.setMe_gangs (s : State) (k : Core) : (s.setMe k).gangs = s.gangs := rfl
@[simp] theorem State.setMe_flight (s : State) (k : Core) : (s.setMe k).flight = s.flight := rfl
@[simp] theorem State.setMe_nextId (s : State) (k : Core) : (s.setMe k).nextId = s.nextId := rfl
@[simp] theorem State.setMe_nextGang (s : State) (k : Core) : (s.setMe k).nextGang = s.nextGang := rfl
@[simp] theorem State.setMe_tick (s : State) (k : Core) : (s.setMe k).tick = s.tick := rfl
@[simp] theorem State.setMe_steps (s : State) (k : Core) : (s.setMe k).steps = s.steps := rfl
@[simp] theorem State.setMe_cur (s : State) (k : Core) : (s.setMe k).cur = s.cur := rfl
@[simp] theorem State.setMe_agenda (s : State) (k : Core) : (s.setMe k).agenda = s.agenda := rfl
@[simp] theorem State.setMe_powered (s : State) (k : Core) : (s.setMe k).powered = s.powered := rfl
@[simp] theorem State.setMe_dawned (s : State) (k : Core) : (s.setMe k).dawned = s.dawned := rfl
@[simp] theorem State.setMe_accepting (s : State) (k : Core) : (s.setMe k).accepting = s.accepting := rfl
@[simp] theorem State.setMe_boot (s : State) (k : Core) : (s.setMe k).boot = s.boot := rfl
@[simp] theorem State.setMe_pkg (s : State) (k : Core) : (s.setMe k).pkg = s.pkg := rfl
@[simp] theorem State.setMe_dawns (s : State) (k : Core) : (s.setMe k).dawns = s.dawns := rfl
@[simp] theorem State.setMe_resv (s : State) (k : Core) : (s.setMe k).resv = s.resv := rfl
@[simp] theorem State.setMe_ptroot (s : State) (k : Core) : (s.setMe k).ptroot = s.ptroot := rfl
@[simp] theorem State.setMe_walkctl (s : State) (k : Core) : (s.setMe k).walkctl = s.walkctl := rfl
@[simp] theorem State.setMe_keys (s : State) (k : Core) : (s.setMe k).keys = s.keys := rfl
@[simp] theorem State.setMe_xts (s : State) (k : Core) : (s.setMe k).xts = s.xts := rfl
@[simp] theorem State.setMe_dieTurn (s : State) (k : Core) : (s.setMe k).dieTurn = s.dieTurn := rfl
@[simp] theorem State.setMe_head (s : State) (k : Core) : (s.setMe k).head = s.head := rfl
@[simp] theorem State.setMe_schedSet (s : State) (k : Core) : (s.setMe k).schedSet = s.schedSet := rfl
@[simp] theorem State.setMe_sched (s : State) (k : Core) : (s.setMe k).sched = s.sched := rfl
@[simp] theorem State.setMe_wdog (s : State) (k : Core) : (s.setMe k).wdog = s.wdog := rfl
@[simp] theorem State.setMe_comps (s : State) (k : Core) : (s.setMe k).comps = s.comps := rfl
@[simp] theorem State.setMe_dropped (s : State) (k : Core) : (s.setMe k).dropped = s.dropped := rfl
@[simp] theorem State.setMe_wins (s : State) (k : Core) : (s.setMe k).wins = s.wins := rfl
@[simp] theorem State.setMe_buckets (s : State) (k : Core) : (s.setMe k).buckets = s.buckets := rfl
@[simp] theorem State.setMe_hostOut (s : State) (k : Core) : (s.setMe k).hostOut = s.hostOut := rfl
@[simp] theorem State.setMe_linksDown (s : State) (k : Core) : (s.setMe k).linksDown = s.linksDown := rfl
@[simp] theorem State.setMe_deadSw (s : State) (k : Core) : (s.setMe k).deadSw = s.deadSw := rfl
@[simp] theorem State.setMe_glarikUp (s : State) (k : Core) : (s.setMe k).glarikUp = s.glarikUp := rfl
@[simp] theorem State.setMe_dumpSeq (s : State) (k : Core) : (s.setMe k).dumpSeq = s.dumpSeq := rfl
@[simp] theorem State.setMe_refusals (s : State) (k : Core) : (s.setMe k).refusals = s.refusals := rfl
@[simp] theorem State.setMe_busPkg (s : State) (k : Core) : (s.setMe k).busPkg = s.busPkg := rfl
@[simp] theorem State.setMe_rslots (s : State) (k : Core) : (s.setMe k).rslots = s.rslots := rfl
@[simp] theorem State.setMe_rdescs (s : State) (k : Core) : (s.setMe k).rdescs = s.rdescs := rfl
@[simp] theorem State.setMe_ddescs (s : State) (k : Core) : (s.setMe k).ddescs = s.ddescs := rfl
@[simp] theorem State.setMe_hdescs (s : State) (k : Core) : (s.setMe k).hdescs = s.hdescs := rfl
@[simp] theorem State.setMe_storeErrs (s : State) (k : Core) : (s.setMe k).storeErrs = s.storeErrs := rfl
@[simp] theorem State.setMe_backErrs (s : State) (k : Core) : (s.setMe k).backErrs = s.backErrs := rfl

/-! ### State.issued -/

@[simp] theorem State.issued_slices (s : State) (c : CoreId) (pc : Word) : (s.issued c pc).slices = s.slices := rfl
@[simp] theorem State.issued_far (s : State) (c : CoreId) (pc : Word) : (s.issued c pc).far = s.far := rfl
@[simp] theorem State.issued_mem (s : State) (c : CoreId) (pc : Word) : (s.issued c pc).mem = s.mem := rfl
@[simp] theorem State.issued_upsets (s : State) (c : CoreId) (pc : Word) : (s.issued c pc).upsets = s.upsets := rfl
@[simp] theorem State.issued_lineKeys (s : State) (c : CoreId) (pc : Word) : (s.issued c pc).lineKeys = s.lineKeys := rfl
@[simp] theorem State.issued_moved (s : State) (c : CoreId) (pc : Word) : (s.issued c pc).moved = s.moved := rfl
@[simp] theorem State.issued_near (s : State) (c : CoreId) (pc : Word) : (s.issued c pc).near = s.near := rfl
@[simp] theorem State.issued_movCount (s : State) (c : CoreId) (pc : Word) : (s.issued c pc).movCount = s.movCount := rfl
@[simp] theorem State.issued_gangs (s : State) (c : CoreId) (pc : Word) : (s.issued c pc).gangs = s.gangs := rfl
@[simp] theorem State.issued_flight (s : State) (c : CoreId) (pc : Word) : (s.issued c pc).flight = s.flight := rfl
@[simp] theorem State.issued_nextId (s : State) (c : CoreId) (pc : Word) : (s.issued c pc).nextId = s.nextId := rfl
@[simp] theorem State.issued_nextGang (s : State) (c : CoreId) (pc : Word) : (s.issued c pc).nextGang = s.nextGang := rfl
@[simp] theorem State.issued_tick (s : State) (c : CoreId) (pc : Word) : (s.issued c pc).tick = s.tick := rfl
@[simp] theorem State.issued_steps (s : State) (c : CoreId) (pc : Word) : (s.issued c pc).steps = s.steps := rfl
@[simp] theorem State.issued_cur (s : State) (c : CoreId) (pc : Word) : (s.issued c pc).cur = s.cur := rfl
@[simp] theorem State.issued_agenda (s : State) (c : CoreId) (pc : Word) : (s.issued c pc).agenda = s.agenda := rfl
@[simp] theorem State.issued_powered (s : State) (c : CoreId) (pc : Word) : (s.issued c pc).powered = s.powered := rfl
@[simp] theorem State.issued_dawned (s : State) (c : CoreId) (pc : Word) : (s.issued c pc).dawned = s.dawned := rfl
@[simp] theorem State.issued_accepting (s : State) (c : CoreId) (pc : Word) : (s.issued c pc).accepting = s.accepting := rfl
@[simp] theorem State.issued_boot (s : State) (c : CoreId) (pc : Word) : (s.issued c pc).boot = s.boot := rfl
@[simp] theorem State.issued_pkg (s : State) (c : CoreId) (pc : Word) : (s.issued c pc).pkg = s.pkg := rfl
@[simp] theorem State.issued_dawns (s : State) (c : CoreId) (pc : Word) : (s.issued c pc).dawns = s.dawns := rfl
@[simp] theorem State.issued_resv (s : State) (c : CoreId) (pc : Word) : (s.issued c pc).resv = s.resv := rfl
@[simp] theorem State.issued_ptroot (s : State) (c : CoreId) (pc : Word) : (s.issued c pc).ptroot = s.ptroot := rfl
@[simp] theorem State.issued_walkctl (s : State) (c : CoreId) (pc : Word) : (s.issued c pc).walkctl = s.walkctl := rfl
@[simp] theorem State.issued_keys (s : State) (c : CoreId) (pc : Word) : (s.issued c pc).keys = s.keys := rfl
@[simp] theorem State.issued_xts (s : State) (c : CoreId) (pc : Word) : (s.issued c pc).xts = s.xts := rfl
@[simp] theorem State.issued_dieTurn (s : State) (c : CoreId) (pc : Word) : (s.issued c pc).dieTurn = s.dieTurn := rfl
@[simp] theorem State.issued_head (s : State) (c : CoreId) (pc : Word) : (s.issued c pc).head = s.head := rfl
@[simp] theorem State.issued_schedSet (s : State) (c : CoreId) (pc : Word) : (s.issued c pc).schedSet = s.schedSet := rfl
@[simp] theorem State.issued_sched (s : State) (c : CoreId) (pc : Word) : (s.issued c pc).sched = s.sched := rfl
@[simp] theorem State.issued_wdog (s : State) (c : CoreId) (pc : Word) : (s.issued c pc).wdog = s.wdog := rfl
@[simp] theorem State.issued_comps (s : State) (c : CoreId) (pc : Word) : (s.issued c pc).comps = s.comps := rfl
@[simp] theorem State.issued_dropped (s : State) (c : CoreId) (pc : Word) : (s.issued c pc).dropped = s.dropped := rfl
@[simp] theorem State.issued_wins (s : State) (c : CoreId) (pc : Word) : (s.issued c pc).wins = s.wins := rfl
@[simp] theorem State.issued_buckets (s : State) (c : CoreId) (pc : Word) : (s.issued c pc).buckets = s.buckets := rfl
@[simp] theorem State.issued_hostOut (s : State) (c : CoreId) (pc : Word) : (s.issued c pc).hostOut = s.hostOut := rfl
@[simp] theorem State.issued_linksDown (s : State) (c : CoreId) (pc : Word) : (s.issued c pc).linksDown = s.linksDown := rfl
@[simp] theorem State.issued_deadSw (s : State) (c : CoreId) (pc : Word) : (s.issued c pc).deadSw = s.deadSw := rfl
@[simp] theorem State.issued_glarikUp (s : State) (c : CoreId) (pc : Word) : (s.issued c pc).glarikUp = s.glarikUp := rfl
@[simp] theorem State.issued_dumpSeq (s : State) (c : CoreId) (pc : Word) : (s.issued c pc).dumpSeq = s.dumpSeq := rfl
@[simp] theorem State.issued_refusals (s : State) (c : CoreId) (pc : Word) : (s.issued c pc).refusals = s.refusals := rfl
@[simp] theorem State.issued_busPkg (s : State) (c : CoreId) (pc : Word) : (s.issued c pc).busPkg = s.busPkg := rfl
@[simp] theorem State.issued_rslots (s : State) (c : CoreId) (pc : Word) : (s.issued c pc).rslots = s.rslots := rfl
@[simp] theorem State.issued_rdescs (s : State) (c : CoreId) (pc : Word) : (s.issued c pc).rdescs = s.rdescs := rfl
@[simp] theorem State.issued_ddescs (s : State) (c : CoreId) (pc : Word) : (s.issued c pc).ddescs = s.ddescs := rfl
@[simp] theorem State.issued_hdescs (s : State) (c : CoreId) (pc : Word) : (s.issued c pc).hdescs = s.hdescs := rfl
@[simp] theorem State.issued_storeErrs (s : State) (c : CoreId) (pc : Word) : (s.issued c pc).storeErrs = s.storeErrs := rfl
@[simp] theorem State.issued_backErrs (s : State) (c : CoreId) (pc : Word) : (s.issued c pc).backErrs = s.backErrs := rfl

/-! ### State.setSlice -/

@[simp] theorem State.setSlice_cores (s : State) (q : SliceId) (z : Slice) : (s.setSlice q z).cores = s.cores := rfl
@[simp] theorem State.setSlice_far (s : State) (q : SliceId) (z : Slice) : (s.setSlice q z).far = s.far := rfl
@[simp] theorem State.setSlice_mem (s : State) (q : SliceId) (z : Slice) : (s.setSlice q z).mem = s.mem := rfl
@[simp] theorem State.setSlice_upsets (s : State) (q : SliceId) (z : Slice) : (s.setSlice q z).upsets = s.upsets := rfl
@[simp] theorem State.setSlice_lineKeys (s : State) (q : SliceId) (z : Slice) : (s.setSlice q z).lineKeys = s.lineKeys := rfl
@[simp] theorem State.setSlice_moved (s : State) (q : SliceId) (z : Slice) : (s.setSlice q z).moved = s.moved := rfl
@[simp] theorem State.setSlice_near (s : State) (q : SliceId) (z : Slice) : (s.setSlice q z).near = s.near := rfl
@[simp] theorem State.setSlice_movCount (s : State) (q : SliceId) (z : Slice) : (s.setSlice q z).movCount = s.movCount := rfl
@[simp] theorem State.setSlice_gangs (s : State) (q : SliceId) (z : Slice) : (s.setSlice q z).gangs = s.gangs := rfl
@[simp] theorem State.setSlice_flight (s : State) (q : SliceId) (z : Slice) : (s.setSlice q z).flight = s.flight := rfl
@[simp] theorem State.setSlice_nextId (s : State) (q : SliceId) (z : Slice) : (s.setSlice q z).nextId = s.nextId := rfl
@[simp] theorem State.setSlice_nextGang (s : State) (q : SliceId) (z : Slice) : (s.setSlice q z).nextGang = s.nextGang := rfl
@[simp] theorem State.setSlice_tick (s : State) (q : SliceId) (z : Slice) : (s.setSlice q z).tick = s.tick := rfl
@[simp] theorem State.setSlice_steps (s : State) (q : SliceId) (z : Slice) : (s.setSlice q z).steps = s.steps := rfl
@[simp] theorem State.setSlice_cur (s : State) (q : SliceId) (z : Slice) : (s.setSlice q z).cur = s.cur := rfl
@[simp] theorem State.setSlice_agenda (s : State) (q : SliceId) (z : Slice) : (s.setSlice q z).agenda = s.agenda := rfl
@[simp] theorem State.setSlice_powered (s : State) (q : SliceId) (z : Slice) : (s.setSlice q z).powered = s.powered := rfl
@[simp] theorem State.setSlice_dawned (s : State) (q : SliceId) (z : Slice) : (s.setSlice q z).dawned = s.dawned := rfl
@[simp] theorem State.setSlice_accepting (s : State) (q : SliceId) (z : Slice) : (s.setSlice q z).accepting = s.accepting := rfl
@[simp] theorem State.setSlice_boot (s : State) (q : SliceId) (z : Slice) : (s.setSlice q z).boot = s.boot := rfl
@[simp] theorem State.setSlice_pkg (s : State) (q : SliceId) (z : Slice) : (s.setSlice q z).pkg = s.pkg := rfl
@[simp] theorem State.setSlice_dawns (s : State) (q : SliceId) (z : Slice) : (s.setSlice q z).dawns = s.dawns := rfl
@[simp] theorem State.setSlice_resv (s : State) (q : SliceId) (z : Slice) : (s.setSlice q z).resv = s.resv := rfl
@[simp] theorem State.setSlice_ptroot (s : State) (q : SliceId) (z : Slice) : (s.setSlice q z).ptroot = s.ptroot := rfl
@[simp] theorem State.setSlice_walkctl (s : State) (q : SliceId) (z : Slice) : (s.setSlice q z).walkctl = s.walkctl := rfl
@[simp] theorem State.setSlice_keys (s : State) (q : SliceId) (z : Slice) : (s.setSlice q z).keys = s.keys := rfl
@[simp] theorem State.setSlice_xts (s : State) (q : SliceId) (z : Slice) : (s.setSlice q z).xts = s.xts := rfl
@[simp] theorem State.setSlice_dieTurn (s : State) (q : SliceId) (z : Slice) : (s.setSlice q z).dieTurn = s.dieTurn := rfl
@[simp] theorem State.setSlice_head (s : State) (q : SliceId) (z : Slice) : (s.setSlice q z).head = s.head := rfl
@[simp] theorem State.setSlice_schedSet (s : State) (q : SliceId) (z : Slice) : (s.setSlice q z).schedSet = s.schedSet := rfl
@[simp] theorem State.setSlice_sched (s : State) (q : SliceId) (z : Slice) : (s.setSlice q z).sched = s.sched := rfl
@[simp] theorem State.setSlice_wdog (s : State) (q : SliceId) (z : Slice) : (s.setSlice q z).wdog = s.wdog := rfl
@[simp] theorem State.setSlice_comps (s : State) (q : SliceId) (z : Slice) : (s.setSlice q z).comps = s.comps := rfl
@[simp] theorem State.setSlice_dropped (s : State) (q : SliceId) (z : Slice) : (s.setSlice q z).dropped = s.dropped := rfl
@[simp] theorem State.setSlice_wins (s : State) (q : SliceId) (z : Slice) : (s.setSlice q z).wins = s.wins := rfl
@[simp] theorem State.setSlice_buckets (s : State) (q : SliceId) (z : Slice) : (s.setSlice q z).buckets = s.buckets := rfl
@[simp] theorem State.setSlice_hostOut (s : State) (q : SliceId) (z : Slice) : (s.setSlice q z).hostOut = s.hostOut := rfl
@[simp] theorem State.setSlice_linksDown (s : State) (q : SliceId) (z : Slice) : (s.setSlice q z).linksDown = s.linksDown := rfl
@[simp] theorem State.setSlice_deadSw (s : State) (q : SliceId) (z : Slice) : (s.setSlice q z).deadSw = s.deadSw := rfl
@[simp] theorem State.setSlice_glarikUp (s : State) (q : SliceId) (z : Slice) : (s.setSlice q z).glarikUp = s.glarikUp := rfl
@[simp] theorem State.setSlice_dumpSeq (s : State) (q : SliceId) (z : Slice) : (s.setSlice q z).dumpSeq = s.dumpSeq := rfl
@[simp] theorem State.setSlice_refusals (s : State) (q : SliceId) (z : Slice) : (s.setSlice q z).refusals = s.refusals := rfl
@[simp] theorem State.setSlice_busPkg (s : State) (q : SliceId) (z : Slice) : (s.setSlice q z).busPkg = s.busPkg := rfl
@[simp] theorem State.setSlice_rslots (s : State) (q : SliceId) (z : Slice) : (s.setSlice q z).rslots = s.rslots := rfl
@[simp] theorem State.setSlice_rdescs (s : State) (q : SliceId) (z : Slice) : (s.setSlice q z).rdescs = s.rdescs := rfl
@[simp] theorem State.setSlice_ddescs (s : State) (q : SliceId) (z : Slice) : (s.setSlice q z).ddescs = s.ddescs := rfl
@[simp] theorem State.setSlice_hdescs (s : State) (q : SliceId) (z : Slice) : (s.setSlice q z).hdescs = s.hdescs := rfl
@[simp] theorem State.setSlice_storeErrs (s : State) (q : SliceId) (z : Slice) : (s.setSlice q z).storeErrs = s.storeErrs := rfl
@[simp] theorem State.setSlice_backErrs (s : State) (q : SliceId) (z : Slice) : (s.setSlice q z).backErrs = s.backErrs := rfl

/-! ### State.setGang -/

@[simp] theorem State.setGang_cores (s : State) (g : Gang) : (s.setGang g).cores = s.cores := rfl
@[simp] theorem State.setGang_slices (s : State) (g : Gang) : (s.setGang g).slices = s.slices := rfl
@[simp] theorem State.setGang_far (s : State) (g : Gang) : (s.setGang g).far = s.far := rfl
@[simp] theorem State.setGang_mem (s : State) (g : Gang) : (s.setGang g).mem = s.mem := rfl
@[simp] theorem State.setGang_upsets (s : State) (g : Gang) : (s.setGang g).upsets = s.upsets := rfl
@[simp] theorem State.setGang_lineKeys (s : State) (g : Gang) : (s.setGang g).lineKeys = s.lineKeys := rfl
@[simp] theorem State.setGang_moved (s : State) (g : Gang) : (s.setGang g).moved = s.moved := rfl
@[simp] theorem State.setGang_near (s : State) (g : Gang) : (s.setGang g).near = s.near := rfl
@[simp] theorem State.setGang_movCount (s : State) (g : Gang) : (s.setGang g).movCount = s.movCount := rfl
@[simp] theorem State.setGang_flight (s : State) (g : Gang) : (s.setGang g).flight = s.flight := rfl
@[simp] theorem State.setGang_nextId (s : State) (g : Gang) : (s.setGang g).nextId = s.nextId := rfl
@[simp] theorem State.setGang_nextGang (s : State) (g : Gang) : (s.setGang g).nextGang = s.nextGang := rfl
@[simp] theorem State.setGang_tick (s : State) (g : Gang) : (s.setGang g).tick = s.tick := rfl
@[simp] theorem State.setGang_steps (s : State) (g : Gang) : (s.setGang g).steps = s.steps := rfl
@[simp] theorem State.setGang_cur (s : State) (g : Gang) : (s.setGang g).cur = s.cur := rfl
@[simp] theorem State.setGang_agenda (s : State) (g : Gang) : (s.setGang g).agenda = s.agenda := rfl
@[simp] theorem State.setGang_powered (s : State) (g : Gang) : (s.setGang g).powered = s.powered := rfl
@[simp] theorem State.setGang_dawned (s : State) (g : Gang) : (s.setGang g).dawned = s.dawned := rfl
@[simp] theorem State.setGang_accepting (s : State) (g : Gang) : (s.setGang g).accepting = s.accepting := rfl
@[simp] theorem State.setGang_boot (s : State) (g : Gang) : (s.setGang g).boot = s.boot := rfl
@[simp] theorem State.setGang_pkg (s : State) (g : Gang) : (s.setGang g).pkg = s.pkg := rfl
@[simp] theorem State.setGang_dawns (s : State) (g : Gang) : (s.setGang g).dawns = s.dawns := rfl
@[simp] theorem State.setGang_resv (s : State) (g : Gang) : (s.setGang g).resv = s.resv := rfl
@[simp] theorem State.setGang_ptroot (s : State) (g : Gang) : (s.setGang g).ptroot = s.ptroot := rfl
@[simp] theorem State.setGang_walkctl (s : State) (g : Gang) : (s.setGang g).walkctl = s.walkctl := rfl
@[simp] theorem State.setGang_keys (s : State) (g : Gang) : (s.setGang g).keys = s.keys := rfl
@[simp] theorem State.setGang_xts (s : State) (g : Gang) : (s.setGang g).xts = s.xts := rfl
@[simp] theorem State.setGang_dieTurn (s : State) (g : Gang) : (s.setGang g).dieTurn = s.dieTurn := rfl
@[simp] theorem State.setGang_head (s : State) (g : Gang) : (s.setGang g).head = s.head := rfl
@[simp] theorem State.setGang_schedSet (s : State) (g : Gang) : (s.setGang g).schedSet = s.schedSet := rfl
@[simp] theorem State.setGang_sched (s : State) (g : Gang) : (s.setGang g).sched = s.sched := rfl
@[simp] theorem State.setGang_wdog (s : State) (g : Gang) : (s.setGang g).wdog = s.wdog := rfl
@[simp] theorem State.setGang_comps (s : State) (g : Gang) : (s.setGang g).comps = s.comps := rfl
@[simp] theorem State.setGang_dropped (s : State) (g : Gang) : (s.setGang g).dropped = s.dropped := rfl
@[simp] theorem State.setGang_wins (s : State) (g : Gang) : (s.setGang g).wins = s.wins := rfl
@[simp] theorem State.setGang_buckets (s : State) (g : Gang) : (s.setGang g).buckets = s.buckets := rfl
@[simp] theorem State.setGang_hostOut (s : State) (g : Gang) : (s.setGang g).hostOut = s.hostOut := rfl
@[simp] theorem State.setGang_linksDown (s : State) (g : Gang) : (s.setGang g).linksDown = s.linksDown := rfl
@[simp] theorem State.setGang_deadSw (s : State) (g : Gang) : (s.setGang g).deadSw = s.deadSw := rfl
@[simp] theorem State.setGang_glarikUp (s : State) (g : Gang) : (s.setGang g).glarikUp = s.glarikUp := rfl
@[simp] theorem State.setGang_dumpSeq (s : State) (g : Gang) : (s.setGang g).dumpSeq = s.dumpSeq := rfl
@[simp] theorem State.setGang_refusals (s : State) (g : Gang) : (s.setGang g).refusals = s.refusals := rfl
@[simp] theorem State.setGang_busPkg (s : State) (g : Gang) : (s.setGang g).busPkg = s.busPkg := rfl
@[simp] theorem State.setGang_rslots (s : State) (g : Gang) : (s.setGang g).rslots = s.rslots := rfl
@[simp] theorem State.setGang_rdescs (s : State) (g : Gang) : (s.setGang g).rdescs = s.rdescs := rfl
@[simp] theorem State.setGang_ddescs (s : State) (g : Gang) : (s.setGang g).ddescs = s.ddescs := rfl
@[simp] theorem State.setGang_hdescs (s : State) (g : Gang) : (s.setGang g).hdescs = s.hdescs := rfl
@[simp] theorem State.setGang_storeErrs (s : State) (g : Gang) : (s.setGang g).storeErrs = s.storeErrs := rfl
@[simp] theorem State.setGang_backErrs (s : State) (g : Gang) : (s.setGang g).backErrs = s.backErrs := rfl

/-! ### State.setAccess -/

@[simp] theorem State.setAccess_cores (s : State) (a : Access) : (s.setAccess a).cores = s.cores := rfl
@[simp] theorem State.setAccess_slices (s : State) (a : Access) : (s.setAccess a).slices = s.slices := rfl
@[simp] theorem State.setAccess_far (s : State) (a : Access) : (s.setAccess a).far = s.far := rfl
@[simp] theorem State.setAccess_mem (s : State) (a : Access) : (s.setAccess a).mem = s.mem := rfl
@[simp] theorem State.setAccess_upsets (s : State) (a : Access) : (s.setAccess a).upsets = s.upsets := rfl
@[simp] theorem State.setAccess_lineKeys (s : State) (a : Access) : (s.setAccess a).lineKeys = s.lineKeys := rfl
@[simp] theorem State.setAccess_moved (s : State) (a : Access) : (s.setAccess a).moved = s.moved := rfl
@[simp] theorem State.setAccess_near (s : State) (a : Access) : (s.setAccess a).near = s.near := rfl
@[simp] theorem State.setAccess_movCount (s : State) (a : Access) : (s.setAccess a).movCount = s.movCount := rfl
@[simp] theorem State.setAccess_gangs (s : State) (a : Access) : (s.setAccess a).gangs = s.gangs := rfl
@[simp] theorem State.setAccess_nextId (s : State) (a : Access) : (s.setAccess a).nextId = s.nextId := rfl
@[simp] theorem State.setAccess_nextGang (s : State) (a : Access) : (s.setAccess a).nextGang = s.nextGang := rfl
@[simp] theorem State.setAccess_tick (s : State) (a : Access) : (s.setAccess a).tick = s.tick := rfl
@[simp] theorem State.setAccess_steps (s : State) (a : Access) : (s.setAccess a).steps = s.steps := rfl
@[simp] theorem State.setAccess_cur (s : State) (a : Access) : (s.setAccess a).cur = s.cur := rfl
@[simp] theorem State.setAccess_agenda (s : State) (a : Access) : (s.setAccess a).agenda = s.agenda := rfl
@[simp] theorem State.setAccess_powered (s : State) (a : Access) : (s.setAccess a).powered = s.powered := rfl
@[simp] theorem State.setAccess_dawned (s : State) (a : Access) : (s.setAccess a).dawned = s.dawned := rfl
@[simp] theorem State.setAccess_accepting (s : State) (a : Access) : (s.setAccess a).accepting = s.accepting := rfl
@[simp] theorem State.setAccess_boot (s : State) (a : Access) : (s.setAccess a).boot = s.boot := rfl
@[simp] theorem State.setAccess_pkg (s : State) (a : Access) : (s.setAccess a).pkg = s.pkg := rfl
@[simp] theorem State.setAccess_dawns (s : State) (a : Access) : (s.setAccess a).dawns = s.dawns := rfl
@[simp] theorem State.setAccess_resv (s : State) (a : Access) : (s.setAccess a).resv = s.resv := rfl
@[simp] theorem State.setAccess_ptroot (s : State) (a : Access) : (s.setAccess a).ptroot = s.ptroot := rfl
@[simp] theorem State.setAccess_walkctl (s : State) (a : Access) : (s.setAccess a).walkctl = s.walkctl := rfl
@[simp] theorem State.setAccess_keys (s : State) (a : Access) : (s.setAccess a).keys = s.keys := rfl
@[simp] theorem State.setAccess_xts (s : State) (a : Access) : (s.setAccess a).xts = s.xts := rfl
@[simp] theorem State.setAccess_dieTurn (s : State) (a : Access) : (s.setAccess a).dieTurn = s.dieTurn := rfl
@[simp] theorem State.setAccess_head (s : State) (a : Access) : (s.setAccess a).head = s.head := rfl
@[simp] theorem State.setAccess_schedSet (s : State) (a : Access) : (s.setAccess a).schedSet = s.schedSet := rfl
@[simp] theorem State.setAccess_sched (s : State) (a : Access) : (s.setAccess a).sched = s.sched := rfl
@[simp] theorem State.setAccess_wdog (s : State) (a : Access) : (s.setAccess a).wdog = s.wdog := rfl
@[simp] theorem State.setAccess_comps (s : State) (a : Access) : (s.setAccess a).comps = s.comps := rfl
@[simp] theorem State.setAccess_dropped (s : State) (a : Access) : (s.setAccess a).dropped = s.dropped := rfl
@[simp] theorem State.setAccess_wins (s : State) (a : Access) : (s.setAccess a).wins = s.wins := rfl
@[simp] theorem State.setAccess_buckets (s : State) (a : Access) : (s.setAccess a).buckets = s.buckets := rfl
@[simp] theorem State.setAccess_hostOut (s : State) (a : Access) : (s.setAccess a).hostOut = s.hostOut := rfl
@[simp] theorem State.setAccess_linksDown (s : State) (a : Access) : (s.setAccess a).linksDown = s.linksDown := rfl
@[simp] theorem State.setAccess_deadSw (s : State) (a : Access) : (s.setAccess a).deadSw = s.deadSw := rfl
@[simp] theorem State.setAccess_glarikUp (s : State) (a : Access) : (s.setAccess a).glarikUp = s.glarikUp := rfl
@[simp] theorem State.setAccess_dumpSeq (s : State) (a : Access) : (s.setAccess a).dumpSeq = s.dumpSeq := rfl
@[simp] theorem State.setAccess_refusals (s : State) (a : Access) : (s.setAccess a).refusals = s.refusals := rfl
@[simp] theorem State.setAccess_busPkg (s : State) (a : Access) : (s.setAccess a).busPkg = s.busPkg := rfl
@[simp] theorem State.setAccess_rslots (s : State) (a : Access) : (s.setAccess a).rslots = s.rslots := rfl
@[simp] theorem State.setAccess_rdescs (s : State) (a : Access) : (s.setAccess a).rdescs = s.rdescs := rfl
@[simp] theorem State.setAccess_ddescs (s : State) (a : Access) : (s.setAccess a).ddescs = s.ddescs := rfl
@[simp] theorem State.setAccess_hdescs (s : State) (a : Access) : (s.setAccess a).hdescs = s.hdescs := rfl
@[simp] theorem State.setAccess_storeErrs (s : State) (a : Access) : (s.setAccess a).storeErrs = s.storeErrs := rfl
@[simp] theorem State.setAccess_backErrs (s : State) (a : Access) : (s.setAccess a).backErrs = s.backErrs := rfl

/-! ### State.dropAccess -/

@[simp] theorem State.dropAccess_cores (s : State) (id : Nat) : (s.dropAccess id).cores = s.cores := rfl
@[simp] theorem State.dropAccess_slices (s : State) (id : Nat) : (s.dropAccess id).slices = s.slices := rfl
@[simp] theorem State.dropAccess_far (s : State) (id : Nat) : (s.dropAccess id).far = s.far := rfl
@[simp] theorem State.dropAccess_mem (s : State) (id : Nat) : (s.dropAccess id).mem = s.mem := rfl
@[simp] theorem State.dropAccess_upsets (s : State) (id : Nat) : (s.dropAccess id).upsets = s.upsets := rfl
@[simp] theorem State.dropAccess_lineKeys (s : State) (id : Nat) : (s.dropAccess id).lineKeys = s.lineKeys := rfl
@[simp] theorem State.dropAccess_moved (s : State) (id : Nat) : (s.dropAccess id).moved = s.moved := rfl
@[simp] theorem State.dropAccess_near (s : State) (id : Nat) : (s.dropAccess id).near = s.near := rfl
@[simp] theorem State.dropAccess_movCount (s : State) (id : Nat) : (s.dropAccess id).movCount = s.movCount := rfl
@[simp] theorem State.dropAccess_gangs (s : State) (id : Nat) : (s.dropAccess id).gangs = s.gangs := rfl
@[simp] theorem State.dropAccess_nextId (s : State) (id : Nat) : (s.dropAccess id).nextId = s.nextId := rfl
@[simp] theorem State.dropAccess_nextGang (s : State) (id : Nat) : (s.dropAccess id).nextGang = s.nextGang := rfl
@[simp] theorem State.dropAccess_tick (s : State) (id : Nat) : (s.dropAccess id).tick = s.tick := rfl
@[simp] theorem State.dropAccess_steps (s : State) (id : Nat) : (s.dropAccess id).steps = s.steps := rfl
@[simp] theorem State.dropAccess_cur (s : State) (id : Nat) : (s.dropAccess id).cur = s.cur := rfl
@[simp] theorem State.dropAccess_agenda (s : State) (id : Nat) : (s.dropAccess id).agenda = s.agenda := rfl
@[simp] theorem State.dropAccess_powered (s : State) (id : Nat) : (s.dropAccess id).powered = s.powered := rfl
@[simp] theorem State.dropAccess_dawned (s : State) (id : Nat) : (s.dropAccess id).dawned = s.dawned := rfl
@[simp] theorem State.dropAccess_accepting (s : State) (id : Nat) : (s.dropAccess id).accepting = s.accepting := rfl
@[simp] theorem State.dropAccess_boot (s : State) (id : Nat) : (s.dropAccess id).boot = s.boot := rfl
@[simp] theorem State.dropAccess_pkg (s : State) (id : Nat) : (s.dropAccess id).pkg = s.pkg := rfl
@[simp] theorem State.dropAccess_dawns (s : State) (id : Nat) : (s.dropAccess id).dawns = s.dawns := rfl
@[simp] theorem State.dropAccess_resv (s : State) (id : Nat) : (s.dropAccess id).resv = s.resv := rfl
@[simp] theorem State.dropAccess_ptroot (s : State) (id : Nat) : (s.dropAccess id).ptroot = s.ptroot := rfl
@[simp] theorem State.dropAccess_walkctl (s : State) (id : Nat) : (s.dropAccess id).walkctl = s.walkctl := rfl
@[simp] theorem State.dropAccess_keys (s : State) (id : Nat) : (s.dropAccess id).keys = s.keys := rfl
@[simp] theorem State.dropAccess_xts (s : State) (id : Nat) : (s.dropAccess id).xts = s.xts := rfl
@[simp] theorem State.dropAccess_dieTurn (s : State) (id : Nat) : (s.dropAccess id).dieTurn = s.dieTurn := rfl
@[simp] theorem State.dropAccess_head (s : State) (id : Nat) : (s.dropAccess id).head = s.head := rfl
@[simp] theorem State.dropAccess_schedSet (s : State) (id : Nat) : (s.dropAccess id).schedSet = s.schedSet := rfl
@[simp] theorem State.dropAccess_sched (s : State) (id : Nat) : (s.dropAccess id).sched = s.sched := rfl
@[simp] theorem State.dropAccess_wdog (s : State) (id : Nat) : (s.dropAccess id).wdog = s.wdog := rfl
@[simp] theorem State.dropAccess_comps (s : State) (id : Nat) : (s.dropAccess id).comps = s.comps := rfl
@[simp] theorem State.dropAccess_dropped (s : State) (id : Nat) : (s.dropAccess id).dropped = s.dropped := rfl
@[simp] theorem State.dropAccess_wins (s : State) (id : Nat) : (s.dropAccess id).wins = s.wins := rfl
@[simp] theorem State.dropAccess_buckets (s : State) (id : Nat) : (s.dropAccess id).buckets = s.buckets := rfl
@[simp] theorem State.dropAccess_hostOut (s : State) (id : Nat) : (s.dropAccess id).hostOut = s.hostOut := rfl
@[simp] theorem State.dropAccess_linksDown (s : State) (id : Nat) : (s.dropAccess id).linksDown = s.linksDown := rfl
@[simp] theorem State.dropAccess_deadSw (s : State) (id : Nat) : (s.dropAccess id).deadSw = s.deadSw := rfl
@[simp] theorem State.dropAccess_glarikUp (s : State) (id : Nat) : (s.dropAccess id).glarikUp = s.glarikUp := rfl
@[simp] theorem State.dropAccess_dumpSeq (s : State) (id : Nat) : (s.dropAccess id).dumpSeq = s.dumpSeq := rfl
@[simp] theorem State.dropAccess_refusals (s : State) (id : Nat) : (s.dropAccess id).refusals = s.refusals := rfl
@[simp] theorem State.dropAccess_busPkg (s : State) (id : Nat) : (s.dropAccess id).busPkg = s.busPkg := rfl
@[simp] theorem State.dropAccess_rslots (s : State) (id : Nat) : (s.dropAccess id).rslots = s.rslots := rfl
@[simp] theorem State.dropAccess_rdescs (s : State) (id : Nat) : (s.dropAccess id).rdescs = s.rdescs := rfl
@[simp] theorem State.dropAccess_ddescs (s : State) (id : Nat) : (s.dropAccess id).ddescs = s.ddescs := rfl
@[simp] theorem State.dropAccess_hdescs (s : State) (id : Nat) : (s.dropAccess id).hdescs = s.hdescs := rfl
@[simp] theorem State.dropAccess_storeErrs (s : State) (id : Nat) : (s.dropAccess id).storeErrs = s.storeErrs := rfl
@[simp] theorem State.dropAccess_backErrs (s : State) (id : Nat) : (s.dropAccess id).backErrs = s.backErrs := rfl

/-! ### State.setWin -/

@[simp] theorem State.setWin_cores (s : State) (w : Fin 4) (x : Win) : (s.setWin w x).cores = s.cores := rfl
@[simp] theorem State.setWin_slices (s : State) (w : Fin 4) (x : Win) : (s.setWin w x).slices = s.slices := rfl
@[simp] theorem State.setWin_far (s : State) (w : Fin 4) (x : Win) : (s.setWin w x).far = s.far := rfl
@[simp] theorem State.setWin_mem (s : State) (w : Fin 4) (x : Win) : (s.setWin w x).mem = s.mem := rfl
@[simp] theorem State.setWin_upsets (s : State) (w : Fin 4) (x : Win) : (s.setWin w x).upsets = s.upsets := rfl
@[simp] theorem State.setWin_lineKeys (s : State) (w : Fin 4) (x : Win) : (s.setWin w x).lineKeys = s.lineKeys := rfl
@[simp] theorem State.setWin_moved (s : State) (w : Fin 4) (x : Win) : (s.setWin w x).moved = s.moved := rfl
@[simp] theorem State.setWin_near (s : State) (w : Fin 4) (x : Win) : (s.setWin w x).near = s.near := rfl
@[simp] theorem State.setWin_movCount (s : State) (w : Fin 4) (x : Win) : (s.setWin w x).movCount = s.movCount := rfl
@[simp] theorem State.setWin_gangs (s : State) (w : Fin 4) (x : Win) : (s.setWin w x).gangs = s.gangs := rfl
@[simp] theorem State.setWin_flight (s : State) (w : Fin 4) (x : Win) : (s.setWin w x).flight = s.flight := rfl
@[simp] theorem State.setWin_nextId (s : State) (w : Fin 4) (x : Win) : (s.setWin w x).nextId = s.nextId := rfl
@[simp] theorem State.setWin_nextGang (s : State) (w : Fin 4) (x : Win) : (s.setWin w x).nextGang = s.nextGang := rfl
@[simp] theorem State.setWin_tick (s : State) (w : Fin 4) (x : Win) : (s.setWin w x).tick = s.tick := rfl
@[simp] theorem State.setWin_steps (s : State) (w : Fin 4) (x : Win) : (s.setWin w x).steps = s.steps := rfl
@[simp] theorem State.setWin_cur (s : State) (w : Fin 4) (x : Win) : (s.setWin w x).cur = s.cur := rfl
@[simp] theorem State.setWin_agenda (s : State) (w : Fin 4) (x : Win) : (s.setWin w x).agenda = s.agenda := rfl
@[simp] theorem State.setWin_powered (s : State) (w : Fin 4) (x : Win) : (s.setWin w x).powered = s.powered := rfl
@[simp] theorem State.setWin_dawned (s : State) (w : Fin 4) (x : Win) : (s.setWin w x).dawned = s.dawned := rfl
@[simp] theorem State.setWin_accepting (s : State) (w : Fin 4) (x : Win) : (s.setWin w x).accepting = s.accepting := rfl
@[simp] theorem State.setWin_boot (s : State) (w : Fin 4) (x : Win) : (s.setWin w x).boot = s.boot := rfl
@[simp] theorem State.setWin_pkg (s : State) (w : Fin 4) (x : Win) : (s.setWin w x).pkg = s.pkg := rfl
@[simp] theorem State.setWin_dawns (s : State) (w : Fin 4) (x : Win) : (s.setWin w x).dawns = s.dawns := rfl
@[simp] theorem State.setWin_resv (s : State) (w : Fin 4) (x : Win) : (s.setWin w x).resv = s.resv := rfl
@[simp] theorem State.setWin_ptroot (s : State) (w : Fin 4) (x : Win) : (s.setWin w x).ptroot = s.ptroot := rfl
@[simp] theorem State.setWin_walkctl (s : State) (w : Fin 4) (x : Win) : (s.setWin w x).walkctl = s.walkctl := rfl
@[simp] theorem State.setWin_keys (s : State) (w : Fin 4) (x : Win) : (s.setWin w x).keys = s.keys := rfl
@[simp] theorem State.setWin_xts (s : State) (w : Fin 4) (x : Win) : (s.setWin w x).xts = s.xts := rfl
@[simp] theorem State.setWin_dieTurn (s : State) (w : Fin 4) (x : Win) : (s.setWin w x).dieTurn = s.dieTurn := rfl
@[simp] theorem State.setWin_head (s : State) (w : Fin 4) (x : Win) : (s.setWin w x).head = s.head := rfl
@[simp] theorem State.setWin_schedSet (s : State) (w : Fin 4) (x : Win) : (s.setWin w x).schedSet = s.schedSet := rfl
@[simp] theorem State.setWin_sched (s : State) (w : Fin 4) (x : Win) : (s.setWin w x).sched = s.sched := rfl
@[simp] theorem State.setWin_wdog (s : State) (w : Fin 4) (x : Win) : (s.setWin w x).wdog = s.wdog := rfl
@[simp] theorem State.setWin_comps (s : State) (w : Fin 4) (x : Win) : (s.setWin w x).comps = s.comps := rfl
@[simp] theorem State.setWin_dropped (s : State) (w : Fin 4) (x : Win) : (s.setWin w x).dropped = s.dropped := rfl
@[simp] theorem State.setWin_buckets (s : State) (w : Fin 4) (x : Win) : (s.setWin w x).buckets = s.buckets := rfl
@[simp] theorem State.setWin_hostOut (s : State) (w : Fin 4) (x : Win) : (s.setWin w x).hostOut = s.hostOut := rfl
@[simp] theorem State.setWin_linksDown (s : State) (w : Fin 4) (x : Win) : (s.setWin w x).linksDown = s.linksDown := rfl
@[simp] theorem State.setWin_deadSw (s : State) (w : Fin 4) (x : Win) : (s.setWin w x).deadSw = s.deadSw := rfl
@[simp] theorem State.setWin_glarikUp (s : State) (w : Fin 4) (x : Win) : (s.setWin w x).glarikUp = s.glarikUp := rfl
@[simp] theorem State.setWin_dumpSeq (s : State) (w : Fin 4) (x : Win) : (s.setWin w x).dumpSeq = s.dumpSeq := rfl
@[simp] theorem State.setWin_refusals (s : State) (w : Fin 4) (x : Win) : (s.setWin w x).refusals = s.refusals := rfl
@[simp] theorem State.setWin_busPkg (s : State) (w : Fin 4) (x : Win) : (s.setWin w x).busPkg = s.busPkg := rfl
@[simp] theorem State.setWin_rslots (s : State) (w : Fin 4) (x : Win) : (s.setWin w x).rslots = s.rslots := rfl
@[simp] theorem State.setWin_rdescs (s : State) (w : Fin 4) (x : Win) : (s.setWin w x).rdescs = s.rdescs := rfl
@[simp] theorem State.setWin_ddescs (s : State) (w : Fin 4) (x : Win) : (s.setWin w x).ddescs = s.ddescs := rfl
@[simp] theorem State.setWin_hdescs (s : State) (w : Fin 4) (x : Win) : (s.setWin w x).hdescs = s.hdescs := rfl
@[simp] theorem State.setWin_storeErrs (s : State) (w : Fin 4) (x : Win) : (s.setWin w x).storeErrs = s.storeErrs := rfl
@[simp] theorem State.setWin_backErrs (s : State) (w : Fin 4) (x : Win) : (s.setWin w x).backErrs = s.backErrs := rfl

/-! ### Core.setS -/

@[simp] theorem Core.setS_p (k : Core) (i : Fin 32) (x : Word) : (k.setS i x).p = k.p := by unfold Core.setS; split <;> rfl
@[simp] theorem Core.setS_lc (k : Core) (i : Fin 32) (x : Word) : (k.setS i x).lc = k.lc := by unfold Core.setS; split <;> rfl
@[simp] theorem Core.setS_lcl (k : Core) (i : Fin 32) (x : Word) : (k.setS i x).lcl = k.lcl := by unfold Core.setS; split <;> rfl
@[simp] theorem Core.setS_v (k : Core) (i : Fin 32) (x : Word) : (k.setS i x).v = k.v := by unfold Core.setS; split <;> rfl
@[simp] theorem Core.setS_strip (k : Core) (i : Fin 32) (x : Word) : (k.setS i x).strip = k.strip := by unfold Core.setS; split <;> rfl
@[simp] theorem Core.setS_shp (k : Core) (i : Fin 32) (x : Word) : (k.setS i x).shp = k.shp := by unfold Core.setS; split <;> rfl
@[simp] theorem Core.setS_acc (k : Core) (i : Fin 32) (x : Word) : (k.setS i x).acc = k.acc := by unfold Core.setS; split <;> rfl
@[simp] theorem Core.setS_m (k : Core) (i : Fin 32) (x : Word) : (k.setS i x).m = k.m := by unfold Core.setS; split <;> rfl
@[simp] theorem Core.setS_keep (k : Core) (i : Fin 32) (x : Word) : (k.setS i x).keep = k.keep := by unfold Core.setS; split <;> rfl
@[simp] theorem Core.setS_fpmode (k : Core) (i : Fin 32) (x : Word) : (k.setS i x).fpmode = k.fpmode := by unfold Core.setS; split <;> rfl
@[simp] theorem Core.setS_fpflags (k : Core) (i : Fin 32) (x : Word) : (k.setS i x).fpflags = k.fpflags := by unfold Core.setS; split <;> rfl
@[simp] theorem Core.setS_lfsr (k : Core) (i : Fin 32) (x : Word) : (k.setS i x).lfsr = k.lfsr := by unfold Core.setS; split <;> rfl
@[simp] theorem Core.setS_trapcause (k : Core) (i : Fin 32) (x : Word) : (k.setS i x).trapcause = k.trapcause := by unfold Core.setS; split <;> rfl
@[simp] theorem Core.setS_trappc (k : Core) (i : Fin 32) (x : Word) : (k.setS i x).trappc = k.trappc := by unfold Core.setS; split <;> rfl
@[simp] theorem Core.setS_trapval (k : Core) (i : Fin 32) (x : Word) : (k.setS i x).trapval = k.trapval := by unfold Core.setS; split <;> rfl
@[simp] theorem Core.setS_heldFlags (k : Core) (i : Fin 32) (x : Word) : (k.setS i x).heldFlags = k.heldFlags := by unfold Core.setS; split <;> rfl
@[simp] theorem Core.setS_ls (k : Core) (i : Fin 32) (x : Word) : (k.setS i x).ls = k.ls := by unfold Core.setS; split <;> rfl
@[simp] theorem Core.setS_eng (k : Core) (i : Fin 32) (x : Word) : (k.setS i x).eng = k.eng := by unfold Core.setS; split <;> rfl
@[simp] theorem Core.setS_pc (k : Core) (i : Fin 32) (x : Word) : (k.setS i x).pc = k.pc := by unfold Core.setS; split <;> rfl
@[simp] theorem Core.setS_fire (k : Core) (i : Fin 32) (x : Word) : (k.setS i x).fire = k.fire := by unfold Core.setS; split <;> rfl
@[simp] theorem Core.setS_starting (k : Core) (i : Fin 32) (x : Word) : (k.setS i x).starting = k.starting := by unfold Core.setS; split <;> rfl
@[simp] theorem Core.setS_susp (k : Core) (i : Fin 32) (x : Word) : (k.setS i x).susp = k.susp := by unfold Core.setS; split <;> rfl
@[simp] theorem Core.setS_hold (k : Core) (i : Fin 32) (x : Word) : (k.setS i x).hold = k.hold := by unfold Core.setS; split <;> rfl
@[simp] theorem Core.setS_gang (k : Core) (i : Fin 32) (x : Word) : (k.setS i x).gang = k.gang := by unfold Core.setS; split <;> rfl
@[simp] theorem Core.setS_gx (k : Core) (i : Fin 32) (x : Word) : (k.setS i x).gx = k.gx := by unfold Core.setS; split <;> rfl
@[simp] theorem Core.setS_gy (k : Core) (i : Fin 32) (x : Word) : (k.setS i x).gy = k.gy := by unfold Core.setS; split <;> rfl
@[simp] theorem Core.setS_first0 (k : Core) (i : Fin 32) (x : Word) : (k.setS i x).first0 = k.first0 := by unfold Core.setS; split <;> rfl
@[simp] theorem Core.setS_last (k : Core) (i : Fin 32) (x : Word) : (k.setS i x).last = k.last := by unfold Core.setS; split <;> rfl
@[simp] theorem Core.setS_rot (k : Core) (i : Fin 32) (x : Word) : (k.setS i x).rot = k.rot := by unfold Core.setS; split <;> rfl
@[simp] theorem Core.setS_exhausted (k : Core) (i : Fin 32) (x : Word) : (k.setS i x).exhausted = k.exhausted := by unfold Core.setS; split <;> rfl
@[simp] theorem Core.setS_haloPend (k : Core) (i : Fin 32) (x : Word) : (k.setS i x).haloPend = k.haloPend := by unfold Core.setS; split <;> rfl
@[simp] theorem Core.setS_edges (k : Core) (i : Fin 32) (x : Word) : (k.setS i x).edges = k.edges := by unfold Core.setS; split <;> rfl
@[simp] theorem Core.setS_l1 (k : Core) (i : Fin 32) (x : Word) : (k.setS i x).l1 = k.l1 := by unfold Core.setS; split <;> rfl
@[simp] theorem Core.setS_tlb (k : Core) (i : Fin 32) (x : Word) : (k.setS i x).tlb = k.tlb := by unfold Core.setS; split <;> rfl
@[simp] theorem Core.setS_tlb2 (k : Core) (i : Fin 32) (x : Word) : (k.setS i x).tlb2 = k.tlb2 := by unfold Core.setS; split <;> rfl
@[simp] theorem Core.setS_cdesc (k : Core) (i : Fin 32) (x : Word) : (k.setS i x).cdesc = k.cdesc := by unfold Core.setS; split <;> rfl
@[simp] theorem Core.setS_edesc (k : Core) (i : Fin 32) (x : Word) : (k.setS i x).edesc = k.edesc := by unfold Core.setS; split <;> rfl
@[simp] theorem Core.setS_issueMark (k : Core) (i : Fin 32) (x : Word) : (k.setS i x).issueMark = k.issueMark := by unfold Core.setS; split <;> rfl
@[simp] theorem Core.setS_lastIssue (k : Core) (i : Fin 32) (x : Word) : (k.setS i x).lastIssue = k.lastIssue := by unfold Core.setS; split <;> rfl
@[simp] theorem Core.setS_readyMark (k : Core) (i : Fin 32) (x : Word) : (k.setS i x).readyMark = k.readyMark := by unfold Core.setS; split <;> rfl

/-! ### Core.setP -/

@[simp] theorem Core.setP_s (k : Core) (i : Fin 8) (x : Bool) : (k.setP i x).s = k.s := by unfold Core.setP; split <;> rfl
@[simp] theorem Core.setP_lc (k : Core) (i : Fin 8) (x : Bool) : (k.setP i x).lc = k.lc := by unfold Core.setP; split <;> rfl
@[simp] theorem Core.setP_lcl (k : Core) (i : Fin 8) (x : Bool) : (k.setP i x).lcl = k.lcl := by unfold Core.setP; split <;> rfl
@[simp] theorem Core.setP_v (k : Core) (i : Fin 8) (x : Bool) : (k.setP i x).v = k.v := by unfold Core.setP; split <;> rfl
@[simp] theorem Core.setP_strip (k : Core) (i : Fin 8) (x : Bool) : (k.setP i x).strip = k.strip := by unfold Core.setP; split <;> rfl
@[simp] theorem Core.setP_shp (k : Core) (i : Fin 8) (x : Bool) : (k.setP i x).shp = k.shp := by unfold Core.setP; split <;> rfl
@[simp] theorem Core.setP_acc (k : Core) (i : Fin 8) (x : Bool) : (k.setP i x).acc = k.acc := by unfold Core.setP; split <;> rfl
@[simp] theorem Core.setP_m (k : Core) (i : Fin 8) (x : Bool) : (k.setP i x).m = k.m := by unfold Core.setP; split <;> rfl
@[simp] theorem Core.setP_keep (k : Core) (i : Fin 8) (x : Bool) : (k.setP i x).keep = k.keep := by unfold Core.setP; split <;> rfl
@[simp] theorem Core.setP_fpmode (k : Core) (i : Fin 8) (x : Bool) : (k.setP i x).fpmode = k.fpmode := by unfold Core.setP; split <;> rfl
@[simp] theorem Core.setP_fpflags (k : Core) (i : Fin 8) (x : Bool) : (k.setP i x).fpflags = k.fpflags := by unfold Core.setP; split <;> rfl
@[simp] theorem Core.setP_lfsr (k : Core) (i : Fin 8) (x : Bool) : (k.setP i x).lfsr = k.lfsr := by unfold Core.setP; split <;> rfl
@[simp] theorem Core.setP_trapcause (k : Core) (i : Fin 8) (x : Bool) : (k.setP i x).trapcause = k.trapcause := by unfold Core.setP; split <;> rfl
@[simp] theorem Core.setP_trappc (k : Core) (i : Fin 8) (x : Bool) : (k.setP i x).trappc = k.trappc := by unfold Core.setP; split <;> rfl
@[simp] theorem Core.setP_trapval (k : Core) (i : Fin 8) (x : Bool) : (k.setP i x).trapval = k.trapval := by unfold Core.setP; split <;> rfl
@[simp] theorem Core.setP_heldFlags (k : Core) (i : Fin 8) (x : Bool) : (k.setP i x).heldFlags = k.heldFlags := by unfold Core.setP; split <;> rfl
@[simp] theorem Core.setP_ls (k : Core) (i : Fin 8) (x : Bool) : (k.setP i x).ls = k.ls := by unfold Core.setP; split <;> rfl
@[simp] theorem Core.setP_eng (k : Core) (i : Fin 8) (x : Bool) : (k.setP i x).eng = k.eng := by unfold Core.setP; split <;> rfl
@[simp] theorem Core.setP_pc (k : Core) (i : Fin 8) (x : Bool) : (k.setP i x).pc = k.pc := by unfold Core.setP; split <;> rfl
@[simp] theorem Core.setP_fire (k : Core) (i : Fin 8) (x : Bool) : (k.setP i x).fire = k.fire := by unfold Core.setP; split <;> rfl
@[simp] theorem Core.setP_starting (k : Core) (i : Fin 8) (x : Bool) : (k.setP i x).starting = k.starting := by unfold Core.setP; split <;> rfl
@[simp] theorem Core.setP_susp (k : Core) (i : Fin 8) (x : Bool) : (k.setP i x).susp = k.susp := by unfold Core.setP; split <;> rfl
@[simp] theorem Core.setP_hold (k : Core) (i : Fin 8) (x : Bool) : (k.setP i x).hold = k.hold := by unfold Core.setP; split <;> rfl
@[simp] theorem Core.setP_gang (k : Core) (i : Fin 8) (x : Bool) : (k.setP i x).gang = k.gang := by unfold Core.setP; split <;> rfl
@[simp] theorem Core.setP_gx (k : Core) (i : Fin 8) (x : Bool) : (k.setP i x).gx = k.gx := by unfold Core.setP; split <;> rfl
@[simp] theorem Core.setP_gy (k : Core) (i : Fin 8) (x : Bool) : (k.setP i x).gy = k.gy := by unfold Core.setP; split <;> rfl
@[simp] theorem Core.setP_first0 (k : Core) (i : Fin 8) (x : Bool) : (k.setP i x).first0 = k.first0 := by unfold Core.setP; split <;> rfl
@[simp] theorem Core.setP_last (k : Core) (i : Fin 8) (x : Bool) : (k.setP i x).last = k.last := by unfold Core.setP; split <;> rfl
@[simp] theorem Core.setP_rot (k : Core) (i : Fin 8) (x : Bool) : (k.setP i x).rot = k.rot := by unfold Core.setP; split <;> rfl
@[simp] theorem Core.setP_exhausted (k : Core) (i : Fin 8) (x : Bool) : (k.setP i x).exhausted = k.exhausted := by unfold Core.setP; split <;> rfl
@[simp] theorem Core.setP_haloPend (k : Core) (i : Fin 8) (x : Bool) : (k.setP i x).haloPend = k.haloPend := by unfold Core.setP; split <;> rfl
@[simp] theorem Core.setP_edges (k : Core) (i : Fin 8) (x : Bool) : (k.setP i x).edges = k.edges := by unfold Core.setP; split <;> rfl
@[simp] theorem Core.setP_l1 (k : Core) (i : Fin 8) (x : Bool) : (k.setP i x).l1 = k.l1 := by unfold Core.setP; split <;> rfl
@[simp] theorem Core.setP_tlb (k : Core) (i : Fin 8) (x : Bool) : (k.setP i x).tlb = k.tlb := by unfold Core.setP; split <;> rfl
@[simp] theorem Core.setP_tlb2 (k : Core) (i : Fin 8) (x : Bool) : (k.setP i x).tlb2 = k.tlb2 := by unfold Core.setP; split <;> rfl
@[simp] theorem Core.setP_cdesc (k : Core) (i : Fin 8) (x : Bool) : (k.setP i x).cdesc = k.cdesc := by unfold Core.setP; split <;> rfl
@[simp] theorem Core.setP_edesc (k : Core) (i : Fin 8) (x : Bool) : (k.setP i x).edesc = k.edesc := by unfold Core.setP; split <;> rfl
@[simp] theorem Core.setP_issueMark (k : Core) (i : Fin 8) (x : Bool) : (k.setP i x).issueMark = k.issueMark := by unfold Core.setP; split <;> rfl
@[simp] theorem Core.setP_lastIssue (k : Core) (i : Fin 8) (x : Bool) : (k.setP i x).lastIssue = k.lastIssue := by unfold Core.setP; split <;> rfl
@[simp] theorem Core.setP_readyMark (k : Core) (i : Fin 8) (x : Bool) : (k.setP i x).readyMark = k.readyMark := by unfold Core.setP; split <;> rfl

/-! ### Core.setM -/

@[simp] theorem Core.setM_s (k : Core) (i : Fin 8) (x : BitVec 8192) : (k.setM i x).s = k.s := by unfold Core.setM; split <;> rfl
@[simp] theorem Core.setM_p (k : Core) (i : Fin 8) (x : BitVec 8192) : (k.setM i x).p = k.p := by unfold Core.setM; split <;> rfl
@[simp] theorem Core.setM_lc (k : Core) (i : Fin 8) (x : BitVec 8192) : (k.setM i x).lc = k.lc := by unfold Core.setM; split <;> rfl
@[simp] theorem Core.setM_lcl (k : Core) (i : Fin 8) (x : BitVec 8192) : (k.setM i x).lcl = k.lcl := by unfold Core.setM; split <;> rfl
@[simp] theorem Core.setM_v (k : Core) (i : Fin 8) (x : BitVec 8192) : (k.setM i x).v = k.v := by unfold Core.setM; split <;> rfl
@[simp] theorem Core.setM_strip (k : Core) (i : Fin 8) (x : BitVec 8192) : (k.setM i x).strip = k.strip := by unfold Core.setM; split <;> rfl
@[simp] theorem Core.setM_shp (k : Core) (i : Fin 8) (x : BitVec 8192) : (k.setM i x).shp = k.shp := by unfold Core.setM; split <;> rfl
@[simp] theorem Core.setM_acc (k : Core) (i : Fin 8) (x : BitVec 8192) : (k.setM i x).acc = k.acc := by unfold Core.setM; split <;> rfl
@[simp] theorem Core.setM_keep (k : Core) (i : Fin 8) (x : BitVec 8192) : (k.setM i x).keep = k.keep := by unfold Core.setM; split <;> rfl
@[simp] theorem Core.setM_fpmode (k : Core) (i : Fin 8) (x : BitVec 8192) : (k.setM i x).fpmode = k.fpmode := by unfold Core.setM; split <;> rfl
@[simp] theorem Core.setM_fpflags (k : Core) (i : Fin 8) (x : BitVec 8192) : (k.setM i x).fpflags = k.fpflags := by unfold Core.setM; split <;> rfl
@[simp] theorem Core.setM_lfsr (k : Core) (i : Fin 8) (x : BitVec 8192) : (k.setM i x).lfsr = k.lfsr := by unfold Core.setM; split <;> rfl
@[simp] theorem Core.setM_trapcause (k : Core) (i : Fin 8) (x : BitVec 8192) : (k.setM i x).trapcause = k.trapcause := by unfold Core.setM; split <;> rfl
@[simp] theorem Core.setM_trappc (k : Core) (i : Fin 8) (x : BitVec 8192) : (k.setM i x).trappc = k.trappc := by unfold Core.setM; split <;> rfl
@[simp] theorem Core.setM_trapval (k : Core) (i : Fin 8) (x : BitVec 8192) : (k.setM i x).trapval = k.trapval := by unfold Core.setM; split <;> rfl
@[simp] theorem Core.setM_heldFlags (k : Core) (i : Fin 8) (x : BitVec 8192) : (k.setM i x).heldFlags = k.heldFlags := by unfold Core.setM; split <;> rfl
@[simp] theorem Core.setM_ls (k : Core) (i : Fin 8) (x : BitVec 8192) : (k.setM i x).ls = k.ls := by unfold Core.setM; split <;> rfl
@[simp] theorem Core.setM_eng (k : Core) (i : Fin 8) (x : BitVec 8192) : (k.setM i x).eng = k.eng := by unfold Core.setM; split <;> rfl
@[simp] theorem Core.setM_pc (k : Core) (i : Fin 8) (x : BitVec 8192) : (k.setM i x).pc = k.pc := by unfold Core.setM; split <;> rfl
@[simp] theorem Core.setM_fire (k : Core) (i : Fin 8) (x : BitVec 8192) : (k.setM i x).fire = k.fire := by unfold Core.setM; split <;> rfl
@[simp] theorem Core.setM_starting (k : Core) (i : Fin 8) (x : BitVec 8192) : (k.setM i x).starting = k.starting := by unfold Core.setM; split <;> rfl
@[simp] theorem Core.setM_susp (k : Core) (i : Fin 8) (x : BitVec 8192) : (k.setM i x).susp = k.susp := by unfold Core.setM; split <;> rfl
@[simp] theorem Core.setM_hold (k : Core) (i : Fin 8) (x : BitVec 8192) : (k.setM i x).hold = k.hold := by unfold Core.setM; split <;> rfl
@[simp] theorem Core.setM_gang (k : Core) (i : Fin 8) (x : BitVec 8192) : (k.setM i x).gang = k.gang := by unfold Core.setM; split <;> rfl
@[simp] theorem Core.setM_gx (k : Core) (i : Fin 8) (x : BitVec 8192) : (k.setM i x).gx = k.gx := by unfold Core.setM; split <;> rfl
@[simp] theorem Core.setM_gy (k : Core) (i : Fin 8) (x : BitVec 8192) : (k.setM i x).gy = k.gy := by unfold Core.setM; split <;> rfl
@[simp] theorem Core.setM_first0 (k : Core) (i : Fin 8) (x : BitVec 8192) : (k.setM i x).first0 = k.first0 := by unfold Core.setM; split <;> rfl
@[simp] theorem Core.setM_last (k : Core) (i : Fin 8) (x : BitVec 8192) : (k.setM i x).last = k.last := by unfold Core.setM; split <;> rfl
@[simp] theorem Core.setM_rot (k : Core) (i : Fin 8) (x : BitVec 8192) : (k.setM i x).rot = k.rot := by unfold Core.setM; split <;> rfl
@[simp] theorem Core.setM_exhausted (k : Core) (i : Fin 8) (x : BitVec 8192) : (k.setM i x).exhausted = k.exhausted := by unfold Core.setM; split <;> rfl
@[simp] theorem Core.setM_haloPend (k : Core) (i : Fin 8) (x : BitVec 8192) : (k.setM i x).haloPend = k.haloPend := by unfold Core.setM; split <;> rfl
@[simp] theorem Core.setM_edges (k : Core) (i : Fin 8) (x : BitVec 8192) : (k.setM i x).edges = k.edges := by unfold Core.setM; split <;> rfl
@[simp] theorem Core.setM_l1 (k : Core) (i : Fin 8) (x : BitVec 8192) : (k.setM i x).l1 = k.l1 := by unfold Core.setM; split <;> rfl
@[simp] theorem Core.setM_tlb (k : Core) (i : Fin 8) (x : BitVec 8192) : (k.setM i x).tlb = k.tlb := by unfold Core.setM; split <;> rfl
@[simp] theorem Core.setM_tlb2 (k : Core) (i : Fin 8) (x : BitVec 8192) : (k.setM i x).tlb2 = k.tlb2 := by unfold Core.setM; split <;> rfl
@[simp] theorem Core.setM_cdesc (k : Core) (i : Fin 8) (x : BitVec 8192) : (k.setM i x).cdesc = k.cdesc := by unfold Core.setM; split <;> rfl
@[simp] theorem Core.setM_edesc (k : Core) (i : Fin 8) (x : BitVec 8192) : (k.setM i x).edesc = k.edesc := by unfold Core.setM; split <;> rfl
@[simp] theorem Core.setM_issueMark (k : Core) (i : Fin 8) (x : BitVec 8192) : (k.setM i x).issueMark = k.issueMark := by unfold Core.setM; split <;> rfl
@[simp] theorem Core.setM_lastIssue (k : Core) (i : Fin 8) (x : BitVec 8192) : (k.setM i x).lastIssue = k.lastIssue := by unfold Core.setM; split <;> rfl
@[simp] theorem Core.setM_readyMark (k : Core) (i : Fin 8) (x : BitVec 8192) : (k.setM i x).readyMark = k.readyMark := by unfold Core.setM; split <;> rfl

/-! ### Core.setK -/

@[simp] theorem Core.setK_s (k : Core) (b : Fin 8) (i : Fin 16) (x : Word) : (k.setK b i x).s = k.s := rfl
@[simp] theorem Core.setK_p (k : Core) (b : Fin 8) (i : Fin 16) (x : Word) : (k.setK b i x).p = k.p := rfl
@[simp] theorem Core.setK_lc (k : Core) (b : Fin 8) (i : Fin 16) (x : Word) : (k.setK b i x).lc = k.lc := rfl
@[simp] theorem Core.setK_lcl (k : Core) (b : Fin 8) (i : Fin 16) (x : Word) : (k.setK b i x).lcl = k.lcl := rfl
@[simp] theorem Core.setK_v (k : Core) (b : Fin 8) (i : Fin 16) (x : Word) : (k.setK b i x).v = k.v := rfl
@[simp] theorem Core.setK_strip (k : Core) (b : Fin 8) (i : Fin 16) (x : Word) : (k.setK b i x).strip = k.strip := rfl
@[simp] theorem Core.setK_shp (k : Core) (b : Fin 8) (i : Fin 16) (x : Word) : (k.setK b i x).shp = k.shp := rfl
@[simp] theorem Core.setK_acc (k : Core) (b : Fin 8) (i : Fin 16) (x : Word) : (k.setK b i x).acc = k.acc := rfl
@[simp] theorem Core.setK_m (k : Core) (b : Fin 8) (i : Fin 16) (x : Word) : (k.setK b i x).m = k.m := rfl
@[simp] theorem Core.setK_fpmode (k : Core) (b : Fin 8) (i : Fin 16) (x : Word) : (k.setK b i x).fpmode = k.fpmode := rfl
@[simp] theorem Core.setK_fpflags (k : Core) (b : Fin 8) (i : Fin 16) (x : Word) : (k.setK b i x).fpflags = k.fpflags := rfl
@[simp] theorem Core.setK_lfsr (k : Core) (b : Fin 8) (i : Fin 16) (x : Word) : (k.setK b i x).lfsr = k.lfsr := rfl
@[simp] theorem Core.setK_trapcause (k : Core) (b : Fin 8) (i : Fin 16) (x : Word) : (k.setK b i x).trapcause = k.trapcause := rfl
@[simp] theorem Core.setK_trappc (k : Core) (b : Fin 8) (i : Fin 16) (x : Word) : (k.setK b i x).trappc = k.trappc := rfl
@[simp] theorem Core.setK_trapval (k : Core) (b : Fin 8) (i : Fin 16) (x : Word) : (k.setK b i x).trapval = k.trapval := rfl
@[simp] theorem Core.setK_heldFlags (k : Core) (b : Fin 8) (i : Fin 16) (x : Word) : (k.setK b i x).heldFlags = k.heldFlags := rfl
@[simp] theorem Core.setK_ls (k : Core) (b : Fin 8) (i : Fin 16) (x : Word) : (k.setK b i x).ls = k.ls := rfl
@[simp] theorem Core.setK_eng (k : Core) (b : Fin 8) (i : Fin 16) (x : Word) : (k.setK b i x).eng = k.eng := rfl
@[simp] theorem Core.setK_pc (k : Core) (b : Fin 8) (i : Fin 16) (x : Word) : (k.setK b i x).pc = k.pc := rfl
@[simp] theorem Core.setK_fire (k : Core) (b : Fin 8) (i : Fin 16) (x : Word) : (k.setK b i x).fire = k.fire := rfl
@[simp] theorem Core.setK_starting (k : Core) (b : Fin 8) (i : Fin 16) (x : Word) : (k.setK b i x).starting = k.starting := rfl
@[simp] theorem Core.setK_susp (k : Core) (b : Fin 8) (i : Fin 16) (x : Word) : (k.setK b i x).susp = k.susp := rfl
@[simp] theorem Core.setK_hold (k : Core) (b : Fin 8) (i : Fin 16) (x : Word) : (k.setK b i x).hold = k.hold := rfl
@[simp] theorem Core.setK_gang (k : Core) (b : Fin 8) (i : Fin 16) (x : Word) : (k.setK b i x).gang = k.gang := rfl
@[simp] theorem Core.setK_gx (k : Core) (b : Fin 8) (i : Fin 16) (x : Word) : (k.setK b i x).gx = k.gx := rfl
@[simp] theorem Core.setK_gy (k : Core) (b : Fin 8) (i : Fin 16) (x : Word) : (k.setK b i x).gy = k.gy := rfl
@[simp] theorem Core.setK_first0 (k : Core) (b : Fin 8) (i : Fin 16) (x : Word) : (k.setK b i x).first0 = k.first0 := rfl
@[simp] theorem Core.setK_last (k : Core) (b : Fin 8) (i : Fin 16) (x : Word) : (k.setK b i x).last = k.last := rfl
@[simp] theorem Core.setK_rot (k : Core) (b : Fin 8) (i : Fin 16) (x : Word) : (k.setK b i x).rot = k.rot := rfl
@[simp] theorem Core.setK_exhausted (k : Core) (b : Fin 8) (i : Fin 16) (x : Word) : (k.setK b i x).exhausted = k.exhausted := rfl
@[simp] theorem Core.setK_haloPend (k : Core) (b : Fin 8) (i : Fin 16) (x : Word) : (k.setK b i x).haloPend = k.haloPend := rfl
@[simp] theorem Core.setK_edges (k : Core) (b : Fin 8) (i : Fin 16) (x : Word) : (k.setK b i x).edges = k.edges := rfl
@[simp] theorem Core.setK_l1 (k : Core) (b : Fin 8) (i : Fin 16) (x : Word) : (k.setK b i x).l1 = k.l1 := rfl
@[simp] theorem Core.setK_tlb (k : Core) (b : Fin 8) (i : Fin 16) (x : Word) : (k.setK b i x).tlb = k.tlb := rfl
@[simp] theorem Core.setK_tlb2 (k : Core) (b : Fin 8) (i : Fin 16) (x : Word) : (k.setK b i x).tlb2 = k.tlb2 := rfl
@[simp] theorem Core.setK_cdesc (k : Core) (b : Fin 8) (i : Fin 16) (x : Word) : (k.setK b i x).cdesc = k.cdesc := rfl
@[simp] theorem Core.setK_edesc (k : Core) (b : Fin 8) (i : Fin 16) (x : Word) : (k.setK b i x).edesc = k.edesc := rfl
@[simp] theorem Core.setK_issueMark (k : Core) (b : Fin 8) (i : Fin 16) (x : Word) : (k.setK b i x).issueMark = k.issueMark := rfl
@[simp] theorem Core.setK_lastIssue (k : Core) (b : Fin 8) (i : Fin 16) (x : Word) : (k.setK b i x).lastIssue = k.lastIssue := rfl
@[simp] theorem Core.setK_readyMark (k : Core) (b : Fin 8) (i : Fin 16) (x : Word) : (k.setK b i x).readyMark = k.readyMark := rfl

/-! ### Core.setElems -/

@[simp] theorem Core.setElems_s (k : Core) (p : Fin 32) (w : Nat) (l : List (Nat × Nat)) : (k.setElems p w l).s = k.s := rfl
@[simp] theorem Core.setElems_p (k : Core) (p : Fin 32) (w : Nat) (l : List (Nat × Nat)) : (k.setElems p w l).p = k.p := rfl
@[simp] theorem Core.setElems_lc (k : Core) (p : Fin 32) (w : Nat) (l : List (Nat × Nat)) : (k.setElems p w l).lc = k.lc := rfl
@[simp] theorem Core.setElems_lcl (k : Core) (p : Fin 32) (w : Nat) (l : List (Nat × Nat)) : (k.setElems p w l).lcl = k.lcl := rfl
@[simp] theorem Core.setElems_strip (k : Core) (p : Fin 32) (w : Nat) (l : List (Nat × Nat)) : (k.setElems p w l).strip = k.strip := rfl
@[simp] theorem Core.setElems_shp (k : Core) (p : Fin 32) (w : Nat) (l : List (Nat × Nat)) : (k.setElems p w l).shp = k.shp := rfl
@[simp] theorem Core.setElems_acc (k : Core) (p : Fin 32) (w : Nat) (l : List (Nat × Nat)) : (k.setElems p w l).acc = k.acc := rfl
@[simp] theorem Core.setElems_m (k : Core) (p : Fin 32) (w : Nat) (l : List (Nat × Nat)) : (k.setElems p w l).m = k.m := rfl
@[simp] theorem Core.setElems_keep (k : Core) (p : Fin 32) (w : Nat) (l : List (Nat × Nat)) : (k.setElems p w l).keep = k.keep := rfl
@[simp] theorem Core.setElems_fpmode (k : Core) (p : Fin 32) (w : Nat) (l : List (Nat × Nat)) : (k.setElems p w l).fpmode = k.fpmode := rfl
@[simp] theorem Core.setElems_fpflags (k : Core) (p : Fin 32) (w : Nat) (l : List (Nat × Nat)) : (k.setElems p w l).fpflags = k.fpflags := rfl
@[simp] theorem Core.setElems_lfsr (k : Core) (p : Fin 32) (w : Nat) (l : List (Nat × Nat)) : (k.setElems p w l).lfsr = k.lfsr := rfl
@[simp] theorem Core.setElems_trapcause (k : Core) (p : Fin 32) (w : Nat) (l : List (Nat × Nat)) : (k.setElems p w l).trapcause = k.trapcause := rfl
@[simp] theorem Core.setElems_trappc (k : Core) (p : Fin 32) (w : Nat) (l : List (Nat × Nat)) : (k.setElems p w l).trappc = k.trappc := rfl
@[simp] theorem Core.setElems_trapval (k : Core) (p : Fin 32) (w : Nat) (l : List (Nat × Nat)) : (k.setElems p w l).trapval = k.trapval := rfl
@[simp] theorem Core.setElems_heldFlags (k : Core) (p : Fin 32) (w : Nat) (l : List (Nat × Nat)) : (k.setElems p w l).heldFlags = k.heldFlags := rfl
@[simp] theorem Core.setElems_ls (k : Core) (p : Fin 32) (w : Nat) (l : List (Nat × Nat)) : (k.setElems p w l).ls = k.ls := rfl
@[simp] theorem Core.setElems_eng (k : Core) (p : Fin 32) (w : Nat) (l : List (Nat × Nat)) : (k.setElems p w l).eng = k.eng := rfl
@[simp] theorem Core.setElems_pc (k : Core) (p : Fin 32) (w : Nat) (l : List (Nat × Nat)) : (k.setElems p w l).pc = k.pc := rfl
@[simp] theorem Core.setElems_fire (k : Core) (p : Fin 32) (w : Nat) (l : List (Nat × Nat)) : (k.setElems p w l).fire = k.fire := rfl
@[simp] theorem Core.setElems_starting (k : Core) (p : Fin 32) (w : Nat) (l : List (Nat × Nat)) : (k.setElems p w l).starting = k.starting := rfl
@[simp] theorem Core.setElems_susp (k : Core) (p : Fin 32) (w : Nat) (l : List (Nat × Nat)) : (k.setElems p w l).susp = k.susp := rfl
@[simp] theorem Core.setElems_hold (k : Core) (p : Fin 32) (w : Nat) (l : List (Nat × Nat)) : (k.setElems p w l).hold = k.hold := rfl
@[simp] theorem Core.setElems_gang (k : Core) (p : Fin 32) (w : Nat) (l : List (Nat × Nat)) : (k.setElems p w l).gang = k.gang := rfl
@[simp] theorem Core.setElems_gx (k : Core) (p : Fin 32) (w : Nat) (l : List (Nat × Nat)) : (k.setElems p w l).gx = k.gx := rfl
@[simp] theorem Core.setElems_gy (k : Core) (p : Fin 32) (w : Nat) (l : List (Nat × Nat)) : (k.setElems p w l).gy = k.gy := rfl
@[simp] theorem Core.setElems_first0 (k : Core) (p : Fin 32) (w : Nat) (l : List (Nat × Nat)) : (k.setElems p w l).first0 = k.first0 := rfl
@[simp] theorem Core.setElems_last (k : Core) (p : Fin 32) (w : Nat) (l : List (Nat × Nat)) : (k.setElems p w l).last = k.last := rfl
@[simp] theorem Core.setElems_rot (k : Core) (p : Fin 32) (w : Nat) (l : List (Nat × Nat)) : (k.setElems p w l).rot = k.rot := rfl
@[simp] theorem Core.setElems_exhausted (k : Core) (p : Fin 32) (w : Nat) (l : List (Nat × Nat)) : (k.setElems p w l).exhausted = k.exhausted := rfl
@[simp] theorem Core.setElems_haloPend (k : Core) (p : Fin 32) (w : Nat) (l : List (Nat × Nat)) : (k.setElems p w l).haloPend = k.haloPend := rfl
@[simp] theorem Core.setElems_edges (k : Core) (p : Fin 32) (w : Nat) (l : List (Nat × Nat)) : (k.setElems p w l).edges = k.edges := rfl
@[simp] theorem Core.setElems_l1 (k : Core) (p : Fin 32) (w : Nat) (l : List (Nat × Nat)) : (k.setElems p w l).l1 = k.l1 := rfl
@[simp] theorem Core.setElems_tlb (k : Core) (p : Fin 32) (w : Nat) (l : List (Nat × Nat)) : (k.setElems p w l).tlb = k.tlb := rfl
@[simp] theorem Core.setElems_tlb2 (k : Core) (p : Fin 32) (w : Nat) (l : List (Nat × Nat)) : (k.setElems p w l).tlb2 = k.tlb2 := rfl
@[simp] theorem Core.setElems_cdesc (k : Core) (p : Fin 32) (w : Nat) (l : List (Nat × Nat)) : (k.setElems p w l).cdesc = k.cdesc := rfl
@[simp] theorem Core.setElems_edesc (k : Core) (p : Fin 32) (w : Nat) (l : List (Nat × Nat)) : (k.setElems p w l).edesc = k.edesc := rfl
@[simp] theorem Core.setElems_issueMark (k : Core) (p : Fin 32) (w : Nat) (l : List (Nat × Nat)) : (k.setElems p w l).issueMark = k.issueMark := rfl
@[simp] theorem Core.setElems_lastIssue (k : Core) (p : Fin 32) (w : Nat) (l : List (Nat × Nat)) : (k.setElems p w l).lastIssue = k.lastIssue := rfl
@[simp] theorem Core.setElems_readyMark (k : Core) (p : Fin 32) (w : Nat) (l : List (Nat × Nat)) : (k.setElems p w l).readyMark = k.readyMark := rfl

/-! ### Core.setStrip -/

@[simp] theorem Core.setStrip_s (k : Core) (p : Fin 32) (l : List (Nat × Nat)) : (k.setStrip p l).s = k.s := rfl
@[simp] theorem Core.setStrip_p (k : Core) (p : Fin 32) (l : List (Nat × Nat)) : (k.setStrip p l).p = k.p := rfl
@[simp] theorem Core.setStrip_lc (k : Core) (p : Fin 32) (l : List (Nat × Nat)) : (k.setStrip p l).lc = k.lc := rfl
@[simp] theorem Core.setStrip_lcl (k : Core) (p : Fin 32) (l : List (Nat × Nat)) : (k.setStrip p l).lcl = k.lcl := rfl
@[simp] theorem Core.setStrip_v (k : Core) (p : Fin 32) (l : List (Nat × Nat)) : (k.setStrip p l).v = k.v := rfl
@[simp] theorem Core.setStrip_shp (k : Core) (p : Fin 32) (l : List (Nat × Nat)) : (k.setStrip p l).shp = k.shp := rfl
@[simp] theorem Core.setStrip_acc (k : Core) (p : Fin 32) (l : List (Nat × Nat)) : (k.setStrip p l).acc = k.acc := rfl
@[simp] theorem Core.setStrip_m (k : Core) (p : Fin 32) (l : List (Nat × Nat)) : (k.setStrip p l).m = k.m := rfl
@[simp] theorem Core.setStrip_keep (k : Core) (p : Fin 32) (l : List (Nat × Nat)) : (k.setStrip p l).keep = k.keep := rfl
@[simp] theorem Core.setStrip_fpmode (k : Core) (p : Fin 32) (l : List (Nat × Nat)) : (k.setStrip p l).fpmode = k.fpmode := rfl
@[simp] theorem Core.setStrip_fpflags (k : Core) (p : Fin 32) (l : List (Nat × Nat)) : (k.setStrip p l).fpflags = k.fpflags := rfl
@[simp] theorem Core.setStrip_lfsr (k : Core) (p : Fin 32) (l : List (Nat × Nat)) : (k.setStrip p l).lfsr = k.lfsr := rfl
@[simp] theorem Core.setStrip_trapcause (k : Core) (p : Fin 32) (l : List (Nat × Nat)) : (k.setStrip p l).trapcause = k.trapcause := rfl
@[simp] theorem Core.setStrip_trappc (k : Core) (p : Fin 32) (l : List (Nat × Nat)) : (k.setStrip p l).trappc = k.trappc := rfl
@[simp] theorem Core.setStrip_trapval (k : Core) (p : Fin 32) (l : List (Nat × Nat)) : (k.setStrip p l).trapval = k.trapval := rfl
@[simp] theorem Core.setStrip_heldFlags (k : Core) (p : Fin 32) (l : List (Nat × Nat)) : (k.setStrip p l).heldFlags = k.heldFlags := rfl
@[simp] theorem Core.setStrip_ls (k : Core) (p : Fin 32) (l : List (Nat × Nat)) : (k.setStrip p l).ls = k.ls := rfl
@[simp] theorem Core.setStrip_eng (k : Core) (p : Fin 32) (l : List (Nat × Nat)) : (k.setStrip p l).eng = k.eng := rfl
@[simp] theorem Core.setStrip_pc (k : Core) (p : Fin 32) (l : List (Nat × Nat)) : (k.setStrip p l).pc = k.pc := rfl
@[simp] theorem Core.setStrip_fire (k : Core) (p : Fin 32) (l : List (Nat × Nat)) : (k.setStrip p l).fire = k.fire := rfl
@[simp] theorem Core.setStrip_starting (k : Core) (p : Fin 32) (l : List (Nat × Nat)) : (k.setStrip p l).starting = k.starting := rfl
@[simp] theorem Core.setStrip_susp (k : Core) (p : Fin 32) (l : List (Nat × Nat)) : (k.setStrip p l).susp = k.susp := rfl
@[simp] theorem Core.setStrip_hold (k : Core) (p : Fin 32) (l : List (Nat × Nat)) : (k.setStrip p l).hold = k.hold := rfl
@[simp] theorem Core.setStrip_gang (k : Core) (p : Fin 32) (l : List (Nat × Nat)) : (k.setStrip p l).gang = k.gang := rfl
@[simp] theorem Core.setStrip_gx (k : Core) (p : Fin 32) (l : List (Nat × Nat)) : (k.setStrip p l).gx = k.gx := rfl
@[simp] theorem Core.setStrip_gy (k : Core) (p : Fin 32) (l : List (Nat × Nat)) : (k.setStrip p l).gy = k.gy := rfl
@[simp] theorem Core.setStrip_first0 (k : Core) (p : Fin 32) (l : List (Nat × Nat)) : (k.setStrip p l).first0 = k.first0 := rfl
@[simp] theorem Core.setStrip_last (k : Core) (p : Fin 32) (l : List (Nat × Nat)) : (k.setStrip p l).last = k.last := rfl
@[simp] theorem Core.setStrip_rot (k : Core) (p : Fin 32) (l : List (Nat × Nat)) : (k.setStrip p l).rot = k.rot := rfl
@[simp] theorem Core.setStrip_exhausted (k : Core) (p : Fin 32) (l : List (Nat × Nat)) : (k.setStrip p l).exhausted = k.exhausted := rfl
@[simp] theorem Core.setStrip_haloPend (k : Core) (p : Fin 32) (l : List (Nat × Nat)) : (k.setStrip p l).haloPend = k.haloPend := rfl
@[simp] theorem Core.setStrip_edges (k : Core) (p : Fin 32) (l : List (Nat × Nat)) : (k.setStrip p l).edges = k.edges := rfl
@[simp] theorem Core.setStrip_l1 (k : Core) (p : Fin 32) (l : List (Nat × Nat)) : (k.setStrip p l).l1 = k.l1 := rfl
@[simp] theorem Core.setStrip_tlb (k : Core) (p : Fin 32) (l : List (Nat × Nat)) : (k.setStrip p l).tlb = k.tlb := rfl
@[simp] theorem Core.setStrip_tlb2 (k : Core) (p : Fin 32) (l : List (Nat × Nat)) : (k.setStrip p l).tlb2 = k.tlb2 := rfl
@[simp] theorem Core.setStrip_cdesc (k : Core) (p : Fin 32) (l : List (Nat × Nat)) : (k.setStrip p l).cdesc = k.cdesc := rfl
@[simp] theorem Core.setStrip_edesc (k : Core) (p : Fin 32) (l : List (Nat × Nat)) : (k.setStrip p l).edesc = k.edesc := rfl
@[simp] theorem Core.setStrip_issueMark (k : Core) (p : Fin 32) (l : List (Nat × Nat)) : (k.setStrip p l).issueMark = k.issueMark := rfl
@[simp] theorem Core.setStrip_lastIssue (k : Core) (p : Fin 32) (l : List (Nat × Nat)) : (k.setStrip p l).lastIssue = k.lastIssue := rfl
@[simp] theorem Core.setStrip_readyMark (k : Core) (p : Fin 32) (l : List (Nat × Nat)) : (k.setStrip p l).readyMark = k.readyMark := rfl

/-! ### Core.lsWrite -/

@[simp] theorem Core.lsWrite_s (k : Core) (a n x : Nat) : (k.lsWrite a n x).s = k.s := rfl
@[simp] theorem Core.lsWrite_p (k : Core) (a n x : Nat) : (k.lsWrite a n x).p = k.p := rfl
@[simp] theorem Core.lsWrite_lc (k : Core) (a n x : Nat) : (k.lsWrite a n x).lc = k.lc := rfl
@[simp] theorem Core.lsWrite_lcl (k : Core) (a n x : Nat) : (k.lsWrite a n x).lcl = k.lcl := rfl
@[simp] theorem Core.lsWrite_v (k : Core) (a n x : Nat) : (k.lsWrite a n x).v = k.v := rfl
@[simp] theorem Core.lsWrite_strip (k : Core) (a n x : Nat) : (k.lsWrite a n x).strip = k.strip := rfl
@[simp] theorem Core.lsWrite_shp (k : Core) (a n x : Nat) : (k.lsWrite a n x).shp = k.shp := rfl
@[simp] theorem Core.lsWrite_acc (k : Core) (a n x : Nat) : (k.lsWrite a n x).acc = k.acc := rfl
@[simp] theorem Core.lsWrite_m (k : Core) (a n x : Nat) : (k.lsWrite a n x).m = k.m := rfl
@[simp] theorem Core.lsWrite_keep (k : Core) (a n x : Nat) : (k.lsWrite a n x).keep = k.keep := rfl
@[simp] theorem Core.lsWrite_fpmode (k : Core) (a n x : Nat) : (k.lsWrite a n x).fpmode = k.fpmode := rfl
@[simp] theorem Core.lsWrite_fpflags (k : Core) (a n x : Nat) : (k.lsWrite a n x).fpflags = k.fpflags := rfl
@[simp] theorem Core.lsWrite_lfsr (k : Core) (a n x : Nat) : (k.lsWrite a n x).lfsr = k.lfsr := rfl
@[simp] theorem Core.lsWrite_trapcause (k : Core) (a n x : Nat) : (k.lsWrite a n x).trapcause = k.trapcause := rfl
@[simp] theorem Core.lsWrite_trappc (k : Core) (a n x : Nat) : (k.lsWrite a n x).trappc = k.trappc := rfl
@[simp] theorem Core.lsWrite_trapval (k : Core) (a n x : Nat) : (k.lsWrite a n x).trapval = k.trapval := rfl
@[simp] theorem Core.lsWrite_heldFlags (k : Core) (a n x : Nat) : (k.lsWrite a n x).heldFlags = k.heldFlags := rfl
@[simp] theorem Core.lsWrite_eng (k : Core) (a n x : Nat) : (k.lsWrite a n x).eng = k.eng := rfl
@[simp] theorem Core.lsWrite_pc (k : Core) (a n x : Nat) : (k.lsWrite a n x).pc = k.pc := rfl
@[simp] theorem Core.lsWrite_fire (k : Core) (a n x : Nat) : (k.lsWrite a n x).fire = k.fire := rfl
@[simp] theorem Core.lsWrite_starting (k : Core) (a n x : Nat) : (k.lsWrite a n x).starting = k.starting := rfl
@[simp] theorem Core.lsWrite_susp (k : Core) (a n x : Nat) : (k.lsWrite a n x).susp = k.susp := rfl
@[simp] theorem Core.lsWrite_hold (k : Core) (a n x : Nat) : (k.lsWrite a n x).hold = k.hold := rfl
@[simp] theorem Core.lsWrite_gang (k : Core) (a n x : Nat) : (k.lsWrite a n x).gang = k.gang := rfl
@[simp] theorem Core.lsWrite_gx (k : Core) (a n x : Nat) : (k.lsWrite a n x).gx = k.gx := rfl
@[simp] theorem Core.lsWrite_gy (k : Core) (a n x : Nat) : (k.lsWrite a n x).gy = k.gy := rfl
@[simp] theorem Core.lsWrite_first0 (k : Core) (a n x : Nat) : (k.lsWrite a n x).first0 = k.first0 := rfl
@[simp] theorem Core.lsWrite_last (k : Core) (a n x : Nat) : (k.lsWrite a n x).last = k.last := rfl
@[simp] theorem Core.lsWrite_rot (k : Core) (a n x : Nat) : (k.lsWrite a n x).rot = k.rot := rfl
@[simp] theorem Core.lsWrite_exhausted (k : Core) (a n x : Nat) : (k.lsWrite a n x).exhausted = k.exhausted := rfl
@[simp] theorem Core.lsWrite_haloPend (k : Core) (a n x : Nat) : (k.lsWrite a n x).haloPend = k.haloPend := rfl
@[simp] theorem Core.lsWrite_edges (k : Core) (a n x : Nat) : (k.lsWrite a n x).edges = k.edges := rfl
@[simp] theorem Core.lsWrite_l1 (k : Core) (a n x : Nat) : (k.lsWrite a n x).l1 = k.l1 := rfl
@[simp] theorem Core.lsWrite_tlb (k : Core) (a n x : Nat) : (k.lsWrite a n x).tlb = k.tlb := rfl
@[simp] theorem Core.lsWrite_tlb2 (k : Core) (a n x : Nat) : (k.lsWrite a n x).tlb2 = k.tlb2 := rfl
@[simp] theorem Core.lsWrite_cdesc (k : Core) (a n x : Nat) : (k.lsWrite a n x).cdesc = k.cdesc := rfl
@[simp] theorem Core.lsWrite_edesc (k : Core) (a n x : Nat) : (k.lsWrite a n x).edesc = k.edesc := rfl
@[simp] theorem Core.lsWrite_issueMark (k : Core) (a n x : Nat) : (k.lsWrite a n x).issueMark = k.issueMark := rfl
@[simp] theorem Core.lsWrite_lastIssue (k : Core) (a n x : Nat) : (k.lsWrite a n x).lastIssue = k.lastIssue := rfl
@[simp] theorem Core.lsWrite_readyMark (k : Core) (a n x : Nat) : (k.lsWrite a n x).readyMark = k.readyMark := rfl

/-! ### Core.setEng -/

@[simp] theorem Core.setEng_s (k : Core) (i : Fin 8) (e : EngSlot) : (k.setEng i e).s = k.s := rfl
@[simp] theorem Core.setEng_p (k : Core) (i : Fin 8) (e : EngSlot) : (k.setEng i e).p = k.p := rfl
@[simp] theorem Core.setEng_lc (k : Core) (i : Fin 8) (e : EngSlot) : (k.setEng i e).lc = k.lc := rfl
@[simp] theorem Core.setEng_lcl (k : Core) (i : Fin 8) (e : EngSlot) : (k.setEng i e).lcl = k.lcl := rfl
@[simp] theorem Core.setEng_v (k : Core) (i : Fin 8) (e : EngSlot) : (k.setEng i e).v = k.v := rfl
@[simp] theorem Core.setEng_strip (k : Core) (i : Fin 8) (e : EngSlot) : (k.setEng i e).strip = k.strip := rfl
@[simp] theorem Core.setEng_shp (k : Core) (i : Fin 8) (e : EngSlot) : (k.setEng i e).shp = k.shp := rfl
@[simp] theorem Core.setEng_acc (k : Core) (i : Fin 8) (e : EngSlot) : (k.setEng i e).acc = k.acc := rfl
@[simp] theorem Core.setEng_m (k : Core) (i : Fin 8) (e : EngSlot) : (k.setEng i e).m = k.m := rfl
@[simp] theorem Core.setEng_keep (k : Core) (i : Fin 8) (e : EngSlot) : (k.setEng i e).keep = k.keep := rfl
@[simp] theorem Core.setEng_fpmode (k : Core) (i : Fin 8) (e : EngSlot) : (k.setEng i e).fpmode = k.fpmode := rfl
@[simp] theorem Core.setEng_fpflags (k : Core) (i : Fin 8) (e : EngSlot) : (k.setEng i e).fpflags = k.fpflags := rfl
@[simp] theorem Core.setEng_lfsr (k : Core) (i : Fin 8) (e : EngSlot) : (k.setEng i e).lfsr = k.lfsr := rfl
@[simp] theorem Core.setEng_trapcause (k : Core) (i : Fin 8) (e : EngSlot) : (k.setEng i e).trapcause = k.trapcause := rfl
@[simp] theorem Core.setEng_trappc (k : Core) (i : Fin 8) (e : EngSlot) : (k.setEng i e).trappc = k.trappc := rfl
@[simp] theorem Core.setEng_trapval (k : Core) (i : Fin 8) (e : EngSlot) : (k.setEng i e).trapval = k.trapval := rfl
@[simp] theorem Core.setEng_heldFlags (k : Core) (i : Fin 8) (e : EngSlot) : (k.setEng i e).heldFlags = k.heldFlags := rfl
@[simp] theorem Core.setEng_ls (k : Core) (i : Fin 8) (e : EngSlot) : (k.setEng i e).ls = k.ls := rfl
@[simp] theorem Core.setEng_pc (k : Core) (i : Fin 8) (e : EngSlot) : (k.setEng i e).pc = k.pc := rfl
@[simp] theorem Core.setEng_fire (k : Core) (i : Fin 8) (e : EngSlot) : (k.setEng i e).fire = k.fire := rfl
@[simp] theorem Core.setEng_starting (k : Core) (i : Fin 8) (e : EngSlot) : (k.setEng i e).starting = k.starting := rfl
@[simp] theorem Core.setEng_susp (k : Core) (i : Fin 8) (e : EngSlot) : (k.setEng i e).susp = k.susp := rfl
@[simp] theorem Core.setEng_hold (k : Core) (i : Fin 8) (e : EngSlot) : (k.setEng i e).hold = k.hold := rfl
@[simp] theorem Core.setEng_gang (k : Core) (i : Fin 8) (e : EngSlot) : (k.setEng i e).gang = k.gang := rfl
@[simp] theorem Core.setEng_gx (k : Core) (i : Fin 8) (e : EngSlot) : (k.setEng i e).gx = k.gx := rfl
@[simp] theorem Core.setEng_gy (k : Core) (i : Fin 8) (e : EngSlot) : (k.setEng i e).gy = k.gy := rfl
@[simp] theorem Core.setEng_first0 (k : Core) (i : Fin 8) (e : EngSlot) : (k.setEng i e).first0 = k.first0 := rfl
@[simp] theorem Core.setEng_last (k : Core) (i : Fin 8) (e : EngSlot) : (k.setEng i e).last = k.last := rfl
@[simp] theorem Core.setEng_rot (k : Core) (i : Fin 8) (e : EngSlot) : (k.setEng i e).rot = k.rot := rfl
@[simp] theorem Core.setEng_exhausted (k : Core) (i : Fin 8) (e : EngSlot) : (k.setEng i e).exhausted = k.exhausted := rfl
@[simp] theorem Core.setEng_haloPend (k : Core) (i : Fin 8) (e : EngSlot) : (k.setEng i e).haloPend = k.haloPend := rfl
@[simp] theorem Core.setEng_edges (k : Core) (i : Fin 8) (e : EngSlot) : (k.setEng i e).edges = k.edges := rfl
@[simp] theorem Core.setEng_l1 (k : Core) (i : Fin 8) (e : EngSlot) : (k.setEng i e).l1 = k.l1 := rfl
@[simp] theorem Core.setEng_tlb (k : Core) (i : Fin 8) (e : EngSlot) : (k.setEng i e).tlb = k.tlb := rfl
@[simp] theorem Core.setEng_tlb2 (k : Core) (i : Fin 8) (e : EngSlot) : (k.setEng i e).tlb2 = k.tlb2 := rfl
@[simp] theorem Core.setEng_cdesc (k : Core) (i : Fin 8) (e : EngSlot) : (k.setEng i e).cdesc = k.cdesc := rfl
@[simp] theorem Core.setEng_edesc (k : Core) (i : Fin 8) (e : EngSlot) : (k.setEng i e).edesc = k.edesc := rfl
@[simp] theorem Core.setEng_issueMark (k : Core) (i : Fin 8) (e : EngSlot) : (k.setEng i e).issueMark = k.issueMark := rfl
@[simp] theorem Core.setEng_lastIssue (k : Core) (i : Fin 8) (e : EngSlot) : (k.setEng i e).lastIssue = k.lastIssue := rfl
@[simp] theorem Core.setEng_readyMark (k : Core) (i : Fin 8) (e : EngSlot) : (k.setEng i e).readyMark = k.readyMark := rfl

/-! ### Core.setTrapRegs -/

@[simp] theorem Core.setTrapRegs_s (k : Core) (c pc v : Word) : (k.setTrapRegs c pc v).s = k.s := rfl
@[simp] theorem Core.setTrapRegs_p (k : Core) (c pc v : Word) : (k.setTrapRegs c pc v).p = k.p := rfl
@[simp] theorem Core.setTrapRegs_lc (k : Core) (c pc v : Word) : (k.setTrapRegs c pc v).lc = k.lc := rfl
@[simp] theorem Core.setTrapRegs_lcl (k : Core) (c pc v : Word) : (k.setTrapRegs c pc v).lcl = k.lcl := rfl
@[simp] theorem Core.setTrapRegs_v (k : Core) (c pc v : Word) : (k.setTrapRegs c pc v).v = k.v := rfl
@[simp] theorem Core.setTrapRegs_strip (k : Core) (c pc v : Word) : (k.setTrapRegs c pc v).strip = k.strip := rfl
@[simp] theorem Core.setTrapRegs_shp (k : Core) (c pc v : Word) : (k.setTrapRegs c pc v).shp = k.shp := rfl
@[simp] theorem Core.setTrapRegs_acc (k : Core) (c pc v : Word) : (k.setTrapRegs c pc v).acc = k.acc := rfl
@[simp] theorem Core.setTrapRegs_m (k : Core) (c pc v : Word) : (k.setTrapRegs c pc v).m = k.m := rfl
@[simp] theorem Core.setTrapRegs_keep (k : Core) (c pc v : Word) : (k.setTrapRegs c pc v).keep = k.keep := rfl
@[simp] theorem Core.setTrapRegs_fpmode (k : Core) (c pc v : Word) : (k.setTrapRegs c pc v).fpmode = k.fpmode := rfl
@[simp] theorem Core.setTrapRegs_fpflags (k : Core) (c pc v : Word) : (k.setTrapRegs c pc v).fpflags = k.fpflags := rfl
@[simp] theorem Core.setTrapRegs_lfsr (k : Core) (c pc v : Word) : (k.setTrapRegs c pc v).lfsr = k.lfsr := rfl
@[simp] theorem Core.setTrapRegs_heldFlags (k : Core) (c pc v : Word) : (k.setTrapRegs c pc v).heldFlags = k.heldFlags := rfl
@[simp] theorem Core.setTrapRegs_ls (k : Core) (c pc v : Word) : (k.setTrapRegs c pc v).ls = k.ls := rfl
@[simp] theorem Core.setTrapRegs_eng (k : Core) (c pc v : Word) : (k.setTrapRegs c pc v).eng = k.eng := rfl
@[simp] theorem Core.setTrapRegs_pc (k : Core) (c pc v : Word) : (k.setTrapRegs c pc v).pc = k.pc := rfl
@[simp] theorem Core.setTrapRegs_fire (k : Core) (c pc v : Word) : (k.setTrapRegs c pc v).fire = k.fire := rfl
@[simp] theorem Core.setTrapRegs_starting (k : Core) (c pc v : Word) : (k.setTrapRegs c pc v).starting = k.starting := rfl
@[simp] theorem Core.setTrapRegs_susp (k : Core) (c pc v : Word) : (k.setTrapRegs c pc v).susp = k.susp := rfl
@[simp] theorem Core.setTrapRegs_hold (k : Core) (c pc v : Word) : (k.setTrapRegs c pc v).hold = k.hold := rfl
@[simp] theorem Core.setTrapRegs_gang (k : Core) (c pc v : Word) : (k.setTrapRegs c pc v).gang = k.gang := rfl
@[simp] theorem Core.setTrapRegs_gx (k : Core) (c pc v : Word) : (k.setTrapRegs c pc v).gx = k.gx := rfl
@[simp] theorem Core.setTrapRegs_gy (k : Core) (c pc v : Word) : (k.setTrapRegs c pc v).gy = k.gy := rfl
@[simp] theorem Core.setTrapRegs_first0 (k : Core) (c pc v : Word) : (k.setTrapRegs c pc v).first0 = k.first0 := rfl
@[simp] theorem Core.setTrapRegs_last (k : Core) (c pc v : Word) : (k.setTrapRegs c pc v).last = k.last := rfl
@[simp] theorem Core.setTrapRegs_rot (k : Core) (c pc v : Word) : (k.setTrapRegs c pc v).rot = k.rot := rfl
@[simp] theorem Core.setTrapRegs_exhausted (k : Core) (c pc v : Word) : (k.setTrapRegs c pc v).exhausted = k.exhausted := rfl
@[simp] theorem Core.setTrapRegs_haloPend (k : Core) (c pc v : Word) : (k.setTrapRegs c pc v).haloPend = k.haloPend := rfl
@[simp] theorem Core.setTrapRegs_edges (k : Core) (c pc v : Word) : (k.setTrapRegs c pc v).edges = k.edges := rfl
@[simp] theorem Core.setTrapRegs_l1 (k : Core) (c pc v : Word) : (k.setTrapRegs c pc v).l1 = k.l1 := rfl
@[simp] theorem Core.setTrapRegs_tlb (k : Core) (c pc v : Word) : (k.setTrapRegs c pc v).tlb = k.tlb := rfl
@[simp] theorem Core.setTrapRegs_tlb2 (k : Core) (c pc v : Word) : (k.setTrapRegs c pc v).tlb2 = k.tlb2 := rfl
@[simp] theorem Core.setTrapRegs_cdesc (k : Core) (c pc v : Word) : (k.setTrapRegs c pc v).cdesc = k.cdesc := rfl
@[simp] theorem Core.setTrapRegs_edesc (k : Core) (c pc v : Word) : (k.setTrapRegs c pc v).edesc = k.edesc := rfl
@[simp] theorem Core.setTrapRegs_issueMark (k : Core) (c pc v : Word) : (k.setTrapRegs c pc v).issueMark = k.issueMark := rfl
@[simp] theorem Core.setTrapRegs_lastIssue (k : Core) (c pc v : Word) : (k.setTrapRegs c pc v).lastIssue = k.lastIssue := rfl
@[simp] theorem Core.setTrapRegs_readyMark (k : Core) (c pc v : Word) : (k.setTrapRegs c pc v).readyMark = k.readyMark := rfl

/-! ### Reading a core or a slice after an update -/

@[simp] theorem State.core_setCore_same (s : State) (c : CoreId) (k : Core) : (s.setCore c k).core c = k := by
  simp [State.core, State.setCore]
theorem State.core_setCore_other (s : State) {c d : CoreId} (k : Core) (h : d ≠ c) : (s.setCore c k).core d = s.core d := by
  have h' : (c : Nat) ≠ d := fun e => h (Fin.ext e.symm)
  simp [State.core, State.setCore, h']
@[simp] theorem State.me_setMe (s : State) (k : Core) : (s.setMe k).me = k := by
  simp [State.me, State.setMe, State.setCore]
@[simp] theorem State.core_cur (s : State) : s.core s.cur = s.me := rfl
@[simp] theorem State.core_setSlice (s : State) (q : SliceId) (z : Slice) (c : CoreId) :
    (s.setSlice q z).core c = s.core c := rfl
@[simp] theorem State.core_setGang (s : State) (g : Gang) (c : CoreId) : (s.setGang g).core c = s.core c := rfl
@[simp] theorem State.slice_setSlice_same (s : State) (q : SliceId) (z : Slice) : (s.setSlice q z).slice q = z := by
  simp [State.slice, State.setSlice]
@[simp] theorem State.slice_setCore (s : State) (c : CoreId) (k : Core) (q : SliceId) :
    (s.setCore c k).slice q = s.slice q := rfl
@[simp] theorem State.gangOf_setCore (s : State) (c : CoreId) (k : Core) (g : Nat) :
    (s.setCore c k).gangOf g = s.gangOf g := rfl
@[simp] theorem State.gangAt_setCore (s : State) (c : CoreId) (k k' : Core) :
    (s.setCore c k).gangAt k' = s.gangAt k' := rfl

/-! ### Registers -/

@[simp] theorem Core.getS_31 (k : Core) : k.getS 31 = 0 := rfl
@[simp] theorem Core.getP_7 (k : Core) : k.getP 7 = true := rfl
@[simp] theorem Core.getM_7 (k : Core) : k.getM 7 = BitVec.allOnes 8192 := rfl
@[simp] theorem Core.setS_31 (k : Core) (x : Word) : k.setS 31 x = k := rfl
@[simp] theorem Core.setP_7 (k : Core) (x : Bool) : k.setP 7 x = k := rfl
@[simp] theorem Core.setM_7 (k : Core) (x : BitVec 8192) : k.setM 7 x = k := rfl

end Sys2Proof.Machine
end

