-- ==== Sys2Proof/Tests/Slice0.lean ====
section
/-!
SUPPORT. Sys2Proof/Tests/Slice0.lean: tests of the model, each about one word or one step, with results from the spec or
worked out by hand from its rules, and for every statement that has hypotheses a witness: a state and operands that
meet them.
-/

namespace Sys2Proof.Tests

open Sys2Proof Sys2Proof.Machine

set_option maxRecDepth 100000
set_option exponentiation.threshold 140000

/-! ### Helpers -/

/-- The plain header. -/
def h0 : Hdr := ⟨.none, .normal, 0, false⟩

/-- Every word decodes to its instruction. -/
def decodes (l : List (IWord × Instr)) : Bool := l.all fun p => decide (decode p.1 = .ok p.2)

/-- A firing of a one-quad gang on core 0, at address 0. -/
def st0 : State := { State.reset.withFetchWord 128 0 with agenda := [] }
/-- `st0` with its core changed. -/
def on (f : Core → Core) : State := st0.setMe (f st0.me)
/-- `st0` with its gang changed. -/
def gangOn (f : Gang → Gang) : State := { st0 with gangs := st0.gangs.map f }
/-- `st0` with s2 and s3 set. -/
def regs (a b : Word) : State := on fun k => (k.setS 2 a).setS 3 b
/-- Operands s1, s2, s3 with a modifier. -/
def r3 (md : BitVec 24) : Ops := ⟨.s 1, .s 2, .s 3, .none, .none, 0, md⟩

/-- May an instruction with the plain header issue, and does the condition hold? -/
def ok (c : Ops → State → Bool) (o : Ops) (s : State) : Bool := s.ready h0 o && c o s
/-- The outcome is a next state, and `f` holds of it. -/
def nextIs (x : Out) (f : State → Bool) : Bool := match x with
  | .next t => f t
  | _ => false
/-- The outcome is a next state whose core has `f`. -/
def meIs (x : Out) (f : Core → Bool) : Bool := nextIs x fun t => f t.me
/-- s1 after a register form of an instruction on s2 and s3. -/
def s1Of (i : Hdr → Ops → Instr) (md : BitVec 24) (a b v : Word) : Bool :=
  meIs (exec (i h0 (r3 md)) (regs a b)) fun k => k.getS 1 == v
/-- The instruction takes a trap with this cause and value. -/
def trapIs (x : Out) (cause : Byte) (val : Word) : Bool :=
  meIs x fun k => k.trapcause == cause.zeroExtend 64 && k.trapval == val

/-! ### Decoding: words that the spec writes out -/

theorem test_decode_spec_words : decodes [
  (0x0000060000000700_00E01F0100000040, .add h0 ⟨.s 1, .s 31, .imm, .none, .none, 7, 6⟩),
  (0x00010A0000000040_24222123020A8544,
    .vfma ⟨.both ⟨1, false⟩ ⟨2, true⟩, .normal, 2, false⟩ ⟨.v 3, .v 1, .v 2, .v 4, .m 0, 0, 0x10A⟩),
  (0x0000000000001000_00000100000000C8, .mtc h0 ⟨.none, .s 1, .none, .none, .none, 0x10, 0⟩),
  (0x0000000000004800_0000000A000000C7, .mfc h0 ⟨.s 10, .none, .none, .none, .none, 0x48, 0⟩),
  (0x0000040000000000_0000020400000100, .ldl h0 ⟨.s 4, .s 2, .none, .none, .none, 0, 4⟩),
  (0x000000FFFFFFFD00_000000E400000005, .loop h0 ⟨.lc 0, .none, .none, .none, .none, 0xFFFFFFFD, 0⟩),
  (0x000000FFFFFFDA00_0000E00900000003, .call h0 ⟨.s 9, .imm, .none, .none, .none, 0xFFFFFFDA, 0⟩),
  (0x0000000000000000_471F1F2100000102, .vld h0 ⟨.v 1, .s 31, .s 31, .m 7, .none, 0, 0⟩),
  (0x0024050000000047_22212423000001C6, .vsortk h0 ⟨.v 3, .v 4, .v 1, .v 2, .m 7, 0, 0x2405⟩),
  (0x0094090000000047_26254127000001C7, .vsegred h0 ⟨.v 7, .m 1, .v 5, .v 6, .m 7, 0, 0x9409⟩),
  (0x00000A0000000900_00E0212300000200, .vshift h0 ⟨.v 3, .v 1, .imm, .none, .none, 9, 0x0A⟩),
  (0x0000000000000147_E028084100000209, .mrule h0 ⟨.m 1, .s 8, .v 8, .imm, .m 7, 1, 0⟩),
  (0x0000000000000000_002341050000020A, .medge h0 ⟨.s 5, .m 1, .v 3, .none, .none, 0, 0⟩),
  (0x0000000000000100_00E003810000020B, .actrd h0 ⟨.p 1, .s 3, .imm, .none, .none, 1, 0⟩),
  (0x0000000000000100_0000E00300040E0C,
    .actwr ⟨.one ⟨3, false⟩, .normal, 0, false⟩ ⟨.s 3, .imm, .none, .none, .none, 1, 0⟩)] = true := by decide

theorem test_decode_spec_words_2 : decodes [
  (0x00160B0000000000_0022216000000241, .mma h0 ⟨.a 0, .v 1, .v 2, .none, .none, 0, 0x160B⟩),
  (0x00000B0000000047_00E0602400000243, .accrd h0 ⟨.v 4, .a 0, .imm, .none, .m 7, 0, 0xB⟩),
  (0x0000050000000000_0003020100000286, .rst h0 ⟨.s 1, .s 2, .s 3, .none, .none, 0, 5⟩),
  (0x0000070000000000_051F1F0700000287, .ratom h0 ⟨.s 7, .s 31, .s 31, .s 5, .none, 0, 7⟩),
  (0x0000F20000000000_00000302000002C1, .st h0 ⟨.s 2, .s 3, .none, .none, .none, 0, 0xF2⟩),
  (0x001CEA0000000000_1F060201000002C3, .atom h0 ⟨.s 1, .s 2, .s 6, .s 31, .none, 0, 0x1CEA⟩),
  (0x0021320000000000_00000504000002C4, .red h0 ⟨.s 4, .s 5, .none, .none, .none, 0, 0x2132⟩),
  (0x0000000000000000_00000000000002CB, .afence h0 ⟨.none, .none, .none, .none, .none, 0, 0⟩),
  (0x00000000000000A5_0403028100000303, .takep h0 ⟨.p 1, .s 2, .s 3, .s 4, .c 5, 0, 0⟩),
  (0x0000000000004000_0007068200000300, .dep h0 ⟨.p 2, .s 6, .s 7, .none, .none, 64, 0⟩),
  (0x0000070000000000_0004001F00000308, .mxpose h0 ⟨.s 31, .s 0, .s 4, .none, .none, 0, 7⟩),
  (0x0000090000000807_A006050000000309, .mxout h0 ⟨.s 0, .s 5, .s 6, .c 0, .s 7, 8, 9⟩),
  (0x0000030000000000_A003020000000341, .copy h0 ⟨.s 0, .s 2, .s 3, .c 0, .none, 0, 3⟩),
  (0x0000020000000004_A103020100000344, .rast h0 ⟨.s 1, .s 2, .s 3, .c 1, .s 4, 0, 2⟩),
  (0x0001010000000000_A207060500000346, .rmarch h0 ⟨.s 5, .s 6, .s 7, .c 2, .none, 0, 0x101⟩)] = true := by decide

/-! ### Decoding: a word for every instruction, from the field layout of R56 to R69 -/

theorem test_decode_control : decodes [
  (0x0000000000000000_0000000000000000, .nop h0 ⟨.none, .none, .none, .none, .none, 0x0, 0x0⟩),
  (0x00000002468ACE00_0000000005042401, .br ⟨.one ⟨1, true⟩, .normal, 5, false⟩ ⟨.none, .none, .none, .none, .none, 0x2468ACE, 0x0⟩),
  (0x0000000000000000_0000000F00000002, .jmp h0 ⟨.s 15, .none, .none, .none, .none, 0x0, 0x0⟩),
  (0x0000000000000000_000019C700000003, .call h0 ⟨.k 7, .s 25, .none, .none, .none, 0x0, 0x0⟩),
  (0x0000000000000000_0000001D05043004, .ret ⟨.one ⟨4, true⟩, .normal, 5, false⟩ ⟨.s 29, .none, .none, .none, .none, 0x0, 0x0⟩),
  (0x00000006D3A06A00_000000E600000005, .loop h0 ⟨.lc 2, .none, .none, .none, .none, 0x6D3A06A, 0x0⟩),
  (0x0000010000000000_0000000000000006, .fin h0 ⟨.none, .none, .none, .none, .none, 0x0, 0x1⟩),
  (0x000000091A2B3800_0000000005042007, .brk ⟨.one ⟨0, true⟩, .normal, 5, false⟩ ⟨.none, .none, .none, .none, .none, 0x91A2B38, 0x0⟩),
  (0x0000010000000000_0000000000000008, .eret h0 ⟨.none, .none, .none, .none, .none, 0x0, 0x1⟩),
  (0x0000000000000000_0000000000000009, .kill h0 ⟨.none, .none, .none, .none, .none, 0x0, 0x0⟩)] = true := by decide

theorem test_decode_scalar_integer_1 : decodes [
  (0x00020EC9F49F2700_00E0C21D05042440, .add ⟨.one ⟨1, true⟩, .normal, 5, false⟩ ⟨.s 29, .k 2, .imm, .none, .none, 0xC9F49F27, 0x20E⟩),
  (0x00020F0000000000_00CC09C600000041, .sub h0 ⟨.k 6, .s 9, .k 12, .none, .none, 0x0, 0x20F⟩),
  (0x000210CC3B29F500_00E0C10D00000042, .mul h0 ⟨.s 13, .k 1, .imm, .none, .none, 0xCC3B29F5, 0x210⟩),
  (0x0000110000000000_00CB17C505043043, .mulh ⟨.one ⟨4, true⟩, .normal, 5, false⟩ ⟨.k 5, .s 23, .k 11, .none, .none, 0x0, 0x11⟩),
  (0x000001CE81B4C300_00E0C01B00000044, .div h0 ⟨.s 27, .k 0, .imm, .none, .none, 0xCE81B4C3, 0x1⟩),
  (0x0000020000000000_00CA07C400000045, .rem h0 ⟨.k 4, .s 7, .k 10, .none, .none, 0x0, 0x2⟩),
  (0x000003D0C83F9100_00E0CE0B05042046, .min ⟨.one ⟨0, true⟩, .normal, 5, false⟩ ⟨.s 11, .k 14, .imm, .none, .none, 0xD0C83F91, 0x3⟩),
  (0x0000040000000000_00C915C300000047, .max h0 ⟨.k 3, .s 21, .k 9, .none, .none, 0x0, 0x4⟩),
  (0x000005D30ECA5F00_00E0CD1900000048, .and h0 ⟨.s 25, .k 13, .imm, .none, .none, 0xD30ECA5F, 0x5⟩),
  (0x0000060000000000_00C805C205042C49, .or ⟨.one ⟨3, true⟩, .normal, 5, false⟩ ⟨.k 2, .s 5, .k 8, .none, .none, 0x0, 0x6⟩),
  (0x000007D555552D00_00E0CC090000004A, .xor h0 ⟨.s 9, .k 12, .imm, .none, .none, 0xD555552D, 0x7⟩),
  (0x0000080000000000_00C713C10000004B, .andn h0 ⟨.k 1, .s 19, .k 7, .none, .none, 0x0, 0x8⟩),
  (0x000209D79BDFFB00_00E0CB170504384C, .shl ⟨.one ⟨6, true⟩, .normal, 5, false⟩ ⟨.s 23, .k 11, .imm, .none, .none, 0xD79BDFFB, 0x209⟩),
  (0x00000A0000000000_00C603C00000004D, .shr h0 ⟨.k 0, .s 3, .k 6, .none, .none, 0x0, 0xA⟩)] = true := by decide

theorem test_decode_scalar_integer_2 : decodes [
  (0x00000BD9E26AC900_00E0CA070000004E, .sra h0 ⟨.s 7, .k 10, .imm, .none, .none, 0xD9E26AC9, 0xB⟩),
  (0x00000C0000000000_00C511CE0504284F, .rot ⟨.one ⟨2, true⟩, .normal, 5, false⟩ ⟨.k 14, .s 17, .k 5, .none, .none, 0x0, 0xC⟩),
  (0x12480D0000000000_0000C91500000050, .bfx h0 ⟨.s 21, .k 9, .none, .none, .none, 0x0, 0x12480D⟩),
  (0x134C0E0000000000_00C401CD00000051, .bfi h0 ⟨.k 13, .s 1, .k 4, .none, .none, 0x0, 0x134C0E⟩),
  (0x00000F0000000000_0000C80505043452, .clz ⟨.one ⟨5, true⟩, .normal, 5, false⟩ ⟨.s 5, .k 8, .none, .none, .none, 0x0, 0xF⟩),
  (0x0000100000000000_00000FCC00000053, .ctz h0 ⟨.k 12, .s 15, .none, .none, .none, 0x0, 0x10⟩),
  (0x0000110000000000_0000C71300000054, .popc h0 ⟨.s 19, .k 7, .none, .none, .none, 0x0, 0x11⟩),
  (0x0014010000000000_00C21D8105042455, .cmp ⟨.one ⟨1, true⟩, .normal, 5, false⟩ ⟨.p 1, .s 29, .k 2, .none, .none, 0x0, 0x1401⟩),
  (0x000002E2FC960100_83E0C60300000056, .sel h0 ⟨.s 3, .k 6, .imm, .p 3, .none, 0xE2FC9601, 0x2⟩),
  (0x000003641FDB6800_00E00DCA00000057, .movhi h0 ⟨.k 10, .s 13, .imm, .none, .none, 0x641FDB68, 0x3⟩)] = true := by decide

theorem test_decode_scalar_float_1 : decodes [
  (0x00010912C5F8E700_00E0C01B00000080, .fadd h0 ⟨.s 27, .k 0, .imm, .none, .none, 0x12C5F8E7, 0x109⟩),
  (0x00010B0000000000_00CA07C400000081, .fsub h0 ⟨.k 4, .s 7, .k 10, .none, .none, 0x0, 0x10B⟩),
  (0x00010C150C83B500_00E0CE0B05043082, .fmul ⟨.one ⟨4, true⟩, .normal, 5, false⟩ ⟨.s 11, .k 14, .imm, .none, .none, 0x150C83B5, 0x10C⟩),
  (0x00010D0000000000_00C915C300000083, .fdiv h0 ⟨.k 3, .s 21, .k 9, .none, .none, 0x0, 0x10D⟩),
  (0x00010E0000000000_0000CD1900000084, .fsqrt h0 ⟨.s 25, .k 13, .none, .none, .none, 0x0, 0x10E⟩),
  (0x00010F0000000000_0BC805C205042085, .fma ⟨.one ⟨0, true⟩, .normal, 5, false⟩ ⟨.k 2, .s 5, .k 8, .s 11, .none, 0x0, 0x10F⟩),
  (0x0001101999995100_00E0CC0900000086, .fmin h0 ⟨.s 9, .k 12, .imm, .none, .none, 0x19999951, 0x110⟩),
  (0x0001110000000000_00C713C100000087, .fmax h0 ⟨.k 1, .s 19, .k 7, .none, .none, 0x0, 0x111⟩),
  (0x0001010000000000_0000CB1705042C88, .fabs ⟨.one ⟨3, true⟩, .normal, 5, false⟩ ⟨.s 23, .k 11, .none, .none, .none, 0x0, 0x101⟩),
  (0x0001020000000000_000003C000000089, .fneg h0 ⟨.k 0, .s 3, .none, .none, .none, 0x0, 0x102⟩),
  (0x000D031E26AEED00_00E0CA810000008A, .fcmp h0 ⟨.p 1, .k 10, .imm, .none, .none, 0x1E26AEED, 0xD03⟩),
  (0x0009040000000000_000011CE0504388B, .fcvt ⟨.one ⟨6, true⟩, .normal, 5, false⟩ ⟨.k 14, .s 17, .none, .none, .none, 0x0, 0x904⟩),
  (0x000B050000000000_0000C9150000008C, .fcvti h0 ⟨.s 21, .k 9, .none, .none, .none, 0x0, 0xB05⟩),
  (0x000D060000000000_000001CD0000008D, .icvtf h0 ⟨.k 13, .s 1, .none, .none, .none, 0x0, 0xD06⟩)] = true := by decide

theorem test_decode_scalar_float_2 : decodes [
  (0x0001070000000000_0000C8050504288E, .fclass ⟨.one ⟨2, true⟩, .normal, 5, false⟩ ⟨.s 5, .k 8, .none, .none, .none, 0x0, 0x107⟩)] = true := by decide

theorem test_decode_predicate : decodes [
  (0x0000000000000000_00808481000000C0, .pand h0 ⟨.p 1, .p 4, .p 0, .none, .none, 0x0, 0x0⟩),
  (0x0000000000000000_00808481050430C1, .por ⟨.one ⟨4, true⟩, .normal, 5, false⟩ ⟨.p 1, .p 4, .p 0, .none, .none, 0x0, 0x0⟩),
  (0x0000000000000000_00808481000000C2, .pxor h0 ⟨.p 1, .p 4, .p 0, .none, .none, 0x0, 0x0⟩),
  (0x0000000000000000_00808481000000C3, .pandn h0 ⟨.p 1, .p 4, .p 0, .none, .none, 0x0, 0x0⟩),
  (0x0000000000000000_00008481050420C4, .pnot ⟨.one ⟨0, true⟩, .normal, 5, false⟩ ⟨.p 1, .p 4, .none, .none, .none, 0x0, 0x0⟩),
  (0x0000000000000000_00000381000000C5, .pset h0 ⟨.p 1, .s 3, .none, .none, .none, 0x0, 0x0⟩),
  (0x0000000000000000_00008407000000C6, .pget h0 ⟨.s 7, .p 4, .none, .none, .none, 0x0, 0x0⟩),
  (0x0000000000087800_000000CE05042CC7, .mfc ⟨.one ⟨3, true⟩, .normal, 5, false⟩ ⟨.k 14, .none, .none, .none, .none, 0x878, 0x0⟩),
  (0x00000000000DDF00_0000C900000000C8, .mtc h0 ⟨.none, .k 9, .none, .none, .none, 0xDDF, 0x0⟩)] = true := by decide

theorem test_decode_local : decodes [
  (0x000002A468AC6700_00001A1705043100, .ldl ⟨.one ⟨4, true⟩, .normal, 5, false⟩ ⟨.s 23, .s 26, .none, .none, .none, 0xA468AC67, 0x2⟩),
  (0x000003258BF1CE00_0000030000000101, .stl h0 ⟨.s 0, .s 3, .none, .none, .none, 0x258BF1CE, 0x3⟩),
  (0x000020A6AF373513_430D0A2900000102, .vld h0 ⟨.v 9, .s 10, .s 13, .m 3, .s 19, 0xA6AF3735, 0x20⟩),
  (0x00002027D27C9C1A_43C5330E05042103, .vst ⟨.one ⟨0, true⟩, .normal, 5, false⟩ ⟨.s 14, .v 19, .k 5, .m 3, .s 26, 0x27D27C9C, 0x20⟩),
  (0x000000A8F5C20300_001B184100000104, .vldm h0 ⟨.m 1, .s 24, .s 27, .none, .none, 0xA8F5C203, 0x0⟩),
  (0x0000002A19076A00_00C4441C00000105, .vstm h0 ⟨.s 28, .m 4, .k 4, .none, .none, 0x2A19076A, 0x0⟩)] = true := by decide

theorem test_decode_plane_float_1 : decodes [
  (0x00010FED3A062746_00E02C2900000140, .vadd h0 ⟨.v 9, .v 12, .imm, .none, .m 6, 0xED3A0627, 0x10F⟩),
  (0x0001100000000046_00C4333000000141, .vsub h0 ⟨.v 16, .v 19, .k 4, .none, .m 6, 0x0, 0x110⟩),
  (0x000111EF8090F546_00E03A3705042142, .vmul ⟨.one ⟨0, true⟩, .normal, 5, false⟩ ⟨.v 23, .v 26, .imm, .none, .m 6, 0xEF8090F5, 0x111⟩),
  (0x0001010000000046_0012223E00000143, .vdiv h0 ⟨.v 30, .v 2, .s 18, .none, .m 6, 0x0, 0x101⟩),
  (0x000702F1C71BC346_2FE0292600000144, .vfma h0 ⟨.v 6, .v 9, .imm, .v 15, .m 6, 0xF1C71BC3, 0x702⟩),
  (0x0001030000000046_0033302D05042D45, .vmin ⟨.one ⟨3, true⟩, .normal, 5, false⟩ ⟨.v 13, .v 16, .v 19, .none, .m 6, 0x0, 0x103⟩),
  (0x000104F40DA69146_00E0373400000146, .vmax h0 ⟨.v 20, .v 23, .imm, .none, .m 6, 0xF40DA691, 0x104⟩),
  (0x0001050000000046_00003E3B00000147, .vabs h0 ⟨.v 27, .v 30, .none, .none, .m 6, 0x0, 0x105⟩),
  (0x0001060000000046_0000262305043948, .vneg ⟨.one ⟨6, true⟩, .normal, 5, false⟩ ⟨.v 3, .v 6, .none, .none, .m 6, 0x0, 0x106⟩),
  (0x0001070000000046_00002D2A00000149, .vsqrt h0 ⟨.v 10, .v 13, .none, .none, .m 6, 0x0, 0x107⟩),
  (0x0001080000000046_000034310000014A, .vrcp h0 ⟨.v 17, .v 20, .none, .none, .m 6, 0x0, 0x108⟩),
  (0x0001090000000046_00003B380504294B, .vrsq ⟨.one ⟨2, true⟩, .normal, 5, false⟩ ⟨.v 24, .v 27, .none, .none, .m 6, 0x0, 0x109⟩),
  (0x00010A0000000046_000023200000014C, .vexp2 h0 ⟨.v 0, .v 3, .none, .none, .m 6, 0x0, 0x10A⟩),
  (0x00010B0000000046_00002A270000014D, .vlog2 h0 ⟨.v 7, .v 10, .none, .none, .m 6, 0x0, 0x10B⟩)] = true := by decide

theorem test_decode_plane_float_2 : decodes [
  (0x00010C0000000046_0000312E0504354E, .vtanh ⟨.one ⟨5, true⟩, .normal, 5, false⟩ ⟨.v 14, .v 17, .none, .none, .m 6, 0x0, 0x10C⟩),
  (0x000D0D0000000046_000C38410000014F, .vfcmp h0 ⟨.m 1, .v 24, .s 12, .none, .m 6, 0x0, 0xD0D⟩),
  (0x00010EFF6E5C9746_26E0203C00000150, .vclamp h0 ⟨.v 28, .v 0, .imm, .v 6, .m 6, 0xFF6E5C97, 0x10E⟩)] = true := by decide

theorem test_decode_plane_integer_1 : decodes [
  (0x000204360B5FE746_00E03A3700000180, .viadd h0 ⟨.v 23, .v 26, .imm, .none, .m 6, 0x360B5FE7, 0x204⟩),
  (0x00020C0000000046_0025223E05042181, .visub ⟨.one ⟨0, true⟩, .normal, 5, false⟩ ⟨.v 30, .v 2, .v 5, .none, .m 6, 0x0, 0x20C⟩),
  (0x00020D3851EAB546_00E0292600000182, .vimul h0 ⟨.v 6, .v 9, .imm, .none, .m 6, 0x3851EAB5, 0x20D⟩),
  (0x00000E0000000046_00C1302D00000183, .vimulh h0 ⟨.v 13, .v 16, .k 1, .none, .m 6, 0x0, 0xE⟩),
  (0x00000F3A98758346_00E0373405042D84, .vimin ⟨.one ⟨3, true⟩, .normal, 5, false⟩ ⟨.v 20, .v 23, .imm, .none, .m 6, 0x3A987583, 0xF⟩),
  (0x0000100000000046_00003E3B00000185, .vimax h0 ⟨.v 27, .v 30, .s 0, .none, .m 6, 0x0, 0x10⟩),
  (0x0002110000000046_0000262300000186, .viabs h0 ⟨.v 3, .v 6, .none, .none, .m 6, 0x0, 0x211⟩),
  (0x0002010000000046_00302D2A05043987, .vshl ⟨.one ⟨6, true⟩, .normal, 5, false⟩ ⟨.v 10, .v 13, .v 16, .none, .m 6, 0x0, 0x201⟩),
  (0x0000023F258B1F46_00E0343100000188, .vshr h0 ⟨.v 17, .v 20, .imm, .none, .m 6, 0x3F258B1F, 0x2⟩),
  (0x0000030000000046_00CD3B3800000189, .vand h0 ⟨.v 24, .v 27, .k 13, .none, .m 6, 0x0, 0x3⟩),
  (0x000004416C15ED46_00E023200504298A, .vor ⟨.one ⟨2, true⟩, .normal, 5, false⟩ ⟨.v 0, .v 3, .imm, .none, .m 6, 0x416C15ED, 0x4⟩),
  (0x0000050000000046_000C2A270000018B, .vxor h0 ⟨.v 7, .v 10, .s 12, .none, .m 6, 0x0, 0x5⟩),
  (0x00000643B2A0BB46_00E0312E0000018C, .vandn h0 ⟨.v 14, .v 17, .imm, .none, .m 6, 0x43B2A0BB, 0x6⟩),
  (0x0000070000E62246_3E3B38350504358D, .vlut4 ⟨.one ⟨5, true⟩, .normal, 5, false⟩ ⟨.v 21, .v 24, .v 27, .v 30, .m 6, 0xE622, 0x7⟩)] = true := by decide

theorem test_decode_plane_integer_2 : decodes [
  (0x00140845F92B8946_00E020410000018E, .vicmp h0 ⟨.m 1, .v 0, .imm, .none, .m 6, 0x45F92B89, 0x1408⟩),
  (0x0000090000000046_00CA07240000018F, .vsel h0 ⟨.v 4, .s 7, .k 10, .none, .m 6, 0x0, 0x9⟩),
  (0x00080A483FB65746_00E02E2B05042590, .vbcast ⟨.one ⟨1, true⟩, .normal, 5, false⟩ ⟨.v 11, .v 14, .imm, .none, .m 6, 0x483FB657, 0x80A⟩),
  (0x00000B0000000046_0000353200000191, .vmov h0 ⟨.v 18, .v 21, .none, .none, .m 6, 0x0, 0xB⟩),
  (0x00080C4A86412546_0000E03900000192, .viota h0 ⟨.v 25, .imm, .none, .none, .m 6, 0x4A864125, 0x80C⟩),
  (0x00000D0000000046_0000242105043193, .vpopc ⟨.one ⟨4, true⟩, .normal, 5, false⟩ ⟨.v 1, .v 4, .none, .none, .m 6, 0x0, 0xD⟩)] = true := by decide

theorem test_decode_plane_conversion : decodes [
  (0x001F070000000046_00002926050421C0, .vcvt ⟨.one ⟨0, true⟩, .normal, 5, false⟩ ⟨.v 6, .v 9, .none, .none, .m 6, 0x0, 0x1F07⟩),
  (0x0823080000000046_00C0302D000001C1, .vquant h0 ⟨.v 13, .v 16, .k 0, .none, .m 6, 0x0, 0x82308⟩),
  (0x0027098123447546_00E03734000001C2, .vdequant h0 ⟨.v 20, .v 23, .imm, .none, .m 6, 0x81234475, 0x2709⟩),
  (0x02AB0A0000000046_00003EC805042DC3, .vreds ⟨.one ⟨3, true⟩, .normal, 5, false⟩ ⟨.k 8, .v 30, .none, .none, .m 6, 0x0, 0x2AB0A⟩),
  (0x06AF0B0000000046_00002623000001C4, .vredr h0 ⟨.v 3, .v 6, .none, .none, .m 6, 0x0, 0x6AF0B⟩),
  (0x00B30C0000000046_0130192A000001C5, .vscan h0 ⟨.v 10, .s 25, .v 16, .s 1, .m 6, 0x0, 0xB30C⟩),
  (0x01B70D0000000046_3A373431050439C6, .vsortk ⟨.one ⟨6, true⟩, .normal, 5, false⟩ ⟨.v 17, .v 20, .v 23, .v 26, .m 6, 0x0, 0x1B70D⟩),
  (0x02BB0E0000000046_223E4438000001C7, .vsegred h0 ⟨.v 24, .m 4, .v 30, .v 2, .m 6, 0x0, 0x2BB0E⟩),
  (0x00BF0F0000000046_0000230D000001C8, .vargx h0 ⟨.s 13, .v 3, .none, .none, .m 6, 0x0, 0xBF0F⟩)] = true := by decide

theorem test_decode_lattice : decodes [
  (0x00002F0000000000_0015373400000200, .vshift h0 ⟨.v 20, .v 23, .s 21, .none, .none, 0x0, 0x2F⟩),
  (0x0000000000000000_0040444100000201, .mand h0 ⟨.m 1, .m 4, .m 0, .none, .none, 0x0, 0x0⟩),
  (0x0000000000000000_0040444105042E02, .mor ⟨.one ⟨3, true⟩, .normal, 5, false⟩ ⟨.m 1, .m 4, .m 0, .none, .none, 0x0, 0x0⟩),
  (0x0000000000000000_0040444100000203, .mxor h0 ⟨.m 1, .m 4, .m 0, .none, .none, 0x0, 0x0⟩),
  (0x0000000000000000_0040444100000204, .mandn h0 ⟨.m 1, .m 4, .m 0, .none, .none, 0x0, 0x0⟩),
  (0x0000000000000000_0000444105043A05, .mnot ⟨.one ⟨6, true⟩, .normal, 5, false⟩ ⟨.m 1, .m 4, .none, .none, .none, 0x0, 0x0⟩),
  (0x0000000000000000_0000444100000206, .mmov h0 ⟨.m 1, .m 4, .none, .none, .none, 0x0, 0x0⟩),
  (0x0000000000000000_00CA44C400000207, .mpop h0 ⟨.k 4, .m 4, .k 10, .none, .none, 0x0, 0x0⟩),
  (0x000001D0C83E9F00_00E0448105042A08, .many ⟨.one ⟨2, true⟩, .normal, 5, false⟩ ⟨.p 1, .m 4, .imm, .none, .none, 0xD0C83E9F, 0x1⟩),
  (0x0000000000000046_1B3B154100000209, .mrule h0 ⟨.m 1, .s 21, .v 27, .s 27, .m 6, 0x0, 0x0⟩),
  (0x0000000000000000_002344190000020A, .medge h0 ⟨.s 25, .m 4, .v 3, .none, .none, 0x0, 0x0⟩),
  (0x00000054320ED400_00C805810504360B, .actrd ⟨.one ⟨5, true⟩, .normal, 5, false⟩ ⟨.p 1, .s 5, .k 8, .none, .none, 0x54320ED4, 0x0⟩),
  (0x000003D555543B00_0000E0090000020C, .actwr h0 ⟨.s 9, .imm, .none, .none, .none, 0xD555543B, 0x3⟩),
  (0x00002F0000000000_003844410000020D, .mshift h0 ⟨.m 1, .m 4, .v 24, .none, .none, 0x0, 0x2F⟩)] = true := by decide

theorem test_decode_matrix : decodes [
  (0x0000000000000000_0000006100000240, .mzero h0 ⟨.a 1, .none, .none, .none, .none, 0x0, 0x0⟩),
  (0x0063110000000000_00302D6205042E41, .mma ⟨.one ⟨3, true⟩, .normal, 5, false⟩ ⟨.a 2, .v 13, .v 16, .none, .none, 0x0, 0x6311⟩),
  (0x0043010000000000_3A37346000000242, .mmas h0 ⟨.a 0, .v 20, .v 23, .v 26, .none, 0x0, 0x4301⟩),
  (0x0007020000000046_00CA613800000243, .accrd h0 ⟨.v 24, .a 1, .k 10, .none, .m 6, 0x0, 0x702⟩),
  (0x000F030000002146_00E0236205043A44, .accwr ⟨.one ⟨6, true⟩, .normal, 5, false⟩ ⟨.a 2, .v 3, .imm, .none, .m 6, 0x21, 0xF03⟩)] = true := by decide

theorem test_decode_channel : decodes [
  (0x0000005950C6E700_0000E0AB05042E80, .send ⟨.one ⟨3, true⟩, .normal, 5, false⟩ ⟨.c 11, .imm, .none, .none, .none, 0x5950C6E7, 0x0⟩),
  (0x0000000000000000_0000A6C300000281, .recv h0 ⟨.k 3, .c 6, .none, .none, .none, 0x0, 0x0⟩),
  (0x0000000000000000_00A1841900000282, .peek h0 ⟨.s 25, .p 4, .c 1, .none, .none, 0x0, 0x0⟩),
  (0x0000010000000000_00C805A205043A83, .steer ⟨.one ⟨6, true⟩, .normal, 5, false⟩ ⟨.c 2, .s 5, .k 8, .none, .none, 0x0, 0x1⟩),
  (0x00000F0000000000_00A0CC0900000284, .merge h0 ⟨.s 9, .k 12, .c 0, .none, .none, 0x0, 0xF⟩),
  (0x000011DF0121EA00_001613C100000285, .rld h0 ⟨.k 1, .s 19, .s 22, .none, .none, 0xDF0121EA, 0x11⟩),
  (0x0000016024675100_001D1A1705042A86, .rst ⟨.one ⟨2, true⟩, .normal, 5, false⟩ ⟨.s 23, .s 26, .s 29, .none, .none, 0x60246751, 0x1⟩),
  (0x0000E2E147ACB80C_090603C000000287, .ratom h0 ⟨.k 0, .s 3, .s 6, .s 9, .s 12, 0xE147ACB8, 0xE2⟩),
  (0x000000626AF21F00_000000E000000288, .barg h0 ⟨.imm, .none, .none, .none, .none, 0x626AF21F, 0x0⟩)] = true := by decide

theorem test_decode_global : decodes [
  (0x00010BA22220A700_00000C09001002C0, .ld ⟨.none, .stream, 0, false⟩ ⟨.s 9, .s 12, .none, .none, .none, 0xA22220A7, 0x10B⟩),
  (0x0001332345660E00_00001310001002C1, .st ⟨.none, .stream, 0, false⟩ ⟨.s 16, .s 19, .none, .none, .none, 0x2345660E, 0x133⟩),
  (0x0000A0A468AB7500_00001A1705143AC2, .ldro ⟨.one ⟨6, true⟩, .stream, 5, false⟩ ⟨.s 23, .s 26, .none, .none, .none, 0xA468AB75, 0xA0⟩),
  (0x00217B258BF0DC00_00C603C0001002C3, .atom ⟨.none, .stream, 0, false⟩ ⟨.k 0, .s 3, .k 6, .none, .none, 0x258BF0DC, 0x217B⟩),
  (0x002193A6AF364300_0000E007001002C4, .red ⟨.none, .stream, 0, false⟩ ⟨.s 7, .imm, .none, .none, .none, 0xA6AF3643, 0x2193⟩),
  (0x0061B327D27BAA30_43C5270E05142AC5, .redv ⟨.one ⟨2, true⟩, .stream, 5, false⟩ ⟨.s 14, .v 7, .k 5, .m 3, .v 16, 0x27D27BAA, 0x61B3⟩),
  (0x000400A8F5C11100_00000015001002C6, .pref ⟨.none, .stream, 0, false⟩ ⟨.s 21, .none, .none, .none, .none, 0xA8F5C111, 0x400⟩),
  (0x0000002A19067800_0000011C000002C7, .cinv h0 ⟨.s 28, .s 1, .none, .none, .none, 0x2A190678, 0x0⟩),
  (0x000400AB3C4BDF00_0000C805050436C8, .cflush ⟨.one ⟨5, true⟩, .normal, 5, false⟩ ⟨.s 5, .k 8, .none, .none, .none, 0xAB3C4BDF, 0x400⟩),
  (0x0000032C5F914600_00000F0C000002C9, .dscinv h0 ⟨.s 12, .s 15, .none, .none, .none, 0x2C5F9146, 0x3⟩),
  (0x00001C0000000000_00000000000002CA, .fence h0 ⟨.none, .none, .none, .none, .none, 0x0, 0x1C⟩),
  (0x0000000000000000_00000000050426CB, .afence ⟨.one ⟨1, true⟩, .normal, 5, false⟩ ⟨.none, .none, .none, .none, .none, 0x0, 0x0⟩)] = true := by decide

theorem test_decode_cloche : decodes [
  (0x000000EAF37A6700_000D0A8100000300, .dep h0 ⟨.p 1, .s 10, .s 13, .none, .none, 0xEAF37A67, 0x0⟩),
  (0x0000006C16BFCE00_00C5118105043B01, .depw ⟨.one ⟨6, true⟩, .normal, 5, false⟩ ⟨.p 1, .s 17, .k 5, .none, .none, 0x6C16BFCE, 0x0⟩),
  (0x000000ED3A053500_C01B188100000302, .take h0 ⟨.p 1, .s 24, .s 27, .k 0, .none, 0xED3A0535, 0x0⟩),
  (0x0000006E5D4A9CAA_07C4018100000303, .takep h0 ⟨.p 1, .s 1, .k 4, .s 7, .c 10, 0x6E5D4A9C, 0x0⟩),
  (0x000000EF80900300_CE0B088105042B04, .cpy ⟨.one ⟨2, true⟩, .normal, 5, false⟩ ⟨.p 1, .s 8, .s 11, .k 14, .none, 0xEF809003, 0x0⟩),
  (0x00000070A3D56AA9_15C30F8100000305, .cpyp h0 ⟨.p 1, .s 15, .k 3, .s 21, .c 9, 0x70A3D56A, 0x0⟩),
  (0x000000F1C71AD100_CD19168100000306, .pcancel h0 ⟨.p 1, .s 22, .s 25, .k 13, .none, 0xF1C71AD1, 0x0⟩),
  (0x00000072EA603800_00C21DCB05043707, .clcount ⟨.one ⟨5, true⟩, .normal, 5, false⟩ ⟨.k 11, .s 29, .k 2, .none, .none, 0x72EA6038, 0x0⟩),
  (0x000002F40DA59F0F_AC09060300100308, .mxpose ⟨.none, .stream, 0, false⟩ ⟨.s 3, .s 6, .s 9, .c 12, .s 15, 0xF40DA59F, 0x2⟩),
  (0x0000237530EB0616_A4C10D0A00100309, .mxout ⟨.none, .stream, 0, false⟩ ⟨.s 10, .s 13, .k 1, .c 4, .s 22, 0x7530EB06, 0x23⟩),
  (0x000000F654306D00_1AA8C5110504270A, .mseq ⟨.one ⟨1, true⟩, .normal, 5, false⟩ ⟨.s 17, .k 5, .c 8, .s 26, .none, 0xF654306D, 0x0⟩)] = true := by decide

theorem test_decode_engine : decodes [
  (0x0000030000000100_0000E00100000340, .own h0 ⟨.s 1, .imm, .none, .none, .none, 0x1, 0x3⟩),
  (0x000007B4E8198E00_A6C30F0C00100341, .copy ⟨.none, .stream, 0, false⟩ ⟨.s 12, .s 15, .k 3, .c 6, .none, 0xB4E8198E, 0x7⟩),
  (0x000007360B5EF501_AD19C71300100342, .gather ⟨.none, .stream, 0, false⟩ ⟨.s 19, .k 7, .s 25, .c 13, .s 1, 0x360B5EF5, 0x7⟩),
  (0x000007B72EA45CC8_A5C21D1A05142B43, .iwalk ⟨.one ⟨2, true⟩, .stream, 5, false⟩ ⟨.s 26, .s 29, .k 2, .c 5, .k 8, 0xB72EA45C, 0x7⟩),
  (0x0000073851E9C30F_AC09C60300000344, .rast h0 ⟨.s 3, .k 6, .s 9, .c 12, .s 15, 0x3851E9C3, 0x7⟩),
  (0x000077B9752F2A00_A4C10D0A00000345, .resolve h0 ⟨.s 10, .s 13, .k 1, .c 4, .none, 0xB9752F2A, 0x77⟩),
  (0x0001473A98749100_AB17C51105043746, .rmarch ⟨.one ⟨5, true⟩, .normal, 5, false⟩ ⟨.s 17, .k 5, .s 23, .c 11, .none, 0x3A987491, 0x147⟩),
  (0x000017BBBBB9F800_A3C01B1800000347, .rclear h0 ⟨.s 24, .s 27, .k 0, .c 3, .none, 0xBBBBB9F8, 0x17⟩)] = true := by decide

theorem test_decode_management : decodes [
  (0x0000030000000000_0003020100000380, .tlbi h0 ⟨.s 1, .s 2, .s 3, .none, .none, 0x0, 0x3⟩)] = true := by decide
/-! ### Words that are no instruction (R57 to R71, R398) -/

/-- The words are refused with these trapvals. -/
def refuses (l : List (IWord × Nat)) : Bool := l.all fun p => match decode p.1 with
  | .error e => e == p.2
  | .ok _ => false

theorem test_decode_refused : refuses [
  (0x0000060000000700_00E01F01000000FF, 0),
  (0x0000060000000700_00E01F0120000040, 29),
  (0x0000060000000700_00E01F0100100040, 20),
  (0x0000060000000700_00E01F0100000440, 10),
  (0x0000060000000700_00E01F2100000040, 32),
  (0x0000060000000700_01E01F0100000040, 56),
  (0x0000120000000700_00E01F0100000040, 104)] = true := by decide

/-! ### Well-formedness: a term that each check refuses -/

theorem smoke_wf : WellFormed (.add h0 ⟨.s 1, .s 31, .imm, .none, .none, 7, 6⟩) := by decide
theorem smoke_hint : ¬ WellFormed (.add { h0 with hint := .stream } ⟨.s 1, .s 31, .imm, .none, .none, 7, 6⟩) := by decide
theorem smoke_class_0 : ¬ WellFormed (.add h0 ⟨.v 1, .s 31, .imm, .none, .none, 7, 6⟩) := by decide
theorem smoke_class_1 : ¬ WellFormed (.add h0 ⟨.s 1, .p 3, .imm, .none, .none, 7, 6⟩) := by decide
theorem smoke_class_2 : ¬ WellFormed (.add h0 ⟨.s 1, .s 31, .a 0, .none, .none, 0, 6⟩) := by decide
theorem smoke_class_3 : ¬ WellFormed (.add h0 ⟨.s 1, .s 31, .imm, .s 0, .none, 7, 6⟩) := by decide
theorem smoke_class_4 : ¬ WellFormed (.add h0 ⟨.s 1, .s 31, .imm, .none, .s 0, 7, 6⟩) := by decide
theorem smoke_imm_twice : ¬ WellFormed (.fma h0 ⟨.s 1, .s 2, .imm, .imm, .none, 7, 9⟩) := by decide
theorem smoke_imm_unused : ¬ WellFormed (.add h0 ⟨.s 1, .s 2, .s 3, .none, .none, 7, 6⟩) := by decide
theorem smoke_modifier : ¬ WellFormed (.add h0 ⟨.s 1, .s 31, .imm, .none, .none, 7, 0x12⟩) := by decide
theorem smoke_step : ¬ WellFormed (.launchTake) := by decide

/-- EncodingReadsBack and WordsHaveOneMeaning. -/
theorem witness_Encoding : WellFormed (.red h0 ⟨.s 4, .s 5, .none, .none, .none, 0, 0x2132⟩) ∧
    decode 0x0021320000000000_00000504000002C4 = .ok (.red h0 ⟨.s 4, .s 5, .none, .none, .none, 0, 0x2132⟩) := by decide

/-! ### Reset, memory and the step -/

theorem test_table_word : decodeTableWord 128 0x0000060000000700_00E01F0100000040 =
    some (.add h0 ⟨.s 1, .s 31, .imm, .none, .none, 7, 6⟩) := by decide

theorem test_fetch_word : nextIs (step (State.reset.withFetchWord 128 0x0000060000000700_00E01F0100000040))
    (fun t => t.me.getS 1 == 7 && t.me.pc == 16) = true := by decide

/-- StepKeepsMemoryCanonical, TickNeverFalls. -/
theorem witness_Step : State.MemInv (State.reset.withFetchWord 128 0x0000060000000700_00E01F0100000040) ∧
    nextIs (step (State.reset.withFetchWord 128 0x0000060000000700_00E01F0100000040)) (fun _ => true) = true := by decide

/-- MemoryReadsWhatWasWritten: below, at the last byte and above the bytes written. -/
theorem witness_Memory : Memory.wf [(3, 1), (9, 2)] = true ∧ memReadN (memWriteN [(3, 1), (9, 2)] 4 0x1FF 2) 4 2 = 0x1FF ∧
    memRead (memWriteN [(3, 1), (9, 2)] 4 0x1FF 2) 3 = 1 ∧ memRead (memWriteN [(3, 1), (9, 2)] 4 0x1FF 2) 6 = 0 := by decide

/-- The state of a step that fetches `w`. -/
def stepped (w : Nat) : State :=
  let s := State.reset.withFetchWord 128 w
  { s.advance with agenda := [], cur := 0 }
/-- What a fetch read. -/
def fetchIs (f : Fetched) (w : IWord) : Bool := match f with
  | .word _ x => x == w
  | _ => false

/-- StepRunsDecodedInstruction: a word that decodes, and one that does not. -/
theorem witness_StepRuns : (State.reset.withFetchWord 128 9).powered = true ∧
    (State.reset.withFetchWord 128 9).agenda = [.core 0] ∧ (stepped 9).canIssue 0 = true ∧
    fetchIs ((stepped 9).fetch (stepped 9).asid) 9 = true ∧ (decode 9).isOk = true ∧
    fetchIs ((stepped 0x3FF).fetch (stepped 0x3FF).asid) 0x3FF = true ∧ (decode 0x3FF).isOk = false := by decide

/-- A load of the running firing that is still to write `d`. -/
def pend (d : Operand) : Access :=
  ⟨7, 7, 0, ⟨0, .normal, 0⟩, 1, 0, 0, 8, 1, .load d .n64 false, none, none, .walk (.phys 0 probePage) false, some probePage, false, none, false, false, false⟩
/-- `st0` with such a load. -/
def waiting (d : Operand) : State := { st0 with flight := [pend d] }

/-- A step that fetches a word with a drain bit, with a load of its firing under way. -/
def draining (w : Nat) : State :=
  let s := State.reset.withFetchWord 128 w
  { s with flight := [{ pend (.s 9) with fire := s.me.fire.getD ⟨0, .normal, 0⟩ }] }

/-- A word of no instruction, and ERET outside a trap actor, wait for the drain that they ask for (R64). -/
theorem test_drain_before_trap : (
  nextIs (step (draining (0x3FF + 2 ^ 28))) (fun t => t.me.trapcause == 0 && t.me.pc == 0) &&
  nextIs (step { draining (0x3FF + 2 ^ 28) with flight := [] }) (fun t => t.me.trapcause == cILLOP.zeroExtend 64) &&
  nextIs (exec (.eret { h0 with drain := true } (r3 0)) (waiting (.s 9))) (fun t => t.me.trapcause == 0 && t.me.pc == 0)) = true := by decide

/-- IssueGates: a drain outstanding, a guard predicate pending, a register pending, a false guard. -/
theorem witness_IssueGates : (Instr.add h0 (r3 6)).parts = some (0x40, h0, r3 6) ∧ (waiting (.s 9)).drained = false ∧
    (waiting (.p 2)).regPending (.p 2) = true ∧ ((waiting (.s 3)).me.guard h0.guard &&
      (r3 6).regs.any (waiting (.s 3)).regPending) = true ∧
    ((waiting (.s 9)).clear { h0 with drain := true } == false && st0.clear h0 &&
      st0.drained && !(Guard.one ⟨2, false⟩).preds.any st0.regPending && !st0.me.guard (.one ⟨2, false⟩)) = true := by decide

theorem test_drain_waits : nextIs (exec (.add { h0 with drain := true } (r3 6)) (waiting (.s 9)))
    (fun t => t.me.pc == 0) = true := by decide
theorem test_guard_false : nextIs (exec (.add { h0 with guard := .one ⟨2, false⟩ } ⟨.s 1, .s 31, .imm, .none, .none, 7, 6⟩) st0)
    (fun t => t.me.pc == 16 && t.me.getS 1 == 0) = true := by decide
theorem test_interlock : nextIs (exec (.add h0 (r3 6)) (waiting (.s 3))) (fun t => t.me.pc == 0) = true := by decide

/-! ### Class 0x1 -/

theorem test_integer_arithmetic : (
  s1Of .add 0x000 127 1 0xFFFFFFFFFFFFFF80 && s1Of .add 0x200 127 1 127 && s1Of .sub 0x001 0 1 0xFF &&
  s1Of .sub 0x201 0 1 0 && s1Of .mul 0x003 0x100 0x100 0 && s1Of .mulh 0x005 0xFFFFFFFF 0xFFFFFFFF 0xFFFFFFFE &&
  s1Of .mulh 0x004 0xFFFFFFFF 0xFFFFFFFF 0 && s1Of .min 0x004 0xFFFFFFFF 1 0xFFFFFFFFFFFFFFFF &&
  s1Of .max 0x005 0xFFFFFFFF 1 0xFFFFFFFF && s1Of .and 0x007 0xC 0xA 8 && s1Of .or 0x007 0xC 0xA 0xE &&
  s1Of .xor 0x007 0xC 0xA 6 && s1Of .andn 0x007 0xC 0xA 4) = true := by decide

theorem test_division : (
  s1Of .div 0x004 0xFFFFFFF9 2 0xFFFFFFFFFFFFFFFD && s1Of .rem 0x004 0xFFFFFFF9 2 0xFFFFFFFFFFFFFFFF &&
  s1Of .div 0x004 5 0 0xFFFFFFFFFFFFFFFF && s1Of .div 0x005 5 0 0xFFFFFFFF && s1Of .rem 0x004 5 0 5 &&
  s1Of .div 0x004 0x80000000 0xFFFFFFFF 0xFFFFFFFF80000000 && s1Of .rem 0x004 0x80000000 0xFFFFFFFF 0) = true := by decide

theorem test_shifts : (
  s1Of .shl 0x001 1 8 0 && s1Of .shl 0x200 1 7 127 && s1Of .shr 0x001 0x80 7 1 && s1Of .shr 0x001 0x80 8 0 &&
  s1Of .sra 0x000 0x80 9 0xFFFFFFFFFFFFFFFF && s1Of .rot 0x001 0x81 1 0xC0 && s1Of .rot 0x001 0x81 8 0x81) = true := by decide

theorem test_fields_and_counts : (
  s1Of .bfx 0x031004 0xF0 0 0xFFFFFFFFFFFFFFFF && s1Of .bfi 0x031005 0xFFFF 0 0xFF0F && s1Of .clz 0x001 1 0 7 &&
  s1Of .clz 0x001 0 0 8 && s1Of .ctz 0x001 0 0 8 && s1Of .ctz 0x001 0x30 0 4 && s1Of .popc 0x001 0x1FF 0 8) = true := by decide

theorem test_compare_select : (
  meIs (exec (.cmp h0 ⟨.p 1, .s 2, .s 3, .none, .none, 0, 0x0804⟩) (regs 0xFFFFFFFF 0)) (fun k => k.getP 1) &&
  meIs (exec (.cmp h0 ⟨.p 1, .s 2, .s 3, .none, .none, 0, 0x0805⟩) (regs 0xFFFFFFFF 0)) (fun k => !k.getP 1) &&
  meIs (exec (.sel h0 ⟨.s 1, .s 2, .s 3, .p 7, .none, 0, 7⟩) (regs 4 5)) (fun k => k.getS 1 == 4) &&
  meIs (exec (.movhi h0 ⟨.s 1, .s 2, .imm, .none, .none, 0x12, 7⟩) (regs 0x9900000001 0))
    (fun k => k.getS 1 == 0x1200000001)) = true := by decide

/-- IntegerArithmetic, IntegerDivision, ShiftResults: the corners of division and the widest counts. -/
theorem witness_IntegerArithmetic : (ok intTyped (r3 4) (regs 7 2) && ok intTyped (r3 4) (regs 7 0) &&
    ok intTyped (r3 4) (regs 0x80000000 0xFFFFFFFF) && ok intTyped (r3 4) (regs 1 31) && ok intTyped (r3 4) (regs 1 32) &&
    ok intTyped (r3 0x204) (regs 1 32)) = true := by decide

/-- FieldAndCountResults: a field that ends at the type's last bit, one that ends beyond it, a zero and a count. -/
theorem witness_FieldAndCountResults :
    (ok (fun o _ => (o.ty 0).isInt && decide (o.mod 10 6 + (o.mod 16 6 + 1) ≤ (o.ty 0).width)) (r3 0x076004) st0 &&
     ok (fun o _ => decide ((o.ty 0).width < o.mod 10 6 + (o.mod 16 6 + 1))) (r3 0x076404) st0 &&
     ok intTyped (r3 4) (regs 0 0) && ok intTyped (r3 4) (regs 0x80000000 0)) = true := by decide

/-- CompareSelectMovhi: each condition, a wide type and a narrow one. -/
theorem witness_CompareSelectMovhi :
    ((List.range 6).all (fun n => ok (fun o s => intTyped o s && o.mod 10 3 == n) (r3 (BitVec.ofNat 24 (n * 1024 + 4))) st0) &&
     ok (fun o _ => o.ty 0 == .n64) (r3 7) st0 && ok (fun o _ => !(o.ty 0 == .s64 || o.ty 0 == .n64)) (r3 5) st0) = true := by
  decide

/-- ScalarTypeChecks. -/
theorem witness_ScalarTypeChecks : (ok (fun o s => !intTyped o s) (r3 8) st0 && ok (fun o s => !fltTyped o s) (r3 12) st0 &&
    ok (fun o _ => !(o.ty 9).isScalarFloat) (r3 0x0009) st0 && ok (fun o _ => !(o.ty 9).isInt) (r3 0x1009) st0) = true := by
  decide

theorem test_type_trap : trapIs (exec (.add h0 (r3 8)) st0) cILLFMT 5 = true := by decide

/-- IntegerFrame: an instruction that takes no trap. -/
theorem witness_IntegerFrame : (regs 7 2).ready h0 (r3 4) = true ∧ ∃ t, exec (.add h0 (r3 4)) (regs 7 2) = .next t ∧
    ∀ v, t ≠ (regs 7 2).takeTrap (regs 7 2).cur cILLFMT v := by
  refine ⟨by decide, _, rfl, fun v h => ?_⟩
  exact absurd (show (0 : Word) = 4 from congrArg (fun s : State => s.me.trapcause) h) (by decide)

/-! ### Numbers and class 0x2 -/

/-- RoundingKeepsRepresentable: 1.0 and the greatest number of FP16. -/
theorem witness_Rounding : (Machine.XVal.isNum (fmt16.decode 0x3C00) && Machine.XVal.isNum (fmt16.decode 0x7BFF)) = true ∧
    fmt16.width = 16 := by decide

theorem test_float_arithmetic : (
  s1Of .fadd 0x009 0x3F800000 0x3F800000 0x40000000 && s1Of .fsub 0x009 0x3F800000 0x3F800000 0 &&
  s1Of .fsub 0x169 0x3F800000 0x3F800000 0x80000000 &&
  s1Of .fmul 0x009 0x40000000 0x40400000 0x40C00000 && s1Of .fdiv 0x009 0x40C00000 0x40000000 0x40400000 &&
  s1Of .fsqrt 0x009 0x40800000 0 0x40000000 && s1Of .fmin 0x009 0 0x80000000 0x80000000 &&
  s1Of .fmax 0x009 0x80000000 0 0 && s1Of .fabs 0x00A 0xBC00 0 0x3C00 && s1Of .fneg 0x00A 0x3C00 0 0xBC00 &&
  s1Of .fclass 0x009 0x00000001 0 0x20) = true := by decide

theorem test_float_flags : (
  meIs (exec (.fadd h0 (r3 0x009)) (regs 0x3F800000 0x33800000)) (fun k => k.getS 1 == 0x3F800000 && k.fpflags == 16) &&
  meIs (exec (.fadd h0 (r3 0x149)) (regs 0x3F800000 0x33800000)) (fun k => k.getS 1 == 0x3F800001 && k.fpflags == 16) &&
  meIs (exec (.fdiv h0 (r3 0x009)) (regs 0x3F800000 0)) (fun k => k.getS 1 == 0x7F800000 && k.fpflags == 2) &&
  meIs (exec (.fsqrt h0 (r3 0x009)) (regs 0xBF800000 0)) (fun k => k.getS 1 == 0x7FC00000 && k.fpflags == 1)) = true := by
  decide

theorem test_float_conversions : (
  s1Of .fcvti 0x0809 0x40200000 0 2 && s1Of .fcvti 0x0809 0xC0200000 0 0xFFFFFFFFFFFFFFFE &&
  s1Of .icvtf 0x0809 0xFFFFFFFF 0 0xBF800000 && s1Of .fcvt 0x140A 0x3C00 0 0x3C00 && s1Of .fcvt 0x1409 0x3C00 0 0x3F800000 &&
  meIs (exec (.fma h0 ⟨.s 1, .s 2, .s 3, .s 2, .none, 0, 9⟩) (regs 0x40000000 0x40400000)) (fun k => k.getS 1 == 0x41000000) &&
  meIs (exec (.fcmp h0 ⟨.p 1, .s 2, .s 3, .none, .none, 0, 0x0C09⟩) (regs 0x7FC00000 0)) (fun k => k.getP 1)) = true := by
  decide

/-- ScalarFloatResults, ScalarFloatExact. -/
theorem witness_ScalarFloat : (ok fltTyped (r3 9) (regs 0x3F800000 0) && ok fltTyped (r3 8) (regs 0x7FC00000 0) &&
    ok (fun o s => fltTyped o s && (o.ty 9).isScalarFloat) (r3 0x1409) st0 &&
    ok (fun o s => fltTyped o s && (o.ty 9).isInt) (r3 0x0809) st0 &&
    (List.range 7).all (fun n => ok (fun o s => fltTyped o s && o.mod 9 3 == n) (r3 (BitVec.ofNat 24 (n * 512 + 9))) st0) &&
    (Ops.ty (r3 9) 0).ffmt.isSome) = true := by decide

/-! ### Class 0x3 -/

/-- `st0` in a system gang with the partition right. -/
def stSys : State := gangOn fun g => { g with launch := { g.launch with sys := true, part := true } }
/-- `st0` with the trap actor's firing running. -/
def stTrap : State := on fun k => { k with fire := some ⟨7, .trap, 3⟩, susp := some ⟨⟨0, .normal, 0⟩, 0x100⟩ }
/-- The operands of MFC and MTC. -/
def ctl (n : BitVec 32) : Ops := ⟨.s 1, .s 2, .none, .none, .none, n, 0⟩
/-- MTC of `v` to register `n` in a system gang. -/
def mtc (n : BitVec 32) (v : Word) : Out := exec (.mtc h0 (ctl n)) (stSys.setMe (stSys.me.setS 2 v))

theorem test_predicates : (
  meIs (exec (.pandn h0 ⟨.p 1, .p 7, .p 2, .none, .none, 0, 0⟩) st0) (fun k => k.getP 1) &&
  meIs (exec (.pand h0 ⟨.p 1, .p 7, .p 2, .none, .none, 0, 0⟩) st0) (fun k => !k.getP 1) &&
  meIs (exec (.por h0 ⟨.p 1, .p 2, .p 7, .none, .none, 0, 0⟩) st0) (fun k => k.getP 1) &&
  meIs (exec (.pxor h0 ⟨.p 1, .p 7, .p 7, .none, .none, 0, 0⟩) st0) (fun k => !k.getP 1) &&
  meIs (exec (.pnot h0 ⟨.p 1, .p 2, .none, .none, .none, 0, 0⟩) st0) (fun k => k.getP 1) &&
  meIs (exec (.pset h0 ⟨.p 1, .imm, .none, .none, .none, 2, 0⟩) st0) (fun k => k.getP 1) &&
  meIs (exec (.pget h0 ⟨.s 1, .p 7, .none, .none, .none, 0, 0⟩) st0) (fun k => k.getS 1 == 1)) = true := by decide

theorem test_control_registers : (
  meIs (exec (.mfc h0 (ctl 0xA)) st0) (fun k => k.getS 1 == 1) &&
  meIs (exec (.mfc h0 (ctl 0x2)) st0) (fun k => k.getS 1 == 0x202) &&
  meIs (exec (.mfc h0 (ctl 0x3)) st0) (fun k => k.getS 1 == 1) &&
  meIs (mtc 0xA 0) (fun k => k.lfsr == 1) && meIs (mtc 0x10 4) (fun k => k.lc[0] == 4) &&
  meIs (mtc 0x21 0x829) (fun k => k.shp[1] == 0x829) && trapIs (mtc 0x21 0x12) cSHAPE 0x12 && trapIs (mtc 8 6) cILLOP 6 &&
  trapIs (mtc 4 6) cILLOP 72 && trapIs (exec (.mfc h0 (ctl 0x100)) st0) cPRIV 0x100) = true := by decide

/-- PredicateResults, ConstantRegisters. -/
theorem witness_PredicateResults : ok always (r3 0) st0 = true ∧ (0 : Fin 32) ≠ 31 ∧ (6 : Fin 8) ≠ 7 := by decide

/-- ControlReads: a plain register, a trap register in the trap actor, a system register in a system gang, fpflags. -/
theorem witness_ControlReads : (st0.ready h0 (ctl 0xA) && ctlOf 0xA == some .lfsr && Ctl.isRT .trappc && stTrap.me.inTrap &&
    ctlOf 0x49 == some .trappc && stTrap.ready h0 (ctl 0x49) && Ctl.isSys .ptroot && stSys.right (·.sys) &&
    ctlOf 0x100 == some .ptroot && stSys.ready h0 (ctl 0x100) && ctlOf 9 == some .fpflags && !st0.flagsBusy &&
    st0.canIssue st0.cur) = true := by decide

/-- `st0` while an ATOM.fadd is under way, whose flags are still to come. -/
def flagsDue : State := { st0 with flight := [{ pend (.s 9) with req := .atom 8 .f32 0 0 (.s 9) }] }

/-- ControlWrites: every register that a program may write, with values at the ends of their ranges; flags still to come. -/
theorem witness_ControlWrites : ([8, 9, 0xA, 0x10, 0x13, 0x14, 0x17, 0x20, 0x3F, 0x40, 0x100, 0x101, 0x180, 0x18C, 0x181,
      0x182, 0x183, 0x18F].all (fun n => (ctlOf n).any fun r =>
        !Ctl.isRO r && !Ctl.isRT r && (!Ctl.isSys r || stSys.right (·.sys)) && (r != .ways || stSys.right (·.part))) &&
    stSys.ready h0 (ctl 8) && shapeOk 0x2D && decide ((0x2D : Word).toNat % 8 ≤ 5 ∧ (0x2D : Word).toNat / 8 % 8 ≤ 5) &&
    decide ((4 : Word).toNat / 2 % 4 ≠ 3) && !stSys.flagsBusy && flagsDue.flagsBusy && flagsDue.ready h0 (ctl 9) && !Win.en stSys.wins[0] && stSys.canIssue stSys.cur &&
    ctlOf (0x10#12).toNat == some (.lc 0)) = true := by decide

/-- ControlRefusals: each reason once, at the values next to those that are allowed. -/
theorem witness_ControlRefusals : (ctlOf 0x6 == none && (ctlOf 4).any Ctl.isRO && (ctlOf 0x48).any Ctl.isRT &&
    !st0.me.inTrap && (ctlOf 0x100).any Ctl.isSys && !st0.right (·.sys) && ctlOf 0x40 == some .ways && !st0.right (·.part) &&
    st0.ready h0 (ctl 0x20) && ctlOf 0x20 == some (.shp 0) && !shapeOk 0x12 && ctlOf 8 == some .fpmode &&
    decide (5 < (6 : Word).toNat % 8) && decide (5 < (0x30 : Word).toNat / 8 % 8) && ctlOf 0x180 == some (.wcfg 0) &&
    stSys.right (·.sys) && decide ((6 : Word).toNat / 2 % 4 = 3) && ctlOf 0x181 == some (.wrange 0) && ctlOf 0x18E == some (.wmem 3) &&
    Win.en ({ stSys with wins := .replicate 4 { Win.reset with cfg := 1 } } : State).wins[3]) = true := by decide

/-! ### Class 0x4 -/

/-- `regs` with tile 127 owned by slot 0. -/
def tiled (a b : Word) : State :=
  let s := regs a b
  s.setMe { s.me with eng := s.me.eng.set 0 { s.me.eng[0] with pending := BitVec.ofNat 128 (2 ^ 127) } }
/-- Operands of a load from [s2 + e], and of a store of s3 to [s2 + e]. -/
def ldo (e : BitVec 32) (md : BitVec 24) : Ops := ⟨.s 1, .s 2, .none, .none, .none, e, md⟩
/-- Operands of a store. -/
def sto (e : BitVec 32) (md : BitVec 24) : Ops := ⟨.s 2, .s 3, .none, .none, .none, e, md⟩

theorem test_local_store : (
  meIs (exec (.stl h0 (sto 4 4)) (regs 8 0x11223344)) (fun k => memRead k.ls 12 == 0x44 && memRead k.ls 15 == 0x11) &&
  meIs (exec (.ldl h0 (ldo 0xFFFFFFFF 0)) (on fun k => { k.setS 2 9 with ls := [(8, 0x80)] }))
    (fun k => k.getS 1 == 0xFFFFFFFFFFFFFF80) &&
  trapIs (exec (.ldl h0 (ldo 2 4)) (regs 8 0)) cALIGN 10 && trapIs (exec (.stl h0 (sto 0 4)) (regs 0x80000 0)) cALIGN 0x80000)
  = true := by decide

/-- Ranges of the local store at which an access neither waits nor meets an error. -/
def lsOk (s : State) (l : List (Nat × Nat)) : Bool := !lsBusy s l && (lsHard s l).isNone

/-- LocalLoadStore, LocalStoreFrame: the last word, one that is not aligned, one that is not inside, an owned tile, an error, a type
that moves nothing. -/
theorem witness_LocalLoadStore :
    (ok (fun o s => (o.ty 0).isScalar && inLs (loadAt o s) (tyBytes o) && lsOk s [(loadAt o s, tyBytes o)]) (ldo 0 4) (regs 0x7FFFC 1) &&
     ok (fun o s => (o.ty 0).isScalar && inLs (storeAt o s) (tyBytes o) && lsOk s [(storeAt o s, tyBytes o)]) (sto 0 4) (regs 0x7FFFC 1) &&
     ok (fun o s => (o.ty 0).isScalar && loadAt o s % tyBytes o != 0) (ldo 2 4) (regs 0 1) &&
     ok (fun o s => (o.ty 0).isScalar && decide (0x80000 < loadAt o s + tyBytes o)) (ldo 4 4) (regs 0x7FFFC 1) &&
     ok (fun o s => (o.ty 0).isScalar && s.lsBusy (storeAt o s) (tyBytes o)) (sto 0 4) (tiled 0x7FFFC 1) &&
     ok (fun o s => (o.ty 0).isScalar && s.lsBusy (loadAt o s) (tyBytes o)) (ldo 0 4) (tiled 0x7FFFC 1) &&
     ok (fun o s => (o.ty 0).isScalar && inLs (loadAt o s) (tyBytes o) && !s.lsBusy (loadAt o s) 4 &&
       lsHard s [(loadAt o s, tyBytes o)] == some 0x7FFF8) (ldo 0 4) { regs 0x7FFFC 1 with upsets := [⟨.ls 0 0xFFFF, true⟩] } &&
     ok (fun o _ => !(o.ty 0).isScalar) (ldo 0 15) st0 && !(tiled 0 0).lsBusy 0x7EFFF 1 && (tiled 0 0).me.tiles.getLsbD 127) = true := by
  decide

/-! ### Planes -/

/-- `st0` with every plane of shape `w`, and v1, v2 and m1 set. -/
def planes (w : Word) (a b m : Nat) : State := on fun k => { k with
  shp := .replicate 32 w
  v := (k.v.set 1 (BitVec.ofNat 32768 a)).set 2 (BitVec.ofNat 32768 b), m := k.m.set 1 (BitVec.ofNat 8192 m) }
/-- The same with v3 of another shape. -/
def planesTo (d w : Word) (a b m : Nat) : State :=
  let s := planes w a b m
  s.setMe { s.me with shp := s.me.shp.set 3 d }
/-- Operands v3, v1, v2 under m1. -/
def v3 (md : BitVec 24) : Ops := ⟨.v 3, .v 1, .v 2, .none, .m 1, 0, md⟩
/-- The first elements of v3 after an instruction. -/
def v3Is (x : Out) (w : Nat) (l : List Nat) : Bool := meIs x fun k => (List.range l.length).map (k.elem 3 w) == l
/-- The operands of a VLD into v3 and a VST of v1, packed, from [s2]. -/
def vldo : Ops := ⟨.v 3, .s 2, .s 31, .m 7, .none, 0, 0⟩
/-- The operands of a VST. -/
def vsto : Ops := ⟨.s 2, .v 1, .s 31, .m 7, .none, 0, 0⟩
/-- The operands of VLDM and VSTM with the count in s3. -/
def vldmo : Ops := ⟨.m 2, .s 2, .s 3, .none, .none, 0, 0⟩
/-- The operands of a VSTM. -/
def vstmo : Ops := ⟨.s 2, .m 1, .s 3, .none, .none, 0, 0⟩
/-- `planes` with s2 set. -/
def planesAt (w : Word) (a : Word) : State :=
  let s := planes w 0 0 2
  s.setMe (s.me.setS 2 a)

theorem test_plane_load_store : (
  v3Is (exec (.vld h0 vldo) (on fun k => { k with shp := .replicate 32 0x821, ls := [(1, 5), (3, 7)] })) 8 [0, 5, 0, 7] &&
  meIs (exec (.vst h0 vsto) (planes 0x821 0x01020304 0 0)) (fun k => memRead k.ls 0 == 4 && memRead k.ls 3 == 1) &&
  meIs (exec (.vldm h0 vldmo) (on fun k => { k.setS 3 3 with ls := [(0, 0xFF)] })) (fun k => k.getM 2 == 7) &&
  meIs (exec (.vstm h0 vstmo) (on fun k => { k.setS 3 3 with m := k.m.set 1 0xFFFF })) (fun k => memRead k.ls 0 == 7 &&
    memRead k.ls 1 == 0)) = true := by decide

/-- A VLD of v3 from [s2] with stride s3, element mask m1 or m7 and a scale base in s3 takes a trap. -/
def vldTrap (o2 o3 o4 : Operand) (md : BitVec 24) (w a b : Word) (c : Byte) (v : Word) : Bool :=
  let s := planesAt w a
  trapIs (exec (.vld h0 ⟨.v 3, .s 2, o2, o3, o4, 0, md⟩) (s.setMe (s.me.setS 3 b))) c v

theorem test_plane_load_checks : (
  vldTrap (.s 3) (.m 7) .none 0 0x0E 0 1 cILLFMT 0 && vldTrap (.s 31) (.m 7) (.s 3) 0x20 0x821 0 0 cILLFMT 0 &&
  vldTrap (.s 31) (.m 1) .none 0 0x4F80C 0 0 cILLFMT 3 && vldTrap (.s 31) (.m 7) .none 0 5 0x7FFFE 0 cALIGN 0x7FFFE &&
  vldTrap (.s 3) (.m 7) .none 0 5 4 2 cALIGN 4 && vldTrap (.s 31) (.m 7) (.s 3) 0x20 0x4F80F 0 3 cALIGN 3 &&
  vldTrap (.s 31) (.m 7) .none 0 0x821 0x7FFFD 0 cALIGN 0x80000 && vldTrap (.s 31) (.m 7) (.s 3) 0x20 0x4F80C 0 0x80000 cALIGN 0x80000 &&
  vldTrap (.s 31) (.m 7) .none 0 0x4F80C 0x7FFE0 0 cALIGN 0x80000 &&
  meIs (exec (.vld h0 vldo) ((planesAt 0x821 0x7F000).setMe { (planesAt 0x821 0x7F000).me with
    eng := (tiled 0 0).me.eng })) (fun k => k.pc == 0)) = true := by decide

/-- Is the access of a VLD or VST free of checks and of owned tiles, and does it fail a check? -/
def mapOk (p : PlaneMap) (pv : Nat) (s : State) : Bool :=
  (p.check pv true).isNone && lsOk s p.spans

/-- LocalStoreFrame, PlaneAndMaskLoadStore: a plain and a scaled shape that end where the local store ends, one that ends
beyond it; counts 0 and 8,192. -/
theorem witness_PlaneAndMaskLoadStore :
    (ok (fun o s => mapOk (s.me.place o o.o0 o.o1) 0 s && !(s.me.place o o.o0 o.o1).h.scaled) vldo (planesAt 0x821 0x7FFFC) &&
     ok (fun o s => mapOk (s.me.place o o.o0 o.o1) 0 s && (s.me.place o o.o0 o.o1).h.scaled) vldo (planesAt 0x4F80C 0x7FFDF) &&
     ok (fun o s => (s.me.place o o.o0 o.o1).check 0 true |>.isSome) vldo (planesAt 0x821 0x7FFFD) &&
     ok (fun o s => mapOk (s.me.place o o.o1 o.o0) 1 s) vsto (planesAt 0x821 0x7FFFC) &&
     ok (fun o s => mapOk (s.me.place o o.o1 o.o0) 1 s && (s.me.place o o.o1 o.o0).h.scaled) vsto (planesAt 0x4F80C 0x7FFDF) &&
     ok (fun o s => (s.me.place o o.o1 o.o0).check 1 true |>.isSome) vsto (planesAt 0x821 0x7FFFD) &&
     ok (fun o s => decide (loadAt o s + 1024 ≤ 0x80000) && !s.lsBusy (loadAt o s) 1024) vldmo (regs 0x7FC00 8192) &&
     ok (fun o s => decide (storeAt o s + 1024 ≤ 0x80000) && !s.lsBusy (storeAt o s) 1024) vstmo (regs 0x7FC00 8192) &&
     ok (fun o s => (s.me.word o.o2 0) == 0) vldmo (regs 0x80000 0) &&
     ok (fun o s => decide (0x80000 < loadAt o s + 1)) vldmo (regs 0x80000 8)) = true := by decide

/-- ElementsWritten: the first element and the last. -/
theorem witness_ElementsWritten : (([(0, 1), (1023, 2)] : List (Nat × Nat)).map Prod.fst).Nodup ∧
    ∀ x ∈ ([(0, 1), (1023, 2)] : List (Nat × Nat)), (x.1 + 1) * 32 ≤ 32768 := by decide

theorem test_plane_float : (
  v3Is (exec (.vadd h0 (v3 9)) (planes 0x809 0x40000000_3F800000 0x40400000_3F800000 3)) 32 [0x40000000, 0x40A00000] &&
  v3Is (exec (.vadd h0 (v3 9)) (planes 0x809 0x40000000_3F800000 0x40400000_3F800000 2)) 32 [0, 0x40A00000] &&
  v3Is (exec (.vsub h0 (v3 9)) (planes 0x809 0x40000000 0x3F800000 1)) 32 [0x3F800000] &&
  v3Is (exec (.vmul h0 (v3 9)) (planes 0x809 0x40000000 0x40400000 1)) 32 [0x40C00000] &&
  v3Is (exec (.vdiv h0 (v3 9)) (planes 0x809 0x40C00000 0x40400000 1)) 32 [0x40000000] &&
  v3Is (exec (.vrcp h0 ⟨.v 3, .v 1, .none, .none, .m 1, 0, 9⟩) (planes 0x809 0x40000000 0 1)) 32 [0x3F000000] &&
  v3Is (exec (.vsqrt h0 ⟨.v 3, .v 1, .none, .none, .m 1, 0, 9⟩) (planes 0x809 0x40800000 0 1)) 32 [0x40000000] &&
  v3Is (exec (.vrsq h0 ⟨.v 3, .v 1, .none, .none, .m 1, 0, 9⟩) (planes 0x809 0x40800000 0 1)) 32 [0x3F000000] &&
  v3Is (exec (.vexp2 h0 ⟨.v 3, .v 1, .none, .none, .m 1, 0, 9⟩) (planes 0x809 0x40400000 0 1)) 32 [0x41000000] &&
  v3Is (exec (.vlog2 h0 ⟨.v 3, .v 1, .none, .none, .m 1, 0, 9⟩) (planes 0x809 0x41000000 0 1)) 32 [0x40400000] &&
  v3Is (exec (.vtanh h0 ⟨.v 3, .v 1, .none, .none, .m 1, 0, 9⟩) (planes 0x809 0x7F800000 0 1)) 32 [0x3F800000]) = true := by
  decide

theorem test_plane_float_exact : (
  v3Is (exec (.vabs h0 (v3 9)) (planes 0x809 0xBF800000 0 1)) 32 [0x3F800000] &&
  v3Is (exec (.vneg h0 (v3 9)) (planes 0x809 0x3F800000 0 1)) 32 [0xBF800000] &&
  v3Is (exec (.vmin h0 (v3 9)) (planes 0x809 0 0x80000000 1)) 32 [0x80000000] &&
  v3Is (exec (.vmax h0 (v3 9)) (planes 0x809 0x80000000 0 1)) 32 [0] &&
  v3Is (exec (.vclamp h0 ⟨.v 3, .v 1, .imm, .v 2, .m 1, 0x3F800000, 9⟩) (planes 0x809 0x40800000 0x40000000 1)) 32 [0x40000000] &&
  v3Is (exec (.vfma h0 ⟨.v 3, .v 1, .v 2, .v 1, .m 1, 0, 9⟩) (planes 0x809 0x40000000 0x40400000 1)) 32 [0x41000000] &&
  meIs (exec (.vfcmp h0 ⟨.m 2, .v 1, .v 2, .none, .m 1, 0, 0x409⟩) (planes 0x809 0x40000000_3F800000 0x3F800000_40000000 3))
    (fun k => k.getM 2 == 1)) = true := by decide

/-- PlaneFloatResults, PlaneFloatExact, PlaneIntResults, PlaneLogicResults, with each condition code and VBCAST mode. -/
theorem witness_Planes :
    (ok (planesOk Ty.isPlaneFloat) (v3 9) (planes 0x809 0 0 3) && ok (planesOk Ty.isInt) (v3 4) (planes 0x804 0 0 3) &&
     ok (planesOk fun t => t != .f64) (v3 4) (planes 0x804 0 0 3) &&
     (List.range 7).all (fun n => ok (fun o s => planesOk Ty.isPlaneFloat o s && o.mod 9 3 == n)
       ⟨.m 2, .v 1, .v 2, .none, .m 1, 0, BitVec.ofNat 24 (n * 512 + 9)⟩ (planes 0x809 0 0 3)) &&
     (List.range 6).all (fun n => ok (fun o s => planesOk Ty.isInt o s && o.mod 10 3 == n)
       ⟨.m 2, .v 1, .v 2, .none, .m 1, 0, BitVec.ofNat 24 (n * 1024 + 4)⟩ (planes 0x804 0 0 3)) &&
     ok (fun o s => (s.me.shapeO o.o0).ty == o.ty 0 && !(s.me.shapeO o.o0).scaled && o.mod 10 2 == 0)
       ⟨.v 3, .s 2, .none, .none, .m 1, 0, 4⟩ (planes 0x804 0 0 3) &&
     ok (fun o s => plain o.o0 (o.ty 0) s && plain o.o1 (o.ty 0) s && o.mod 10 2 == 1 &&
       (s.me.shapeO o.o1).cols == (s.me.shapeO o.o0).cols) ⟨.v 3, .v 1, .imm, .none, .m 1, 1, 0x404⟩ (planesTo 0x824 0x804 0 0 3) &&
     ok (fun o s => plain o.o0 (o.ty 0) s && plain o.o1 (o.ty 0) s && o.mod 10 2 == 2 &&
       (s.me.shapeO o.o1).rows == (s.me.shapeO o.o0).rows) ⟨.v 3, .v 1, .imm, .none, .m 1, 1, 0x804⟩ (planesTo 0x004 0x804 0 0 3) &&
     ok (fun o s => plain o.o0 (o.ty 0) s && (s.me.shapeO o.o1).ty.width == (o.ty 0).width && alike o.o1 o.o0 s)
       ⟨.v 3, .v 1, .none, .none, .m 1, 0, 9⟩ (planesTo 0x809 0x804 0 0 3) &&
     ok (fun o s => (s.me.shapeO o.o0).scaled && (s.me.shapeO o.o1).scaled && o.o4 == .m 7 && alike o.o1 o.o0 s)
       ⟨.v 3, .v 1, .none, .none, .m 7, 0, 12⟩ (planes 0x4F80C 0 0 3)) = true := by decide

theorem test_plane_integer : (
  v3Is (exec (.viadd h0 (v3 0)) (planes 0x800 0x7F 1 1)) 8 [0x80] &&
  v3Is (exec (.viadd h0 (v3 0x200)) (planes 0x800 0x7F 1 1)) 8 [0x7F] &&
  v3Is (exec (.visub h0 (v3 0x201)) (planes 0x801 0x0500 0x0201 3)) 8 [0, 3] &&
  v3Is (exec (.vimul h0 (v3 1)) (planes 0x801 0x10 0x11 1)) 8 [0x10] &&
  v3Is (exec (.vimulh h0 (v3 1)) (planes 0x801 0x10 0x11 1)) 8 [1] &&
  v3Is (exec (.vimin h0 (v3 0)) (planes 0x800 0xFF 1 1)) 8 [0xFF] && v3Is (exec (.vimax h0 (v3 1)) (planes 0x801 0xFF 1 1)) 8 [0xFF] &&
  v3Is (exec (.viabs h0 (v3 0)) (planes 0x800 0x80 0 1)) 8 [0x80] && v3Is (exec (.vshl h0 (v3 1)) (planes 0x801 1 8 1)) 8 [0] &&
  v3Is (exec (.vshr h0 (v3 0)) (planes 0x800 0x80 9 1)) 8 [0xFF] && v3Is (exec (.vshr h0 (v3 1)) (planes 0x801 0x80 7 1)) 8 [1] &&
  v3Is (exec (.vpopc h0 (v3 1)) (planes 0x801 0xFF01 0 3)) 8 [1, 8] &&
  v3Is (exec (.viota h0 ⟨.v 3, .imm, .none, .none, .m 1, 5, 0x401⟩) (planes 0x821 0 0 15)) 8 [5, 5, 6, 6]) = true := by decide

theorem test_plane_logic : (
  v3Is (exec (.vand h0 (v3 1)) (planes 0x801 0xC 0xA 1)) 8 [8] && v3Is (exec (.vor h0 (v3 1)) (planes 0x801 0xC 0xA 1)) 8 [14] &&
  v3Is (exec (.vxor h0 (v3 1)) (planes 0x801 0xC 0xA 1)) 8 [6] && v3Is (exec (.vandn h0 (v3 1)) (planes 0x801 0xC 0xA 1)) 8 [4] &&
  v3Is (exec (.vlut4 h0 ⟨.v 3, .v 1, .v 2, .v 2, .m 1, 0xF000, 1⟩) (planes 0x801 0xC 0xA 1)) 8 [8] &&
  v3Is (exec (.vsel h0 (v3 1)) (planes 0x801 0x0C0C 0x0A0A 1)) 8 [0xC, 0xA] &&
  v3Is (exec (.vbcast h0 ⟨.v 3, .imm, .none, .none, .m 1, 7, 1⟩) (planes 0x801 0 0 3)) 8 [7, 7] &&
  v3Is (exec (.vbcast h0 ⟨.v 3, .v 1, .imm, .none, .m 1, 1, 0x401⟩) (planes 0x821 0x04030201 0 15)) 8 [3, 4, 3, 4] &&
  v3Is (exec (.vmov h0 (v3 1)) (planes 0x801 0x0201 0 3)) 8 [1, 2] &&
  meIs (exec (.vicmp h0 ⟨.m 2, .v 1, .v 2, .none, .m 1, 0, 0x800⟩) (planes 0x800 0xFF01 0x0101 3)) (fun k => k.getM 2 == 2))
  = true := by decide

/-- PlaneFrame: an instruction that takes no trap. -/
theorem witness_PlaneFrame : (planes 0x801 0 0 3).ready h0 (v3 1) = true ∧
    ∃ t, exec (.viadd h0 (v3 1)) (planes 0x801 0 0 3) = .next t ∧
      ∀ v, t ≠ (planes 0x801 0 0 3).takeTrap (planes 0x801 0 0 3).cur cILLFMT v := by
  refine ⟨by decide, _, rfl, fun v h => ?_⟩
  exact absurd (show (0 : Word) = 4 from congrArg (fun s : State => s.me.trapcause) h) (by decide)

theorem test_conversions : (
  v3Is (exec (.vcvt h0 ⟨.v 3, .v 1, .none, .none, .m 1, 0, 0x240A⟩) (planesTo 0x80A 0x809 0x3F800000 0 1)) 16 [0x3C00] &&
  v3Is (exec (.vcvt h0 ⟨.v 3, .v 1, .none, .none, .m 1, 0, 0x1200⟩) (planesTo 0x800 0x804 300 0 1)) 8 [127] &&
  v3Is (exec (.vquant h0 ⟨.v 3, .v 1, .imm, .none, .m 1, 0x40000000, 0x2600⟩) (planesTo 0x800 0x809 0x40A00000 0 1)) 8 [2] &&
  v3Is (exec (.vdequant h0 ⟨.v 3, .v 1, .imm, .none, .m 1, 0x40000000, 0x0009⟩) (planesTo 0x809 0x800 3 0 1)) 32 [0x40C00000])
  = true := by decide

theorem test_reductions : (
  meIs (exec (.vreds h0 ⟨.s 1, .v 1, .none, .none, .m 1, 0, 0x000404⟩) (planes 0x801 0x0503 0 3)) (fun k => k.getS 1 == 8) &&
  v3Is (exec (.vredr h0 ⟨.v 3, .v 1, .none, .none, .m 1, 0, 0x000404⟩) (planesTo 0x024 0x821 0x04030201 0 15)) 32 [3, 7] &&
  meIs (exec (.vargx h0 ⟨.s 1, .v 1, .none, .none, .m 1, 0, 0x008404⟩) (planes 0x821 0x01050205 0 15)) (fun k => k.getS 1 == 0))
  = true := by decide

theorem test_scan_sort : (
  v3Is (exec (.vsortk h0 ⟨.v 3, .v 4, .v 1, .v 2, .m 1, 0, 0x000401⟩) (planes 0x801 0x0103 0x0201 3)) 8 [1, 3] &&
  meIs (exec (.vsortk h0 ⟨.v 3, .v 4, .v 1, .v 2, .m 1, 0, 0x000401⟩) (planes 0x801 0x0103 0x0201 3)) (fun k => k.elem 4 8 0 == 2) &&
  v3Is (exec (.vsegred h0 ⟨.v 3, .m 2, .v 1, .v 2, .m 1, 0, 0x000401⟩) (planes 0x801 0x0101 0x0302 3)) 8 [2, 5] &&
  meIs (exec (.vsegred h0 ⟨.v 3, .m 2, .v 1, .v 2, .m 1, 0, 0x000401⟩) (planes 0x801 0x0101 0x0302 3)) (fun k => k.getM 2 == 2) &&
  v3Is (exec (.vscan h0 ⟨.v 3, .imm, .v 1, .imm, .m 1, 1, 0x000401⟩) (planes 0x801 0x0203 0 3)) 8 [4, 6]) = true := by decide

/-- Keys of a block type (BX8, whose shape is scaled) end their segments by their bits. -/
theorem test_block_keys : (
  let s := planes 0xF801 0x0101 0x0302 3
  let s := s.setMe { s.me with shp := s.me.shp.set 1 0x4F80F }
  v3Is (exec (.vsegred h0 ⟨.v 3, .m 2, .v 1, .v 2, .m 1, 0, 0x003C01⟩) s) 8 [2, 5]) = true := by decide

/-! ### Class 0x8 -/

/-- Operands of a shift of v1 into v3. -/
def sh (op2 : Operand) (md : BitVec 24) : Ops := ⟨.v 3, .v 1, op2, .none, .none, 9, md⟩

theorem test_vshift : (
  v3Is (exec (.vshift h0 (sh .none 0x02)) (planes 0x821 0x04030201 0 0)) 8 [0, 1, 0, 3] &&
  v3Is (exec (.vshift h0 (sh .imm 0x0A)) (planes 0x821 0x04030201 0 0)) 8 [9, 1, 9, 3] &&
  v3Is (exec (.vshift h0 (sh .none 0x16)) (planes 0x821 0x04030201 0 0)) 8 [2, 2, 4, 4] &&
  v3Is (exec (.vshift h0 (sh .none 0x19)) (planes 0x821 0x04030201 0 0)) 8 [4, 3, 2, 1] &&
  v3Is (exec (.vshift h0 (sh (.v 2) 0x22)) (planes 0x821 0x04030201 0x0D0C0B0A 0)) 8 [0xB, 1, 0xD, 3] &&
  trapIs (exec (.vshift h0 (sh (.v 2) 0x21)) (planes 0x821 0 0 0)) cILLFMT 5) = true := by decide

theorem test_masks : (
  meIs (exec (.mandn h0 ⟨.m 2, .m 7, .m 1, .none, .none, 0, 0⟩) (planes 0x821 0 0 5)) (fun k => (k.getM 2).toNat % 16 == 10) &&
  meIs (exec (.mand h0 ⟨.m 2, .m 7, .m 1, .none, .none, 0, 0⟩) (planes 0x821 0 0 5)) (fun k => k.getM 2 == 5) &&
  meIs (exec (.mor h0 ⟨.m 2, .m 3, .m 1, .none, .none, 0, 0⟩) (planes 0x821 0 0 5)) (fun k => k.getM 2 == 5) &&
  meIs (exec (.mxor h0 ⟨.m 2, .m 1, .m 1, .none, .none, 0, 0⟩) (planes 0x821 0 0 5)) (fun k => k.getM 2 == 0) &&
  meIs (exec (.mnot h0 ⟨.m 2, .m 7, .none, .none, .none, 0, 0⟩) (planes 0x821 0 0 5)) (fun k => k.getM 2 == 0) &&
  meIs (exec (.mmov h0 ⟨.m 2, .m 1, .none, .none, .none, 0, 0⟩) (planes 0x821 0 0 5)) (fun k => k.getM 2 == 5) &&
  meIs (exec (.mpop h0 ⟨.s 1, .m 7, .imm, .none, .none, 9000, 0⟩) st0) (fun k => k.getS 1 == 8192) &&
  meIs (exec (.many h0 ⟨.p 1, .m 1, .imm, .none, .none, 2, 0⟩) (planes 0x821 0 0 4)) (fun k => !k.getP 1) &&
  meIs (exec (.many h0 ⟨.p 1, .m 1, .imm, .none, .none, 0, 1⟩) (planes 0x821 0 0 4)) (fun k => k.getP 1)) = true := by decide

theorem test_mask_lattice : (
  meIs (exec (.mshift h0 ⟨.m 2, .m 1, .v 1, .none, .none, 0, 0x02⟩) (planes 0x821 0 0 5)) (fun k => k.getM 2 == 10) &&
  meIs (exec (.mrule h0 ⟨.m 2, .s 1, .v 1, .imm, .m 1, 3, 0⟩) (planes 0x821 0xFF030103 0 15))
    (fun k => k.getM 2 == 5 && k.getS 1 == 0x800000000000000A) &&
  meIs (exec (.medge h0 ⟨.s 1, .m 1, .v 1, .none, .none, 0, 0⟩) (planes 0x821 0 0 2)) (fun k => k.getS 1 == 7)) = true := by
  decide

theorem test_activity : (
  meIs (exec (.actwr h0 ⟨.s 2, .s 3, .none, .none, .none, 8, 0⟩) (regs 0x40 65)) (fun k => memRead k.ls 0x48 == 2) &&
  meIs (exec (.actrd h0 ⟨.p 1, .s 2, .imm, .none, .none, 9, 0⟩) (on fun k => { k.setS 2 0x40 with ls := [(0x41, 2)] }))
    (fun k => k.getP 1) && trapIs (exec (.actrd h0 ⟨.p 1, .s 2, .imm, .none, .none, 9, 0⟩) (regs 0x44 0)) cALIGN 0x44) = true := by
  decide

/-- LatticeShift: the five modes, and a diagonal with .edge. -/
theorem witness_LatticeShift : ([0, 1, 2, 3, 4].all (fun n => ok (fun o s => decide (o.mod 3 3 < 5) && plain o.o1 .n8 s &&
      alike o.o1 o.o0 s && alike o.o2 o.o0 s && !(s.me.shapeO o.o0).scaled) (sh (.v 2) (BitVec.ofNat 24 (8 * n + 2)))
      (planes 0x821 0 0 0)) &&
    ok (fun o _ => o.mod 0 3 % 2 == 1 && (o.mod 3 3 == 4 || o.mod 3 3 == 5)) (sh (.v 2) 0x21) (planes 0x821 0 0 0) &&
    ok (fun _ s => (s.me.shapeO (.v 3)).scaled) (sh .none 2) (planes 0x4F80C 0 0 0) &&
    ok (fun o s => !alike o.o1 o.o0 s) (sh .none 2) (planesTo 0x801 0x821 0 0 0) &&
    (let s := planes 0x821 0 0 0
     ok (fun o s => o.mod 3 3 == 4 && alike o.o1 o.o0 s && !alike o.o2 o.o0 s) (sh (.v 2) 0x22)
       (s.setMe { s.me with shp := s.me.shp.set 2 0x801 }))) = true := by
  decide

/-- `planes` with an edge message on its way to core 0 and a HALO shift that waits for it. -/
def haloState : State :=
  let s := planes 0x821 0x04030201 0 0
  { s.setMe { s.me with haloPend := [⟨2, 3, 0x821, [(1, 7)]⟩] } with
    gangs := s.gangs.map fun g => { g with edges := [⟨2, 0, 0, 0x0201⟩], census := 2 } }

/-- HaloExchange: an eastward shift round the gang, and the arrival of its edge. -/
theorem witness_HaloExchange : (
    ok (fun o s => o.mod 3 3 == 5 && s.me.shiftBad o == none && (s.gangAt s.me).any (fun g =>
      (haloPartner g s.me.gx s.me.gy (o.mod 0 3) 1 (o.bit 6)) == some (1, 0) &&
      (haloPartner g s.me.gx s.me.gy (o.mod 0 3) (-1) (o.bit 6)) == some (1, 0)) && s.me.edges.isEmpty)
      (sh .none 0x6A) (planes 0x821 0x04030201 0 0) &&
    ((haloState.gangAt haloState.me).any fun g => g.phase != .killing && g.edges == [⟨2, 0, 0, 0x0201⟩]) &&
    haloState.me.gx == 0 && haloState.me.gy == 0 && haloState.me.haloPend == [⟨2, 3, 0x821, [(1, 7)]⟩]) = true := by decide

theorem test_halo : (
  nextIs (exec (.vshift h0 (sh .none 0x6A)) (planes 0x821 0x04030201 0 0)) (fun t =>
    t.gangs.map (·.census) == [2] && t.gangs.map (·.edges) == [[⟨2, 1, 0, 0x0402⟩]] && t.me.haloPend == [⟨2, 3, 0x821, [(1, 1), (3, 3)]⟩]) &&
  nextIs (exec (.haloEdgeArrival 0 2) haloState) (fun t => t.gangs.map (·.census) == [0] && t.me.haloPend.isEmpty &&
    t.me.elem 3 8 0 == 1 && t.me.elem 3 8 1 == 7 && t.me.elem 3 8 2 == 2)) = true := by decide

/-- MaskResults, MaskShiftRuleEdge, ActivityResults. -/
theorem witness_Masks : (ok always (sh .none 2) (planes 0x821 0 0 1) && ok (fun o _ => !o.bit 0) (sh .none 0) st0 &&
    ok (fun o _ => o.bit 0) (sh .none 1) st0 &&
    ok (fun o s => o.mod 3 3 == 4 && o.mod 0 3 % 2 == 0 && (s.me.shapeO o.o2).ty == .n8 && !(s.me.shapeO o.o2).scaled)
      ⟨.m 2, .m 1, .v 1, .m 1, .none, 0, 0x22⟩ (planes 0x821 0 0 1) &&
    ok (fun o s => inLs (s.me.word o.o1 0).toNat 8 && lsOk s [((s.me.word o.o1 0).toNat, 8)]) ⟨.p 1, .s 2, .imm, .none, .none, 9, 0⟩ (regs 0x7FFF8 0) &&
    ok (fun o s => !((s.me.word o.o1 0).toNat % 8 == 0 && decide ((s.me.word o.o1 0).toNat + 8 ≤ 0x80000)))
      ⟨.p 1, .s 2, .imm, .none, .none, 9, 0⟩ (regs 0x80000 0) &&
    [0, 1, 2, 3].all (fun n => ok (fun o s => o.mod 0 2 == n && inLs (s.me.word o.o0 0).toNat 8 && lsOk s [((s.me.word o.o0 0).toNat, 8)])
      ⟨.s 2, .imm, .none, .none, .none, 9, BitVec.ofNat 24 n⟩ (regs 0x7FFF8 0))) = true := by decide

/-! ### Class 0x9 -/

/-- Operands a0, v1, v2. -/
def ma (md : BitVec 24) : Ops := ⟨.a 0, .v 1, .v 2, .none, .none, 0, md⟩
/-- Shapes of A (v1), the pair of B (v2, v3) and the metadata (v4) of an MMAS. -/
def sparse : State := on fun k => { k with shp := (((k.shp.set 1 0x80B).set 2 0x80B).set 3 0x80B).set 4 0x1811 }

theorem test_matrix : (
  meIs (exec (.mma h0 (ma 0x0000)) (planes 0x820 0x0403FF02 0x00000201 0)) (fun k =>
    (List.range 3).map (k.accBits 0) == [0, 0, 0] && k.accBits 0 64 == 11) &&
  meIs (exec (.accwr h0 ⟨.a 0, .v 1, .imm, .none, .m 7, 0, 0x204⟩) (planes 0x804 0x00000005_FFFFFFFF 0 0))
    (fun k => k.accBits 0 0 == 0xFFFFFFFF && k.accBits 0 1 == 5) &&
  meIs (exec (.mzero h0 ⟨.a 0, .none, .none, .none, .none, 0, 0⟩) (on fun k => { k with acc := k.acc.set 0 7 }))
    (fun k => k.acc[0] == 0) &&
  v3Is (exec (.accrd h0 ⟨.v 3, .a 0, .imm, .none, .m 7, 0, 9⟩) (on fun k => { k with
    shp := k.shp.set 3 0x809, acc := k.acc.set 0 0x40000000_3F800000 })) 32 [0x3F800000, 0x40000000]) = true := by decide +kernel

/-- An odd op2 of an MMAS fails before any plane is looked at (R172), and an ACCRD of an integer from an integer draws once per active
element under SR (R174). -/
theorem test_pair_and_draw : (
  (sparse.setMe { sparse.me with shp := sparse.me.shp.set 0 0x4080C }).me.mmasBad ⟨.a 0, .v 1, .v 31, .v 4, .none, 0, 0x160B⟩ == some 2 &&
  meIs (exec (.accrd h0 ⟨.v 3, .a 0, .imm, .none, .m 7, 0, 0x204⟩) (on fun k => { k with
    shp := k.shp.set 3 4, acc := k.acc.set 0 7, fpmode := 0x28 })) (fun k => k.elem 3 32 0 == 7 && k.lfsr == 0x40822041)) = true := by
  decide +kernel

/-- MatrixZero, MatrixProducts, AccumulatorMoves. -/
theorem witness_Matrix : (ok always (ma 0) st0 &&
    ok (fun o s => s.me.mmaBad o == none && (o.ty 0).isInt && decide ((s.me.shapeO o.o2).rows ≤ 64)) (ma 0) (planes 0x820 0 0 0) &&
    ok (fun o s => s.me.mmaBad o == none && !(o.ty 0).isInt && decide ((s.me.shapeO o.o2).rows ≤ 64)) (ma 0x140A)
      (planes 0x82A 0 0 0) &&
    ok (fun o s => s.me.mmasBad o == none && !s.regPending (.v (pairNo o.o2.planeNo)))
      ⟨.a 0, .v 1, .v 2, .v 4, .none, 0, 0x160B⟩ sparse &&
    ok (fun o s => (s.me.accrdBad o).isNone) ⟨.v 3, .a 0, .imm, .none, .m 7, 0, 9⟩ (planes 0x829 0 0 0) &&
    ok (fun o s => (s.me.accwrBad o).isNone) ⟨.a 0, .v 1, .imm, .none, .m 7, 0, 9⟩ (planes 0x829 0 0 0)) = true := by decide

/-- ConversionResults, ReductionResults, ScanSortSegment: each form. -/
theorem witness_Conversions : (
    ok (fun o s => Ops.dstTy o == .f16 && Ops.srcTy o == .f32 && plain o.o0 .f16 s && plain o.o1 .f32 s && alike o.o1 o.o0 s)
      ⟨.v 3, .v 1, .none, .none, .m 1, 0, 0x240A⟩ (planesTo 0x80A 0x809 0 0 1) &&
    ok (fun o s => Ops.dstTy o == .s8 && Ops.srcTy o == .s32 && plain o.o0 .s8 s && plain o.o1 .s32 s && alike o.o1 o.o0 s)
      ⟨.v 3, .v 1, .none, .none, .m 1, 0, 0x1200⟩ (planesTo 0x800 0x804 0 0 1) &&
    ok (fun o s => (Ops.srcTy o).isPlaneFloat && Ty.isQuant (Ops.dstTy o) && plain o.o0 .s8 s && plain o.o1 .f32 s &&
      alike o.o1 o.o0 s) ⟨.v 3, .v 1, .imm, .none, .m 1, 0, 0x2600⟩ (planesTo 0x800 0x809 0 0 1) &&
    ok (fun o s => (Ops.srcTy o).isPlaneFloat && Ty.isQuant (Ops.dstTy o) && (s.me.shapeO o.o0).scaled && plain o.o1 .f32 s &&
      alike o.o1 o.o0 s && o.o4 == .m 7) ⟨.v 3, .v 1, .imm, .none, .m 7, 0, 0x260C⟩ (planesTo 0x4F80C 0xF809 0 0 1) &&
    ok (fun o s => (Ops.dstTy o).isPlaneFloat && plain o.o0 .f32 s && (s.me.shapeO o.o1).ty == Ops.srcTy o && alike o.o1 o.o0 s)
      ⟨.v 3, .v 1, .imm, .none, .m 1, 0, 0x0009⟩ (planesTo 0x809 0x800 0 0 1) &&
    ok (fun o s => (Ops.srcTy o).isInt && (Ops.dstTy o).isInt && (s.me.shapeO o.o1).ty == Ops.srcTy o)
      ⟨.s 1, .v 1, .none, .none, .m 1, 0, 0x000404⟩ (planes 0x801 0 0 1) &&
    ok (fun o s => plain o.o0 .s32 s && !o.bit 18 && (s.me.shapeO o.o0).rows == (s.me.shapeO o.o1).rows &&
      (s.me.shapeO o.o0).cols == 1 && (s.me.shapeO o.o1).ty == Ops.srcTy o)
      ⟨.v 3, .v 1, .none, .none, .m 1, 0, 0x000404⟩ (planesTo 0x024 0x821 0 0 1) &&
    ok (fun o s => plain o.o0 .s32 s && o.bit 18 && (s.me.shapeO o.o0).rows == 1 &&
      (s.me.shapeO o.o0).cols == (s.me.shapeO o.o1).cols && (s.me.shapeO o.o1).ty == Ops.srcTy o)
      ⟨.v 3, .v 1, .none, .none, .m 1, 0, 0x040404⟩ (planesTo 0x804 0x821 0 0 1) &&
    ok (fun o s => !Ops.planeDst o && (s.me.shapeO o.o1).ty == Ops.srcTy o && decide (((s.me.shapeO o.o1).n : Int) - 1 ≤ Ty.s32.maxI))
      ⟨.s 1, .v 1, .none, .none, .m 1, 0, 0x008404⟩ (planes 0x821 0 0 1) &&
    ok (fun o s => Ops.planeDst o && plain o.o0 .s32 s && (s.me.shapeO o.o0).cols == 1 && (s.me.shapeO o.o1).ty == Ops.srcTy o &&
      (s.me.shapeO o.o0).rows == (s.me.shapeO o.o1).rows)
      ⟨.v 3, .v 1, .none, .none, .m 1, 0, 0x008404⟩ (planesTo 0x024 0x821 0 0 1) &&
    ok (fun o s => Ops.srcTy o == Ops.dstTy o && plain o.o0 .n8 s && s.me.planeOk o.o1 .n8 (s.me.shapeO o.o0) &&
      s.me.planeOk o.o2 .n8 (s.me.shapeO o.o0)) ⟨.v 3, .imm, .v 1, .imm, .m 1, 1, 0x000401⟩ (planes 0x801 0 0 3) &&
    ok (fun o s => [o.o0, o.o1, o.o2, o.o3].all fun x => plain x .n8 s && alike x o.o0 s)
      ⟨.v 3, .v 4, .v 1, .v 2, .m 1, 0, 0x000401⟩ (planes 0x801 0 0 3) &&
    ok (fun o s => [o.o0, o.o1, o.o2].all (fun x => plain x .f32 s && alike x o.o0 s) && Ops.srcTy o == Ops.dstTy o)
      ⟨.v 3, .v 1, .v 2, .imm, .m 1, 0, 0x2409⟩ (planes 0x809 0 0 3) &&
    ok (fun o s => (Ops.srcTy o).isPlaneFloat && Ty.isQuant (Ops.dstTy o) && (s.me.shapeO o.o0).scaled && plain o.o1 .f32 s &&
      alike o.o1 o.o0 s && o.o4 != .m 7) ⟨.v 3, .v 1, .imm, .none, .m 1, 0, 0x260C⟩ (planesTo 0x4F80C 0xF809 0 0 1) &&
    !Ty.isQuant .s64 && ok (fun o s => Ops.srcTy o == .f32 && Ops.dstTy o == .f32 && o.mod 15 3 == 2 && (s.me.shapeO o.o1).ty == .f32)
      ⟨.s 1, .v 1, .none, .none, .m 1, 0, 0x012409⟩ (planes 0x809 0 0 1) &&
    ok (fun o s => plain o.o0 .f32 s && (s.me.shapeO o.o0).rows == (s.me.shapeO o.o1).rows && (s.me.shapeO o.o0).cols == 1)
      ⟨.v 3, .v 1, .none, .none, .m 1, 0, 0x2409⟩ (planesTo 0x029 0x829 0 0 1) &&
    ok (fun o s => Ops.dstTy o == .s32 && Ops.srcTy o == .e4m3 && (s.me.shapeO o.o1).scaled)
      ⟨.s 1, .v 1, .none, .none, .m 1, 0, 0x3004⟩ (planes 0x4F80C 0 0 1) &&
    ok (fun o s => Ops.dstTy o == .n8 && (s.me.shapeO o.o1).n == 256) ⟨.s 1, .v 1, .none, .none, .m 1, 0, 0x0401⟩
      (planes 0x1FE1 0 0 1)) = true := by decide

/-- ConversionResults, the blocks: with an infinity, of zeros, and with numbers whose largest lies in [2, 4). -/
theorem witness_Blocks : (∃ y ∈ [XVal.fin false 3 1, .inf true], y = .nan ∨ ∃ n, y = .inf n) ∧
    (∀ y ∈ [XVal.zero true, .zero false], ∃ n, y = .zero n) ∧
    (∃ n a b, XVal.fin n a b ∈ [XVal.fin true 3 1, .zero false] ∧ (2 : ℚ) ^ (1 : ℤ) ≤ (a : ℚ) / b) ∧
    (∀ n a b, XVal.fin n a b ∈ [XVal.fin true 3 1, .zero false] → (a : ℚ) / b < 2 ^ ((1 : ℤ) + 1) ∧ a ≠ 0 ∧ b ≠ 0) := by
  refine ⟨⟨.inf true, by decide, .inr ⟨true, rfl⟩⟩, by decide, ⟨true, 3, 1, by decide, by norm_num⟩, ?_⟩
  rintro n a b h
  obtain ⟨rfl, rfl, rfl⟩ : n = true ∧ a = 3 ∧ b = 1 := by simpa using h
  norm_num

/-- A block of an MX type: the largest 3 · 2^7 has lg 8, so E4M3 takes the scale 127, and a block of a BX type 135 (R96, R97). -/
theorem test_blocks : (
  mxBlock ⟨.rne, false, false⟩ .e4m3 [.fin false 384 1, .zero true] ⟨1, 0⟩ == (127, [0x7C, 0x80], ⟨1, 0⟩) &&
  (bxBlock .rne true 3 [.fin true 2 1, .fin false 1 1] ⟨1, 0⟩).1 == (125, 128) &&
  mxBlock ⟨.rne, false, false⟩ .e4m3 [.nan] ⟨1, 0⟩ == (255, [0], ⟨1, flInvalid⟩)) = true := by decide

/-- SortAndSelectionOrder: rising indices over values in lowest terms, an empty list, NaN alone, and a value beside NaN. -/
theorem witness_SortOrder : ([0, 1, 5] : List Nat).Pairwise (· < ·) ∧ XVal.fin false 1 1 = .fin false 1 1 ∧
    sortKeys (fun i => if i = 1 then .nan else .fin false 1 1) false [0, 1, 5] = [0, 5, 1] ∧ argOf true 8 [] = 255 ∧
    argOf true 8 [(4, .nan), (6, .nan)] = 4 ∧ argOf true 8 [(4, .nan), (6, .fin true 1 1)] = 6 := by decide

/-! ### Class 0x0 -/

/-- A one-operand form. -/
def o0 (x : Operand) (imm : BitVec 32) (md : BitVec 24) : Ops := ⟨x, .none, .none, .none, .none, imm, md⟩
/-- `st0` at pc 0x100 with s2 and lc0 set. -/
def flow (a : Word) (lc : BitVec 32) : State := on fun k => { k.setS 2 a with pc := 0x100, lc := k.lc.set 0 lc, lcl := k.lcl.set 0 7 }
/-- The actors of a gang with a trap actor in slot 7, a source in slot 0 and two consumers; three channels of two slots. -/
def actors : Image := { probeGang.img with
  trap := some 3
  actors := [⟨0, 0, true, none, 0, 0, 1, 1, 0⟩, ⟨1, 2, false, some 0, 0, 0, 1, 1, 0x40⟩, ⟨2, 1, false, some 8, 0, 0, 1, 1, 0x60⟩,
    ⟨7, 0, false, none, 0, 0, 1, 1, 0x80⟩]
  chans := [⟨0, 0, 0, 1, 2, 1, 1, 8, 0, 0⟩, ⟨0, 1, 8, 2, 2, 1, 1, 8, 0, 0⟩, ⟨0, 2, 9, 2, 2, 1, 1, 8, 0, 0⟩] }
/-- Tokens in the instances of the channels, `v` the first one's visibility. -/
def toks (v : Bool) : List Inst := [⟨⟨0, 0, 0⟩, [⟨50, 11, v, []⟩]⟩, ⟨⟨2, 0, 0⟩, [⟨51, 12, true, []⟩, ⟨52, 13, true, []⟩]⟩]
/-- A state whose running firing is of the actor in `slot`. -/
def net (slot : Fin 8) (l : List Inst) : State :=
  let s := gangOn fun g => { g with img := actors, insts := l, census := 3 }
  s.setMe { s.me with fire := some ⟨slot, if slot = 7 then .trap else .normal, 3⟩ }

theorem test_control : (
  meIs (exec (.nop h0 (o0 .none 0 0)) (flow 0 0)) (fun k => k.pc == 0x110) &&
  meIs (exec (.br h0 (o0 .none 0xFFFFFFFF 0)) (flow 0 0)) (fun k => k.pc == 0xF0) &&
  meIs (exec (.jmp h0 (o0 (.s 2) 0 0)) (flow 0x40 0)) (fun k => k.pc == 0x40) &&
  trapIs (exec (.jmp h0 (o0 (.s 2) 0 0)) (flow 0x48 0)) cALIGN 0x48 &&
  meIs (exec (.call h0 ⟨.s 1, .imm, .none, .none, .none, 2, 0⟩) (flow 0 0)) (fun k => k.pc == 0x120 && k.getS 1 == 0x110) &&
  meIs (exec (.ret h0 (o0 (.s 2) 0 0)) (flow 0x40 0)) (fun k => k.pc == 0x40) &&
  meIs (exec (.loop h0 (o0 (.lc 0) 0xFFFFFFFE 0)) (flow 0 2)) (fun k => k.pc == 0xE0 && k.lc[0] == 1) &&
  meIs (exec (.loop h0 (o0 (.lc 0) 0xFFFFFFFE 0)) (flow 0 1)) (fun k => k.pc == 0x110 && k.lc[0] == 7)) = true := by decide

/-- `stTrap` after an engine fault of slot 1, whose command halted. -/
def engTrap : State := stTrap.setMe { stTrap.me with
  trapcause := 0x910
  eng := stTrap.me.eng.set 1 ⟨.halted, 1, 0, 1, 0, some ⟨.copy, ⟨0, .normal, 3⟩, 1, 0, 0x40, 0, 0, 0, 0, none, some 1, [], 0, 0, 0, 0, [],
    none, [], [], []⟩, some (0x10, 5), false⟩ }

theorem test_traps : (
  meIs (exec (.brk h0 (o0 .none 5 0)) (net 0 [])) (fun k => k.trapcause == 8 && k.trapval == 5 && k.inTrap && k.pc == 0x80 &&
    k.starting && k.susp.isSome) &&
  nextIs (exec (.brk h0 (o0 .none 5 0)) st0) (fun t => t.gangs.any fun g => g.doom.any fun d => d.status == 4 && d.cause == 8) &&
  meIs (exec (.eret h0 (o0 .none 0 1)) stTrap) (fun k => k.pc == 0x10 && !k.inTrap && k.susp.isNone) &&
  trapIs (exec (.eret h0 (o0 .none 0 1)) st0) cILLOP 0 && trapIs (exec (.kill h0 (o0 .none 0 0)) st0) cILLOP 0 &&
  nextIs (exec (.kill h0 (o0 .none 0 0)) stTrap) (fun t => t.gangs.any fun g => g.doom.any fun d => d.status == 5) &&
  meIs (exec (.eret h0 (o0 .none 0 1)) engTrap) (fun k => !k.inTrap && k.pc == 0 && k.eng[1].state == .free && k.eng[1].held == 0) &&
  meIs (exec (.eret h0 (o0 .none 0 0)) engTrap) (fun k => !k.inTrap && k.eng[1].state == .issued && k.eng[1].held == 1) &&
  meIs (exec (.fin h0 (o0 .none 0 1)) st0) (fun k => k.fire.isNone && k.exhausted[0]) &&
  meIs (exec (.trapActorStart 0) (on fun k => { k with starting := true })) (fun k => !k.starting)) = true := by decide

/-- ControlFlow: targets that are aligned and not, and the last count of a loop. -/
theorem witness_ControlFlow : (ok (fun o s => (s.me.word o.o0 0).toNat % 16 == 0) (o0 (.s 2) 0 0) (flow 0x40 0) &&
    ok (fun o s => (s.me.word o.o0 0).toNat % 16 != 0) (o0 (.s 2) 0 0) (flow 0x4F 0) &&
    ok (fun _ s => decide (s.me.lc[0].toNat ≤ 1)) (o0 (.lc 0) 0 0) (flow 0 1) &&
    ok (fun _ s => decide (1 < s.me.lc[0].toNat)) (o0 (.lc 0) 0 0) (flow 0 2)) = true := by decide

/-- TrapsAndReturns: with a trap actor, inside it, and without one; an ERET of a precise trap and of an engine fault, which skips or
tries again. -/
theorem witness_TrapsAndReturns : (
    (((net 0 []).gangAt (net 0 []).me).any fun g => (g.trapAt 0 0).isSome && g.doom.isNone) && !(net 0 []).me.inTrap &&
    ((st0.gangAt st0.me).any fun g => (g.trapAt 0 0).isNone && g.doom.isNone) && stTrap.me.inTrap && (net 7 []).me.inTrap &&
    stTrap.ready h0 (o0 .none 0 1) && stTrap.me.susp.isSome && !stTrap.me.trapcause.getLsbD 11 && stTrap.me.gang.isSome &&
    (let s := stTrap.setMe { stTrap.me with trapcause := 0x910 }
     s.ready h0 (o0 .none 0 0) && s.me.inTrap && s.me.susp.isSome && s.me.trapcause.getLsbD 11 && !(o0 .none 0 0).bit 0) &&
    (let s := engTrap
     s.ready h0 (o0 .none 0 1) && s.me.inTrap && s.me.trapcause.getLsbD 11 && (s.me.eng[1].cmd).isSome && s.me.gang.isSome) &&
    st0.ready h0 (o0 .none 0 1)) = true := by decide

/-! ### Class 0xA -/

theorem test_channels : (
  nextIs (exec (.send h0 ⟨.c 0, .imm, .none, .none, .none, 9, 0⟩) (net 0 [])) (fun t =>
    t.gangs.map (fun g => (g.toks ⟨0, 0, 0⟩).map (·.val)) == [[9]] && t.gangs.map (·.census) == [4] && t.me.pc == 16) &&
  nextIs (exec (.send h0 ⟨.c 2, .imm, .none, .none, .none, 9, 0⟩) (net 0 (toks true))) (fun t => t.me.pc == 0) &&
  trapIs (exec (.send h0 ⟨.c 5, .imm, .none, .none, .none, 9, 0⟩) (net 0 [])) cCHAN 5 &&
  nextIs (exec (.steer h0 ⟨.c 0, .s 2, .imm, .none, .none, 9, 1⟩) ((net 0 []).setMe ((net 0 []).me.setS 2 3))) (fun t =>
    t.gangs.map (fun g => (g.toks ⟨1, 0, 0⟩).map (·.val)) == [[9]]) &&
  meIs (exec (.recv h0 ⟨.s 1, .c 0, .none, .none, .none, 0, 0⟩) (net 1 (toks true))) (fun k => k.getS 1 == 11) &&
  meIs (exec (.recv h0 ⟨.s 1, .c 0, .none, .none, .none, 0, 0⟩) (net 1 (toks false))) (fun k => k.pc == 0) &&
  meIs (exec (.peek h0 ⟨.s 1, .p 1, .c 0, .none, .none, 0, 0⟩) (net 1 (toks false))) (fun k => k.getS 1 == 0 && !k.getP 1) &&
  meIs (exec (.merge h0 ⟨.s 1, .s 2, .c 8, .none, .none, 0, 1⟩) (net 2 (toks true)))
    (fun k => k.getS 1 == 12 && k.getS 2 == 9 && k.rot[2] == 9) &&
  nextIs (exec (.tokenVisible 50) (net 1 (toks false))) (fun t => t.gangs.all fun g => (g.headTok ⟨0, 0, 0⟩) == some 11)) = true := by
  decide

/-- ChannelResults: a free port and a full one, a port with a token, a merge, an undeclared port, a token to reveal. -/
theorem witness_ChannelResults : (
    (let s := net 0 (toks true)
     s.ready h0 ⟨.c 0, .imm, .none, .none, .none, 9, 0⟩ && (s.gangAt s.me).isSome && (s.outPort 0).isSome &&
     (portSet (.c 0) ⟨.c 0, .s 2, .imm, .none, .none, 9, 2⟩).all (fun q => (s.outPort q).isSome) && (s.outPort 15).isNone && (s.inPort 0).isNone) &&
    (let s := net 1 (toks true)
     (s.inPort 0).isSome && ((s.gangAt s.me).any fun g => g.headTok ⟨0, 0, 0⟩ == some 11)) &&
    (let s := net 2 (toks true)
     (portSet (.c 8) ⟨.s 1, .s 2, .c 8, .none, .none, 0, 1⟩).all (fun q => decide (8 ≤ q) && (s.inPort q).isSome) && (s.inPort 9).isSome &&
     scanPorts s.me.rot[s.me.slot] ((portSet (.c 8) ⟨.s 1, .s 2, .c 8, .none, .none, 0, 1⟩).filter fun q => (s.headOf q).isSome) ==
       some 9) &&
    (((net 1 (toks false)).gangs.findSome? fun g => (g.instOf 50).map fun x => (g.gid, x.ref)) == some (1, ⟨0, 0, 0⟩))) = true := by
  decide

/-- A remote access of the running firing, at the local store of core 1. -/
def away (r : Req) (n : Nat) : Access :=
  ⟨7, 7, 0, ⟨0, .normal, 0⟩, 1, 0, 8, n, 1, r, none, none, .sent (.remote 1 8), none, false, none, false, false, false⟩
/-- `st0` with one access under way. -/
def flying (a : Access) : State := { st0 with flight := [a], nextId := 8 }

theorem test_remote : (
  nextIs (exec (.rst h0 ⟨.s 2, .s 3, .s 2, .none, .none, 8, 5⟩) (regs 1 0x10)) (fun t => t.flight.map (·.phase) ==
    [.sent (.remote 1 0x18)] && t.flight.map (·.req) == [.rst 4 1] && t.gangs.map (·.census) == [1]) &&
  nextIs (exec (.rld h0 ⟨.s 1, .s 2, .s 3, .none, .none, 8, 5⟩) (regs 0x101 0x10)) (fun t => t.flight.map (·.phase) ==
    [.sent (.remote 33 0x18)] && t.gangs.map (·.census) == [0]) &&
  trapIs (exec (.ratom h0 ⟨.s 1, .s 2, .s 3, .s 3, .none, 2, 7⟩) (regs 1 0x10)) cALIGN 0x12 &&
  nextIs (exec (.remoteLsAccess 7) (flying (away (.rst 4 0x55) 4))) (fun t => memRead (t.core 1).ls 8 == 0x55 &&
    t.flight.map (·.phase) == [.done 0 0]) &&
  nextIs (exec (.remoteLsAccess 7) ((flying (away (.ratom 0 .n32 3 0 (.s 1)) 4)).setCore 1 { Core.reset with ls := [(8, 4)] }))
    (fun t => memRead (t.core 1).ls 8 == 7 && t.flight.map (·.phase) == [.done 4 0]) &&
  meIs (exec (.barg h0 ⟨.imm, .none, .none, .none, .none, 2, 0⟩) st0) (fun k => k.hold == some .barrier) &&
  meIs (exec (.barg h0 ⟨.imm, .none, .none, .none, .none, 1, 0⟩) st0) (fun k => k.hold == none && k.pc == 16)) = true := by decide

/-- RemoteAndBarrier: aligned, misaligned and outside, each type check, a remote write outstanding or not, an arrival. -/
theorem witness_RemoteAndBarrier : (
    ok (fun o s => (o.ty 0).isScalar && (addOff (s.me.word o.o2 0) o.imm).toNat % tyBytes o == 0 &&
      decide ((addOff (s.me.word o.o2 0) o.imm).toNat + tyBytes o ≤ 0x80000)) ⟨.s 1, .s 2, .s 3, .none, .none, 0, 5⟩ (regs 1 0x7FFFC) &&
    ok (fun o s => decide (0x80000 < (addOff (s.me.word o.o2 0) o.imm).toNat + tyBytes o))
      ⟨.s 1, .s 2, .s 3, .none, .none, 4, 5⟩ (regs 1 0x7FFFC) &&
    ok (fun o _ => o.ty 0 == .n64) ⟨.s 1, .s 2, .s 3, .s 3, .none, 0, 7⟩ (regs 1 0) &&
    ok (fun o _ => !(o.ty 0).isScalar) ⟨.s 1, .s 2, .s 3, .none, .none, 0, 15⟩ st0 &&
    ok (fun o _ => !(o.ty 0 == .s32 || o.ty 0 == .n32 || o.ty 0 == .s64 || o.ty 0 == .n64)) ⟨.s 1, .s 2, .s 3, .s 3, .none, 0, 9⟩ st0 &&
    (st0.gangAt st0.me).isSome && st0.remoteWrites.isEmpty && !(flying (away (.rst 4 0) 4)).remoteWrites.isEmpty &&
    (flying (away (.rst 4 0) 4)).portOpen (corePort 1) &&
    !({ flying (away (.rst 4 0) 4) with buckets := [⟨corePort 1, 0x100010001, 255⟩] } : State).portOpen (corePort 1) &&
    !((flying (away (.rst 4 0) 4)).core 1).owned 8 4 && !(flying (away (.rst 4 0) 4)).asleep 1) = true := by decide

/-! ### Class 0xB -/

/-- An access of the running firing to the page of the word, on its way to physical address 0x40. -/
def acc (r : Req) (n : Nat) : Access :=
  ⟨7, 7, 0, ⟨0, .normal, 0⟩, 1, 0, 0x40, n, 1, r, none, none, .sent (.phys 0x40 probePage), some probePage, false, none, false, false, false⟩
/-- A condition on the address of a load or a store of type N64. -/
def at1 (o : Ops) (s : State) : Nat := (addOff (s.me.word o.o1 0) o.imm).toNat
/-- The address of a store. -/
def at0 (o : Ops) (s : State) : Nat := (addOff (s.me.word o.o0 0) o.imm).toNat

/-- A load with the hint stream leaves no line; a load stands behind the store of another firing of its core; a walk of another quad
breaks a count; a page's local bit is noted. -/
theorem test_lines_and_counts : (
  ((st0.setMe { st0.me with l1 := [⟨1, 0, false, 5⟩, ⟨1, 128, false, 5⟩] }).fillL1 { acc (.load (.s 1) .n64 false) 8 with stream := true }
    false).me.l1.map (·.va) == [128] &&
  (let x := { acc (.store 8 0) 8 with fire := ⟨1, .normal, 9⟩ }
   let s := st0.setMe { st0.me with l1 := [⟨1, 0, false, 5⟩] }
   let a := { acc (.load (.s 1) .n64 false) 8 with id := 8 }
   ({ s with flight := [x, a] } : State).l1Hit a == none && (({ s with flight := [a] } : State).l1Hit a).isSome) &&
  (let s : State := { st0 with ptroot := 0x100000, movCount := [(0x800, 5, 2), (0x801, 5, 2)] }
   (s.walkedBy 0 1 0x200008).movCount.map (·.1) == [0x801]) &&
  (st0.countAccess 0 (.phys 0x40 { probePage with near := true })).near == [0] &&
  st0.placeOpen (.phys (2 ^ 40) probePage) &&
  !({ st0 with buckets := [⟨railPort 0, 0x100010001, 255⟩] } : State).placeOpen (.phys (2 ^ 40) probePage)) = true := by decide

theorem test_global_issue : (
  nextIs (exec (.st h0 (sto 8 0xE0)) (regs 0x40 0x55)) (fun t => t.flight.map (·.phase) == [.sent (.phys 0x48 probePage)] &&
    t.flight.map (·.req) == [.store 8 0x55] && t.gangs.map (·.census) == [1] && t.me.pc == 16) &&
  nextIs (exec (.ld h0 (ldo 0 0xA0)) (regs 0x44 0)) (fun t => t.flight.map (·.phase) == [.sent (.phys 0x44 probePage)] &&
    t.flight.map (·.req) == [.load (.s 1) .n32 false] && t.gangs.map (·.census) == [0]) &&
  nextIs (exec (.ldro h0 (ldo 0 0xA0)) (regs 0x2000 0)) (fun t => t.flight.map (·.phase) == [.bad ⟨cXLATE, none⟩]) &&
  trapIs (exec (.st h0 (sto 4 0xE0)) (regs 0x40 0)) cALIGN 0x44 &&
  nextIs (exec (.red h0 (sto 0 0x20A0)) (regs 0x40 0)) (fun t => t.me.trapcause == 4) &&
  nextIs (exec (.pref h0 ⟨.s 2, .none, .none, .none, .none, 0, 0⟩) (regs 0x00FFFF8000000000 0)) (fun t => t.flight.isEmpty) &&
  nextIs (exec (.atom h0 ⟨.s 1, .s 2, .s 3, .none, .none, 0, 0xE0⟩) (regs 0x40 1)) (fun t =>
    t.flight.map (·.req) == [.atom 0 .n64 1 0 (.s 1)]) &&
  nextIs (exec (.cflush h0 ⟨.s 2, .s 3, .none, .none, .none, 0, 0⟩) (regs 0x40 8)) (fun t =>
    t.flight.map (·.req) == [.flush 8 false] && t.gangs.map (·.census) == [1])) = true := by decide

/-- A plane of two FP32 elements for REDV, with its base in s2 and its stride in s3. -/
def redvState : State :=
  let s := planes 0x809 0x40000000_3F800000 0 3
  s.setMe ((s.me.setS 2 0x40).setS 3 8)

theorem test_redv : nextIs (exec (.redv h0 ⟨.s 2, .v 1, .s 3, .m 1, .none, 0, 0x2120⟩) redvState) (fun t =>
    t.flight.map (·.req) == [.red 8 .f32 0x3F800000, .red 8 .f32 0x40000000] && t.gangs.map (·.census) == [1] &&
    (t.flight.map (·.grp)).eraseDups.length == 1) = true := by decide

theorem test_access_steps : (
  nextIs (exec (.sliceAccess 7) (flying (acc (.store 8 0x1155) 8))) (fun t => memRead t.mem 0x40 == 0x55 &&
    memRead t.mem 0x41 == 0x11 && t.flight.map (·.phase) == [.done 0 0]) &&
  nextIs (exec (.sliceAccess 7) { flying (acc (.load (.s 1) .s8 false) 1) with mem := [(0x40, 0x80)] })
    (fun t => t.flight.map (·.phase) == [.done 0xFFFFFFFFFFFFFF80 0]) &&
  nextIs (exec (.sliceAccess 7) { flying (acc (.atom 7 .n64 9 5 (.s 1)) 8) with mem := [(0x40, 5)] })
    (fun t => memRead t.mem 0x40 == 9 && t.flight.map (·.phase) == [.done 5 0]) &&
  nextIs (exec (.sliceAccess 7) { flying (acc (.red 0 .n32 0xFFFFFFFF) 4) with mem := [(0x40, 1)] })
    (fun t => t.mem.isEmpty && t.flight.map (·.phase) == [.done 0 0]) &&
  nextIs (exec (.loadReturn 7) (flying { acc (.load (.s 1) .n64 false) 8 with phase := .done 6 0 }))
    (fun t => t.me.getS 1 == 6 && t.flight.isEmpty) &&
  nextIs (exec (.writeAck 7) { flying { acc (.store 8 0) 8 with phase := .done 0 0 } with
    gangs := st0.gangs.map fun g => { g with census := 2 } }) (fun t => t.gangs.map (·.census) == [1] && t.flight.isEmpty) &&
  nextIs (exec (.pageWalk 7) (flying { acc (.store 8 0) 8 with phase := .bad ⟨cXLATE, none⟩, va := 0x5000, page := none }))
    (fun t => t.flight.isEmpty && t.gangs.any fun g => g.doom.any fun d => d.cause == 0x20 && d.faddr == 0x5000) &&
  nextIs (exec (.superblockMigration 3 1) { st0 with movCount := [(3, 1, 4)] }) (fun t => t.moved.map (fun x => (x.1, x.2.1)) == [(3, 1)] &&
    t.movCount.isEmpty))
  = true := by decide

/-- `st0` behind an acquire that has not returned. -/
def acquiring : State := { st0 with flight := [{ acc (.load (.s 9) .n64 false) 8 with acq := some 3 }] }
/-- `st0` with no credit at the port of its core. -/
def shut : State := { st0 with buckets := [⟨corePort 0, 0x100010001, 255⟩] }

/-- The target of a page walk is a place with its page. -/
def targetOkay (x : Except WalkErr (Place × Option Page)) : Bool := match x with
  | .ok (_, some _) => true
  | _ => false
/-- The target of a page walk is a fault without an address. -/
def targetBadly (x : Except WalkErr (Place × Option Page)) : Bool := match x with
  | .error ⟨_, none⟩ => true
  | _ => false

/-- GlobalIssue: aligned, held behind an acquire or for its port, misaligned, a refused type, each update, REDV, the window; a
translation that the core's TLB holds, sound and not, one that its second TLB or its quad's holds, and none. -/
theorem witness_GlobalIssue : (
    ok (fun o s => (Ops.memTy o).isScalar && at1 o s % 8 == 0 && !s.globalHeld) (ldo 0 0xE0) (regs 0x40 0) &&
    ok (fun o s => (Ops.memTy o).isScalar && at1 o s % 8 == 0 && s.globalHeld) (ldo 0 0xE0) acquiring &&
    ok (fun o s => (Ops.memTy o).isScalar && at1 o s % 8 == 0 && s.globalHeld) (ldo 0 0xE0) shut &&
    ok (fun o s => (Ops.memTy o).isScalar && at1 o s % 8 != 0) (ldo 7 0xE0) (regs 0x40 0) &&
    ok (fun o _ => !(Ops.memTy o).isScalar) (ldo 0 0x1E0) st0 &&
    ok (fun o s => o.mod 10 4 == 0 && Ops.memTy o == .n64 && at1 o s % 8 == 0 && !s.globalHeld)
      ⟨.s 1, .s 2, .s 3, .none, .none, 0, 0xE0⟩ (regs 0x40 0) &&
    ok (fun o s => o.mod 10 4 == 8 && Ops.memTy o == .f32 && at0 o s % 4 == 0 && !s.globalHeld) (sto 0 0x2120) (regs 0x40 0) &&
    ok (fun o _ => o.mod 10 4 == 8 && Ops.memTy o != .f32) (sto 0 0x20A0) st0 &&
    ok (fun o s => o.mod 10 4 == 8 && plain o.o1 .f32 s && !o.bit 14 && at0 o s % 4 == 0 && (s.me.word o.o2 0).toNat % 4 == 0 &&
      !s.globalHeld) ⟨.s 2, .v 1, .s 3, .m 1, .none, 0, 0x2120⟩ redvState &&
    ok (fun o s => inWindow (at0 o s) || !s.globalHeld) (sto 0 0) (regs 0x00FFFF8000000000 0) &&
    !st0.tlbHit { acc (.store 8 0) 8 with va := 0x5000 } && st0.tlbHit (acc (.store 8 0) 8) &&
    targetBadly (st0.target { acc (.store 8 0) 8 with va := 0x5000 }) && targetOkay (st0.target (acc (.store 8 0) 8)) &&
    targetBadly ((on fun k => { k with tlb := [{ probePage with key := 5 }] }).target (acc (.store 8 0) 8)) &&
    (on fun k => { k with tlb := [{ probePage with key := 5 }] }).tlbHit (acc (.store 8 0) 8) &&
    (let s := on fun k => { k with tlb := [], tlb2 := [probePage] }
     targetOkay (s.target (acc (.store 8 0) 8)) && (acc (.store 8 0) 8).req.use != .cloche) &&
    (let s := st0.setMe { st0.me with tlb := [], tlb2 := [] }
     let s := s.setSlice 0 { s.slice 0 with tlb := [probePage] }
     targetOkay (s.target (acc (.store 8 0) 8)) && s.tlbHit (acc (.store 8 0) 8))) = true := by decide

/-- GlobalIssue, REDV: an index plane, and each check in its order. -/
theorem witness_Redv : (
    (let s := redvState.setMe { redvState.me with shp := redvState.me.shp.set 2 4 }
     ok (fun o s => plain o.o1 .f32 s && o.bit 14 && (s.me.shapeO o.o4).ty == .s32 && (s.me.shapeO o.o4).cols == 1 &&
       (s.me.shapeO o.o4).rows == (s.me.shapeO o.o1).rows) ⟨.s 2, .v 1, .s 3, .m 1, .v 2, 0, 0x6120⟩ s) &&
    ok (fun o _ => o.mod 10 4 == 8 && Ops.memTy o != .f32) ⟨.s 2, .v 1, .s 3, .m 1, .none, 0, 0x20A0⟩ redvState &&
    ok (fun o s => Ops.memTy o == .n32 && !plain o.o1 .n32 s) ⟨.s 2, .v 1, .s 3, .m 1, .none, 0, 0xA0⟩ redvState &&
    ok (fun o s => plain o.o1 .f32 s && o.bit 14 && (s.me.shapeO o.o4).ty == .f32) ⟨.s 2, .v 1, .s 3, .m 1, .v 2, 0, 0x6120⟩ redvState &&
    ok (fun o s => plain o.o1 .f32 s && at0 o s % 4 != 0) ⟨.s 2, .v 1, .s 3, .m 1, .none, 1, 0x2120⟩ redvState) = true := by decide

/-- A core with an ordinary line and one that LDRO filled, held by a FENCE. -/
def lined : State :=
  let s := on fun k => { k with l1 := [⟨1, 0, false, 0⟩, ⟨1, 128, true, 0⟩] }
  s.setMe { s.me with hold := some (.fence true true 3 []), heldFlags := 16 }

theorem test_fences : (
  meIs (exec (.fence h0 (o0 .none 0 0x0B)) st0) (fun k => k.hold == some (.fence true false 3 []) && k.pc == 16) &&
  meIs (exec (.afence h0 (o0 .none 0 0)) st0) (fun k => k.hold == some (.fence true true 3 [])) &&
  meIs (exec (.fenceComplete 0) lined) (fun k => k.hold == none && k.fpflags == 16 && k.l1.map (·.va) == [128]) &&
  meIs (exec (.cinv h0 (o0 .none 0 0x800)) lined)
    (fun k => k.l1.map (·.va) == [0]) &&
  trapIs (exec (.tlbi h0 ⟨.s 2, .s 3, .s 2, .none, .none, 0, 0⟩) st0) cPRIV 0x380 &&
  meIs (exec (.tlbi h0 ⟨.s 2, .s 3, .s 2, .none, .none, 0, 0x08⟩) (stSys.setMe (stSys.me.setS 2 1)))
    (fun k => k.tlb.isEmpty && k.hold == some (.tlbi [])) &&
  meIs (exec (.tlbiAck 0) (on fun k => { k with hold := some (.tlbi []) })) (fun k => k.hold == none) &&
  meIs (exec (.dscinv h0 (sto 0 0)) (regs 0x40 64)) (fun k => k.hold == some .dscinv) &&
  meIs (exec (.dscinvAck 0) (on fun k => { k with hold := some .dscinv })) (fun k => k.hold == none) &&
  nextIs (exec (.waysWrite 0) (on fun k => { k with hold := some (.ways 5) })) (fun t => t.me.hold == none &&
    t.gangs.map (·.ways) == [5]) &&
  nextIs (exec (.wcfgWrite 0) (on fun k => { k with hold := some (.wcfg 2 0xFFFFFFFFFFFFFFFF) })) (fun t => t.me.hold == none &&
    t.wins[2].cfg == 0xFFFFFFFF0FFF0007)) = true := by decide

/-- MaintenanceAndFences: the three forms of CINV, and each hold. -/
theorem witness_MaintenanceAndFences : ([0, 1, 2].all (fun n => ok (fun o _ => o.mod 10 2 == n)
      (sto 0 (BitVec.ofNat 24 (n * 1024))) st0) && !st0.right (·.sys) && stSys.right (·.sys) && stSys.ready h0 (r3 8) &&
    (on fun k => { k with hold := some .dscinv }).me.hold == some .dscinv &&
    (on fun k => { k with hold := some (.tlbi [7]) }).me.hold == some (.tlbi [7]) &&
    (on fun k => { k with hold := some (.fence true true 3 []) }).me.hold == some (.fence true true 3 []) &&
    (let s := on fun k => { k with hold := some (.ways 5) }
     (s.gangAt s.me).any (fun g => g.active && !s.mittenRuns g s.me.fid) && !s.windowOpen 0) &&
    (on fun k => { k with hold := some (.wcfg 3 0) }).me.hold == some (.wcfg 3 0) && (3 : Fin 5) != 4 &&
    { lined with flight := [acc (.store 8 0) 8] }.flight.all (fun a => a.fire.fid == lined.me.fid && a.req.drains && !lined.merges a) &&
    lined.flight.isEmpty && ((on id).gangOf 1).any (fun g => g.slices.contains 0)) = true := by decide

/-- AccessSteps: a walk that ends well and one that does not, an access at its place, a return, a move. -/
theorem witness_AccessSteps : (
    targetOkay (st0.target { acc (.store 8 0) 8 with page := none }) && targetBadly (st0.target { acc (.store 8 0) 8 with va := 0x5000 }) &&
    (acc (.store 8 0) 8).va.toNat < 0x00FFFF8000000000 && st0.upsets.isEmpty && inWindow 0x00FFFF8000000000 && (st0.gangOf 1).isSome &&
    (let x := acc (.store 8 0) 8
     let y := { x with id := 8, grp := 8 }
     x.grp != y.grp && x.core == y.core && x.meets y && !x.performed && !y.un && x.fire.fid == y.fire.fid && x.req.ordered &&
       ({ x with page := some { probePage with kind := 0 } } : Access).so && x.req.drains &&
       ({ y with rel := some 4 } : Access).release == some 4 && ({ y with rel := some 3 } : Access).release == some 3 &&
       !(flying x).merges x && !(flying x).mayPerform { y with fire := { y.fire with fid := 0 } } && (flying x).mayPerform x &&
       (flying x).placeOpen (.phys 0x40 probePage) &&
       !({ flying x with buckets := [⟨(flying x).homePort 0 ((flying x).home false 0x40) 0x40, 0x100010001, 255⟩] } : State).placeOpen
         (.phys 0x40 probePage)) &&
    probePage.cache && paPkg 0x40 == st0.pkg.toNat && (st0.waysIn 1 0) != [] &&
    (acc (.store 8 0) 8).req.isData && (acc (.store 8 0) 8).window.isNone && (acc (.store 8 0) 8).rel.isNone &&
    (flying (acc (.store 8 0) 8)).upsets.isEmpty &&
    (List.range 8).all (fun i => (flying (acc (.store 8 0) 8)).lineKey ((0x40 + i) / 128) == probePage.key) &&
    (flying (acc (.red 0 .n32 1) 4)).windowFor (acc (.red 0 .n32 1) 4) (.phys 0x40 probePage) == none &&
    (acc (.load (.s 1) .n64 false) 8).acq.isNone && !(acc (.load (.s 1) .n64 false) 8).so && !st0.asleep 1 && !st0.gone 1 &&
    (acc (.load (.s 1) .n64 false) 8).req.returns && !(acc (.store 8 0) 8).req.returns) = true := by decide

/-! ### Class 0xC -/

/-- The descriptor of a FIFO region of capacity 1 whose one home is slice 0, at scope .gang. -/
def dsc : BitVec 512 := BitVec.ofNat 512 (0xC10C + 2 * 2 ^ 19 + 2 ^ 32 + 2 ^ 128)
/-- A Cloche request on its way to its home. -/
def ask (q : CReq) : Access := { acc (.cloche (.p 1) q dsc) 64 with phase := .sent (.phys 0x40 probePage) }
/-- `flying` with slice 0 changed, and a census of 1. -/
def homed (q : CReq) (f : Slice → Slice) : State :=
  let s := flying (ask q)
  { s.setSlice 0 (f (s.slice 0)) with gangs := s.gangs.map fun g => { g with census := 1 } }
/-- A parked take of a core with a port. -/
def parkedTake (g : Option (BitVec 512)) (a : Asker) : Park := ⟨9, 0x40, .take, 5, 0x100, dsc, a, g, false⟩
/-- Operands of a Cloche instruction. -/
def cl : Ops := ⟨.p 1, .s 2, .s 3, .s 3, .c 0, 0, 0⟩
/-- `net` with s2 and s3 set. -/
def netAt (a b : Word) : State := let s := net 0 []; s.setMe ((s.me.setS 2 a).setS 3 b)

theorem test_cloche : (
  nextIs (exec (.dep h0 cl) (netAt 0x1040 0x40)) (fun t => t.flight.map (·.phase) == [.bad ⟨cXLATE, none⟩] && t.gangs.map (·.census) == [3]) &&
  nextIs (exec (.takep h0 cl) (netAt 0x1040 0x40)) (fun t => t.gangs.map (·.census) == [4]) &&
  trapIs (exec (.clcount h0 cl) (netAt 0x1048 0x40)) cALIGN 0x1048 && trapIs (exec (.take h0 cl) (netAt 0x1040 0x44)) cALIGN 0x44 &&
  nextIs (exec (.clocheDepositArrival 7) (homed (.dep 5) id)) (fun t => (t.slice 0).tuples.map (·.tuple) == [5] &&
    t.flight.map (·.phase) == [.done 1 0]) &&
  nextIs (exec (.clocheDepositArrival 7) (homed (.dep 5) fun z => { z with tuples := [⟨0x40, 6, 0, 0, none, 0⟩] }))
    (fun t => t.flight.map (·.phase) == [.done 0 0]) &&
  nextIs (exec (.clocheDepositArrival 7) (homed (.depw 5 0) fun z => { z with tuples := [⟨0x40, 6, 0, 0, none, 0⟩] }))
    (fun t => (t.slice 0).parked.map (·.kind) == [.dep] && t.gangs.map (·.census) == [1]) &&
  nextIs (exec (.clocheMatchArrival 7) (homed (.take 5 0x80) fun z => { z with tuples := [⟨0x40, 5, 0, 0, none, 0⟩] }))
    (fun t => (t.slice 0).tuples.isEmpty && t.flight.map (·.phase) == [.found 5]) &&
  nextIs (exec (.clocheMatchArrival 7) (homed (.takep 5 0x80 ⟨0, 0, 0⟩) id)) (fun t => (t.slice 0).parked.map (·.kind) == [.take]) &&
  nextIs (exec (.clocheCancelArrival 7) (homed (.cancel 0x100 5) fun z => { z with parked := [parkedTake none (.core 1 0 0 none 0)] }))
    (fun t => (t.slice 0).parked.isEmpty && t.gangs.map (·.census) == [0] && t.flight.map (·.phase) == [.done 1 0]) &&
  nextIs (exec (.clocheCountArrival 7) (homed (.count 5) fun z => { z with tuples := [⟨0x40, 5, 0, 0, none, 0⟩, ⟨0x40, 6, 1, 0, none, 0⟩] }))
    (fun t => t.flight.map (·.phase) == [.done 1 0])) = true := by decide

/-- The requests that one deposit satisfies stand behind the others, oldest first; the younger of two for one port waits for the
older one (R281). -/
theorem test_cloche_order : (
  (let park := fun (i : Nat) (k : PKind) => { parkedTake none (.core 1 0 0 (some ⟨0, 0, 0⟩) 0) with id := i, kind := k }
   (({ Slice.reset with parked := [park 1 .copy, park 2 .take, park 3 .copy, park 4 .take] } : Slice).deposit 0x40 4 5 0 0).any fun z =>
     z.parked.map (·.id) == [4, 1, 3, 2] && z.tuples.isEmpty) &&
  (let p := parkedTake (some 0x77) (.core 1 0 0 (some ⟨0, 0, 0⟩) 0)
   let s := (net 0 []).setSlice 0 { (net 0 []).slice 0 with parked := [{ p with id := 8 }, p] }
   nextIs (exec (.clocheDelivery 9) s) (fun t => (t.slice 0).parked.map (·.id) == [8, 9]) &&
   nextIs (exec (.clocheDelivery 8) s) (fun t => (t.slice 0).parked.map (·.id) == [9]))) = true := by decide

theorem test_cloche_delivery : (
  nextIs (exec (.clocheDelivery 9) (let s := net 0 []; s.setSlice 0 { s.slice 0 with
    parked := [parkedTake (some 0x77) (.core 1 0 0 (some ⟨0, 0, 0⟩) 0)] })) (fun t => memRead t.me.ls 0x100 == 0x77 &&
      t.gangs.map (fun g => (g.toks ⟨0, 0, 0⟩).map (·.val)) == [[0x100]] && (t.slice 0).parked.isEmpty)) = true := by decide

/-- ClocheSteps: each outcome at issue, each request at its home, a delivery to the host and to a core. -/
theorem witness_ClocheSteps : (
    ok (fun o s => (s.outPort o.o4.portNo.val).isSome && at1 o s % 64 == 0 && blockOk (s.me.word o.o2 0) && blockOk (s.me.word o.o3 0) &&
      !(s.lsBusy (s.me.word o.o2 0).toNat 64 || s.globalHeld || s.lsPending (s.me.word o.o3 0).toNat 64) &&
      (s.lsHard s.cur (s.me.word o.o2 0).toNat 64).isNone) cl (netAt 0x1040 0x7FFC0) &&
    ok (fun o s => at1 o s % 64 == 0 && blockOk (s.me.word o.o3 0) && s.lsPending (s.me.word o.o3 0).toNat 64) cl
      { netAt 0x1040 0x7FFC0 with flight := [{ ask (.take 5 0x7FFC0) with req := .cloche (.p 2) (.take 5 0x7FFC0) dsc }] } &&
    ok (fun o s => at1 o s % 64 == 0 && blockOk (s.me.word o.o2 0) && !(s.lsBusy (s.me.word o.o2 0).toNat 64) &&
      (s.lsHard s.cur (s.me.word o.o2 0).toNat 64).isSome) ⟨.p 1, .s 2, .s 3, .none, .none, 0, 0⟩
      { netAt 0x1040 0x7FFC0 with upsets := [⟨.ls 0 0xFFF8, true⟩] } &&
    (let a := { ask (.take 5 0x80) with phase := .found 7 }
     a.req.lsDest == some 0x80 && !(flying a).me.owned 0x80 64 && !(flying a).asleep 1 && !(flying a).gone 1 && !a.pre &&
       (flying a |>.setMe (tiled 0 0).me).me.owned 0x7F000 64) &&
    (Slice.deposit { Slice.reset with tuples := [⟨0x40, 5, 0, 0, none, 0⟩] } 0x40 1 7 0 0).isNone &&
    (Slice.deposit { Slice.reset with parked := [parkedTake none (.host 3 4)] } 0x40 1 5 0 0).any (fun z => z.tuples.isEmpty &&
      z.parked.all fun p => p.got == some 5) &&
    ok (fun o s => at1 o s % 64 == 0 && blockOk (s.me.word o.o2 0) && s.lsBusy (s.me.word o.o2 0).toNat 64)
      ⟨.p 1, .s 2, .s 3, .none, .none, 0, 0⟩ (tiled 0x1040 0x7FFC0) &&
    ok (fun o s => at1 o s % 64 != 0) cl (netAt 0x1041 0x40) &&
    ok (fun o s => at1 o s % 64 == 0 && !blockOk (s.me.word o.o2 0)) cl (netAt 0x1040 0x7FFC8) &&
    [CReq.dep 5, .depw 5 0, .take 5 0, .takep 5 0 ⟨0, 0, 0⟩, .cpy 5 0, .cpyp 5 0 ⟨0, 0, 0⟩, .cancel 0 5, .count 5].all
      (fun q => (ask q).homeReq.isSome && !(homed q id).gone 1) &&
    (((net 0 []).setSlice 0 { (net 0 []).slice 0 with parked := [parkedTake (some 0x77) (.host 3 4)] }).parkOf 9).any
      (fun x => x.2.2.got.isSome) &&
    (let s := (net 0 []).setSlice 0 { (net 0 []).slice 0 with parked := [parkedTake (some 0x77) (.core 1 0 0 (some ⟨0, 0, 0⟩) 0)] }
     (s.parkOf 9).isSome && (s.gangOf 1).any (fun g => g.active && (g.img.chans[0]?).isSome &&
       !(s.core (g.coreAt 0 0)).owned 0x100 64 && (g.img.chans[0]?).any fun ch => g.free ⟨0, 0, 0⟩ ch != 0)) &&
    (Slice.select { Slice.reset with tuples := [⟨0x40, 5, 0, 0, none, 0⟩] } 0x40 0 255 5).isSome) = true := by decide

/-- A gang whose way 0 is a Mitten way, with commands in slice 0. -/
def mit (l : List MCmd) (up : List Upset) : State :=
  let s := gangOn fun g => { g with ways := 2, census := 1 }
  { s.setSlice 0 { s.slice 0 with mcmds := l } with upsets := up }
/-- A Mitten command of the running firing on no elements. -/
def mcmd (op : MOp) (ended : Bool) (p : Option ChanRef) : MCmd :=
  ⟨9, op, 0, ⟨0, .normal, 0⟩, 1, 0, 0, 0x40, 0, 7, p, 0, [], none, 0, ended, []⟩
/-- The run of a Mitten command succeeds. -/
def ran (x : AgentR (State × MCmd)) : Bool := match x with
  | .ok _ => true
  | .error _ => false

theorem test_mitten : (
  nextIs (exec (.mxpose h0 ⟨.s 31, .s 2, .s 3, .none, .none, 0, 7⟩) ((mit [] []).setMe ((mit [] []).me.setS 2 0x40)))
    (fun t => ((t.slice 0).mcmds.map fun c => (c.op, c.va)) == [(.mxpose, 0x40)] && t.gangs.map (·.census) == [2]) &&
  nextIs (exec (.mseq h0 ⟨.s 2, .s 3, .none, .none, .none, 0, 0⟩) (regs 0x40 1)) (fun t =>
    t.gangs.any fun g => g.doom.any fun d => d.cause == 0x22 && d.faddr == 0x40) &&
  trapIs (exec (.mxout h0 ⟨.s 2, .s 3, .s 3, .none, .none, 0, 15⟩) (regs 0x41 0)) cALIGN 0x41 &&
  nextIs (exec (.mittenCommandStart 0) (mit [{ mcmd .mxpose false none with cnt := 1, va := 0 }] [])) (fun t =>
    (t.slice 0).mcmds.map (fun c => (c.ended, c.cursor)) == [(true, 1)]) &&
  nextIs (exec (.mittenCommandStart 0) (mit [{ mcmd .mxpose false none with cnt := 2, va := 0x1FF }] [])) (fun t =>
    (t.slice 0).mcmds.map (fun c => (c.ended, c.cursor)) == [(false, 1)]) &&
  nextIs (exec (.mittenCommandComplete 0) (mit [mcmd .mxpose true none] [])) (fun t => (t.slice 0).mcmds.isEmpty &&
    t.gangs.map (·.census) == [0]) &&
  nextIs (exec (.mittenScrub 0) (mit [] [⟨.way 0 256, false⟩])) (fun t => t.gangs.any fun g => g.doom.any fun d =>
    d.cause == 0x23 && d.faddr == 0x20000) &&
  nextIs (exec (.sliceScrub 0) { st0 with upsets := [⟨.mem 8, false⟩] }) (fun t => t.upsets.isEmpty)) = true := by decide

/-- MittenAndScrub: a free list and a full one, a quad inside and outside, a start and an end, the last rows of a lane. -/
theorem witness_MittenAndScrub : (
    ok (fun o s => (addOff (s.me.word o.o1 0) o.imm).toNat % 1 == 0 && (s.gangAt s.me).any (fun g =>
      decide (maQuad (s.me.word o.o0 0) < g.launch.w * g.launch.h)) && decide (s.mittenOf s.cur < 4))
      ⟨.s 31, .s 2, .s 3, .none, .none, 0, 7⟩ (mit [] []) &&
    decide (4 ≤ (mit (List.replicate 4 (mcmd .mxpose false none)) []).mittenOf 0) &&
    ok (fun o s => (addOff (s.me.word o.o1 0) o.imm).toNat % 1 == 0 && s.portShut) ⟨.s 31, .s 2, .s 3, .none, .none, 0, 7⟩ shut &&
    ok (fun o s => (s.gangAt s.me).any fun g => decide (g.launch.w * g.launch.h ≤ maQuad (s.me.word o.o1 0)))
      ⟨.s 2, .s 3, .none, .none, .none, 0, 0⟩ (regs 0x40 1) &&
    ok (fun o s => (addOff (s.me.word o.o0 0) o.imm).toNat % 64 != 0) ⟨.s 2, .s 3, .none, .none, .none, 0, 0⟩ (regs 0x60 1) &&
    (let s := mit [mcmd .mxpose false none] []
     (s.gangOf 1).any fun g => g.active && ran (s.mittenRun g (mcmd .mxpose false none) 0) && s.portOpen (slicePort 0)) &&
    (let s := mit [{ mcmd .mxout false none with began := some 0, cnt := 1, ways := [0] }] [⟨.way 0 0, false⟩]
     (s.gangOf 1).any fun g => (s.badRow 0 [0] 0 8).isSome && g.mitten (s.resvAt 0) == [0]) &&
    decide (1024 < 1017 + 8) && (mit [] []).gangs.any (fun g => g.mitten ((mit [] []).resvAt 0) == [0]) && [0].Nodup && (seqDesc 0).wacc ≤ 1024 &&
    (let c := { mcmd .mxout false none with cnt := 1 }
     let s := mit [c] []
     (s.gangOf 1).any fun g => ran (s.mittenRun g c 0) && g.mitten (s.resvAt 0) != []) &&
    (let s := mit [{ mcmd .mseq false none with began := some 0, ways := [0] }] []
     (s.gangOf 1).any fun g => g.active && ((seqDesc 0).bad s 0 [0] 0).isNone) &&
    (mcmd .mxpose true (some ⟨0, 0, 0⟩)).ended && !(mit [] []).gone 1 && Memory.wf Slice.reset.way && decide (1023 + 1 ≤ 1024) &&
    decide (8191 < 8192 * [0].length) && (mit [] [⟨.way 0 256, false⟩]).upsets.all (fun u => !u.hard) &&
    (State.reset.holder 0).isNone && (let s := mit [] [⟨.way 0 256, false⟩]
      (s.holder 0).any fun g => (s.badRow 0 (g.mitten (s.resvAt 0)) 0 1024).isSome)) = true := by decide

theorem test_mitten_lane : (Slice.laneVal (Slice.setLane Slice.reset [0] 1022 8191 2 2) [0] 1022 8191 2 == 2 &&
    Slice.laneVal (Slice.setLane Slice.reset [0] 5 3 0x15 5) [0] 5 3 5 == 0x15) = true := by decide

/-! ### Class 0xD -/

/-- A command of slot 0 of the running firing, with its descriptor at 0x40, issued while tile 0 was pending. -/
def cmd (op : EngOp) (a1 a2 : Word) (d : BitVec 512) : Cmd :=
  ⟨op, ⟨0, .normal, 3⟩, 1, 0, 0x40, a1, a2, 0, 0, none, some 1, [], 0, d, 0, 0, [], none, [], [], []⟩
/-- Slot 0 with a command. -/
def held (st : SlotState) (pending own : BitVec 128) (c : Cmd) : EngSlot := ⟨st, 1, pending, own, 0, some c, none, false⟩
/-- `net` with a slot 0, and a descriptor in memory at 0x40. -/
def engined (e : EngSlot) (d : BitVec 512) : State :=
  let s := net 0 []
  { s.setMe { s.me with eng := s.me.eng.set 0 e } with mem := memWriteN [] 0x40 d.toNat 64 }
/-- Slot 0 of the core after a step. -/
def slotIs (x : Out) (f : EngSlot → Bool) : Bool := meIs x fun k => f k.eng[0]
/-- The command of slot 0 after a step. -/
def cmdIs (x : Out) (f : Cmd → Bool) : Bool := slotIs x fun e => e.cmd.any f
/-- A COPY of one run of 64 bytes in a direction. -/
def copyDesc (dir : Nat) : BitVec 512 := BitVec.ofNat 512 (1 + dir * 2 ^ 8 + 63 * 2 ^ 16)
/-- A GATHER of rows of 4 bytes with 4-byte indices and a pitch of 4. -/
def gatherDesc : BitVec 512 := BitVec.ofNat 512 (2 + 3 * 2 ^ 16 + 4 * 2 ^ 64 + 4 * 2 ^ 128)
/-- A single-layer target of one pixel at 0x80. -/
def targetDesc : BitVec 512 := BitVec.ofNat 512 (0x20 + 0x80 * 2 ^ 64)
/-- A march of step 1 with threshold 1 through one voxel. -/
def marchDesc : BitVec 512 := BitVec.ofNat 512 (0x40 + 0x3C00 * 2 ^ 304 + 0x3F800000 * 2 ^ 320)
/-- A running COPY. -/
def copying (dir : Nat) (a1 : Word) : State := engined (held .running 0 1 (cmd .copy a1 0 (copyDesc dir))) (copyDesc dir)
/-- A running GATHER of one row. -/
def gathering : State := engined (held .running 0 1 { cmd .gather 0x100 0x800 gatherDesc with a4 := 1 }) gatherDesc
/-- A running RCLEAR of one pixel. -/
def clearing : State := engined (held .running 0 0 (cmd .rclear 0 0x10001 targetDesc)) targetDesc
/-- A running RMARCH of one ray. -/
def marching : State := engined (held .running 0 1 (cmd .rmarch 0 1 marchDesc)) marchDesc
/-- Operands of a command: descriptor in s2, the others in s3, no port. -/
def eo (md : BitVec 24) : Ops := ⟨.s 2, .s 3, .s 3, .none, .s 3, 0, md⟩
/-- `cmd` with its work done and a token to send. -/
def doneCmd : Cmd := { cmd .copy 0 0 (copyDesc 0) with done := [0], port := some ⟨0, 0, 0⟩ }

theorem test_own : (
  slotIs (exec (.own h0 ⟨.s 2, .s 3, .none, .none, .none, 0, 0⟩) (regs 127 1)) (fun e => e.pending == 1 <<< 127) &&
  trapIs (exec (.own h0 ⟨.s 2, .s 3, .none, .none, .none, 0, 0⟩) (regs 127 2)) cALIGN 0x7F000 &&
  slotIs (exec (.own h0 ⟨.s 2, .s 3, .none, .none, .none, 0, 8⟩) (tiled 0 0)) (fun e => e.pending == 0) &&
  slotIs (exec (.own h0 ⟨.s 2, .s 3, .none, .none, .none, 0, 8⟩) (engined (held .issued 3 0 (cmd .copy 0 0 0)) 0))
    (fun e => e.pending == 1)) = true := by decide

theorem test_command_issue : (
  nextIs (exec (.copy h0 (eo 0)) (regs 0x40 8)) (fun t => t.me.eng[0].state == .issued && t.me.eng[0].kind == 1 &&
    t.gangs.map (·.census) == [1]) &&
  slotIs (exec (.gather h0 (eo 0)) (regs 0x40 8)) (fun e => e.kind == 2) &&
  slotIs (exec (.iwalk h0 (eo 0)) (regs 0x40 8)) (fun e => e.kind == 3) &&
  slotIs (exec (.rast h0 (eo 0)) (regs 0x40 8)) (fun e => e.kind == 0x10) &&
  slotIs (exec (.resolve h0 (eo 0)) (regs 0x40 8)) (fun e => e.kind == 0x11) &&
  slotIs (exec (.rclear h0 (eo 0)) (regs 0x40 8)) (fun e => e.kind == 0x13) &&
  trapIs (exec (.rmarch h0 (eo 0x210)) (regs 0x40 8)) cPAYLD 33 &&
  trapIs (exec (.copy h0 (eo 0)) (regs 0x48 8)) cALIGN 0x48) = true := by decide

theorem test_engine_steps : (
  slotIs (exec (.commandAccept 0 0) (engined (held .issued 3 0 (cmd .copy 0 0 0)) (copyDesc 0)))
    (fun e => e.state == .running && e.held == 1 && e.pending == 2) &&
  slotIs (exec (.commandAccept 0 0) (engined (held .issued 0 0 (cmd .copy 0 0 0)) (copyDesc 0)))
    (fun e => e.state == .halted && e.fault == some (cCOPYF, 0)) &&
  meIs (exec (.engineBurst 0 0 0) (copying 0 0x40)) (fun k => memRead k.ls 2 == 63 && k.eng[0].cmd.any (·.done == [0])) &&
  cmdIs (exec (.engineBurst 0 0 0) gathering) (fun c => c.opened.map (fun u => (u.num, u.i)) == [(0, 0)] && c.unit == 1) &&
  nextIs (exec (.commandComplete 0 0) (engined (held .running 0 1 doneCmd) (copyDesc 0)))
    (fun t => t.me.eng[0].state == .token && t.me.eng[0].held == 0 && t.me.eng[0].cursor == 64) &&
  nextIs (exec (.completionTokenSend 0 0) (engined (held .token 0 0 { doneCmd with toks := [(⟨0, 0, 0⟩, 9)] }) 0))
    (fun t => t.me.eng[0].state == .free && t.gangs.map (fun g => (g.toks ⟨0, 0, 0⟩).map (·.val)) == [[9]])) = true := by decide

/-- A triangle of depth 1 over the pixel of `targetDesc`. -/
def aTri : Nat := 0x3F800000 * 2 ^ 64 + 512 * 2 ^ 96 + 0x3F800000 * 2 ^ 160 + 512 * 2 ^ 224 + 0x3F800000 * 2 ^ 256
/-- A running RAST that has read the triangle, over an empty record of depth `z`. -/
def rasting (z : Nat) : State :=
  let s := engined (held .running 0 0 { cmd .rast 0 5 targetDesc with a4 := 1, bins := [⟨0, 0, some (BitVec.ofNat 384 aTri), 0⟩] }) targetDesc
  { s with mem := memWriteN s.mem 0x88 z 4 }
/-- A running RMARCH of one ray into a voxel of density 1, whose shader record at 0x100 names port 0. -/
def hitting : State :=
  let d : BitVec 512 := marchDesc ||| BitVec.ofNat 512 (2 ^ 32 + 0x100 * 2 ^ 64)
  let s := engined (held .running 0 1 (cmd .rmarch 0 1 d)) d
  { s with mem := memWriteN (memWriteN s.mem 0 0x3C00 2) 0x100 0x700000100 8 }

theorem test_render_work : (
  nextIs (exec (.binWork 0 0 0) (rasting 0x7F800000)) (fun t => memReadN t.mem 0x80 12 == 5 * 2 ^ 32 + 0x3F800000 * 2 ^ 64 &&
    t.me.eng[0].cmd.any fun c => c.bins.map (·.pix) == [1]) &&
  nextIs (exec (.binWork 0 0 0) (rasting 0x3F000000)) (fun t => memReadN t.mem 0x80 8 == 0) &&
  nextIs (exec (.rayMarch 0 0) hitting) (fun t => memRead t.me.ls 17 == 1 && memReadN t.me.ls 20 4 == 7 &&
    t.me.eng[0].cmd.any fun c => c.toks == [(⟨0, 0, 0⟩, 0)])) = true := by decide

theorem test_render_steps : (
  nextIs (exec (.renderSlotAccept 0 0) (engined (held .issued 0 0 (cmd .rclear 0 0x10001 0)) targetDesc))
    (fun t => t.me.eng[0].state == .running && t.rslots[0] == 1) &&
  nextIs (exec (.binWork 0 0 0) clearing) (fun t => memReadN t.mem 0x80 12 == 0x7F800000FFFFFFFFFFFFFFFF) &&
  nextIs (exec (.rayMarch 0 0) marching) (fun t => t.me.eng[0].cursor == 1 && memRead t.me.ls 18 == 1 &&
    memReadN t.me.ls 24 4 == 0xFFFFFFFF) &&
  nextIs (exec (.engineFaultDelivery 0 0) (engined { held .halted 0 0 doneCmd with fault := some (cCOPYF, 5) } 0))
    (fun t => t.me.trapcause == (cCOPYF.zeroExtend 64 ||| 0x800) && t.me.trapval == 5 && t.me.inTrap)) = true := by decide

/-- The work of a bin is done. -/
def binDone (w : BinWork) : Bool := match w with
  | .ok _ none => true
  | _ => false
/-- The work of a bin goes on. -/
def binGoes (w : BinWork) : Bool := match w with
  | .ok _ (some _) => true
  | _ => false
/-- A ray meets a voxel that is dense enough. -/
def rayHits (r : Ray) : Bool := match r with
  | .at_ _ _ _ _ => true
  | _ => false
/-- A ray's cast ends. -/
def castEnds (w : Cast) : Bool := match w with
  | .ends _ _ _ => true
  | _ => false
/-- A running IWALK of one non-zero by coordinates, whose rows stand at 0x80 and columns at 0xC0. -/
def walking : State :=
  let d : BitVec 512 := BitVec.ofNat 512 (3 + 2 ^ 8 + 0x80 * 2 ^ 64 + 0xC0 * 2 ^ 128 + 0x100 * 2 ^ 384)
  engined (held .running 0 1 { cmd .iwalk 0 0 d with a4 := 1 }) d
/-- A ray misses. -/
def rayMisses (r : Ray) : Bool := match r with
  | .miss _ => true
  | _ => false
/-- A descriptor is read. -/
def isOk {α β : Type} (x : Except α β) : Bool := match x with
  | .ok _ => true
  | .error _ => false
/-- The first command of slot 0 with its gang. -/
def runs (s : State) (f : Gang → Cmd → Bool) : Bool := (s.runningCmd 0 0).any fun x => f x.1 x.2

/-- EngineCommands, OWN and issue: inside up to the last tile, busy and beyond; a free slot, a busy one, misaligned. -/
theorem witness_EngineIssue : (
    ok (fun o s => o.bit 3 && s.me.eng[slotOf o.md].state != .issued) (sto 0 8) st0 &&
    ok (fun o s => o.bit 3 && s.me.eng[slotOf o.md].state == .issued && (s.me.eng[slotOf o.md].cmd.bind (·.snap)) == some 1)
      (sto 0 8) (engined (held .issued 3 0 (cmd .copy 0 0 0)) 0) && ok (fun o s => !o.bit 3 && decide ((s.me.word o.o0 0).toNat +
      (s.me.word o.o1 o.zext).toNat ≤ 128) && !s.lsBusy (127 * 4096) 4096) (sto 0 0) (regs 127 1) &&
    ok (fun o s => !o.bit 3 && s.lsBusy (127 * 4096) 4096) (sto 0 0) (tiled 127 1) &&
    ok (fun o s => !o.bit 3 && decide (128 < (s.me.word o.o0 0).toNat + (s.me.word o.o1 o.zext).toNat)) (sto 0 0) (regs 127 2) &&
    ok (fun o s => (s.me.word o.o0 0).toNat % 64 == 0 && s.me.eng[slotOf o.md].state == .free) (eo 7) (regs 0x40 0) &&
    ok (fun o s => (s.me.word o.o0 0).toNat % 64 == 0 && s.me.eng[slotOf o.md].state != .free) (eo 0) (copying 0 0) &&
    ok (fun o s => (s.me.word o.o0 0).toNat % 64 != 0) (eo 0) (regs 0x41 0) &&
    ok (fun o _ => decide (o.mod 4 6 ≤ 32)) (eo 0x200) st0 && ok (fun o _ => decide (32 < o.mod 4 6)) (eo 0x210) st0) = true := by
  decide

/-- EngineCommands, acceptance: sound and unsound, a free render slot and none. -/
theorem witness_EngineAccept : (
    (let s := engined (held .issued 1 0 (cmd .copy 0 0 0)) (copyDesc 0)
     (s.issuedCmd 0 0).any fun x => x.2.op.isData && isOk (s.readDesc x.1 0 x.2.dva)) &&
    dataBad (cmd .copy 0 0 (copyDesc 0)) 1 == none && (dataBad (cmd .copy 0 0 (copyDesc 0)) 0).isSome &&
    (let s := engined (held .issued 0 0 (cmd .rclear 0 0x10001 0)) targetDesc
     ((s.issuedCmd 0 0).any fun x => !x.2.op.isData && !s.me.renderWaits x.2 && isOk (s.readRender x.1 0 x.2 0)) &&
     !s.me.eng[0].rslot && decide (s.rslots[coreDie 0] < 32) &&
     decide (32 ≤ ({ s with rslots := s.rslots.set 0 32 } : State).rslots[coreDie 0])) &&
    renderBad st0.me (cmd .rclear 0 0x10001 targetDesc) 0 0 == none &&
    (let s := engined (held .issued 1 0 (cmd .rmarch 0 1 marchDesc)) marchDesc
     let t : State := { s with flight := [{ away (.rst 4 0) 4 with pre := true, phase := .sent (.remote 0 8) }] }
     (s.issuedCmd 0 0).any (fun x => !s.rayWaits 0 0 x.2) && (t.issuedCmd 0 0).any (fun x => t.rayWaits 0 0 x.2))) = true := by decide

/-- EngineCommands, work: bursts in the three directions, a latch, a bin free and busy, a miss, completion, a token, an
engine fault with and without a trap actor. -/
theorem witness_EngineWork : (
    [0, 1, 2].all (fun d => runs (copying d 0x40) fun g x => !x.finished && copyDir x.desc == d && (x.bursts[0]?).any fun y =>
      !y.2.2.1 && (copying d 0x40).inOrder g 0 x ((copying d 0x40).soPiece g 0 x y.2.2.2) (underWay (x.bursts.take 0))) &&
    (copying 0 0x40).portOpen (enginePort 0) && (copying 0 0x40).upsets.isEmpty &&
    runs (copying 0 0x40) (fun g x => (x.bursts[0]?).any fun y => isOk ((copying 0 0x40).agentRead g 0 y.2.2.2.far y.2.2.2.len)) &&
    runs (copying 1 0x40) (fun g x => (x.bursts[0]?).any fun y => isOk ((copying 1 0x40).agentWrite g 0 y.2.2.2.far y.2.2.2.len 0)) &&
    runs (copying 2 1) (fun g x => (x.bursts[0]?).any fun y =>
      !((copying 2 1).core (g.copyTarget x)).owned y.2.2.2.far y.2.2.2.len) &&
    runs gathering (fun _ x => x.op == .gather && !x.finished && (x.bursts[0]?).isNone && decide (x.unit < x.a4.toNat)) &&
    runs walking (fun g x => x.op == .iwalk && x.desc.getLsbD 8 && (x.bursts[0]?).isNone && decide (x.unit < x.a4.toNat) &&
      walking.inOrder g 0 x false (underWay x.bursts) && isOk (walking.read4 g 0 false 0x80)) &&
    runs clearing (fun g x => x.binList.contains 0 && !x.done.contains 0 && !clearing.binBusy x 0 &&
      binGoes (clearing.workBin g 0 x 0) && !x.allDone && clearing.portOpen (renderPort (binDie 0)) &&
      binDone (clearing.workBin g 0 { x with bins := [⟨0, 0, none, 1⟩] } 0) &&
      clearing.binBusy { x with seq := 9 } 0 && (targetOf x.desc).s == 1 && !(targetOf x.desc).ml &&
      (binPixels 0 x.rect.1 x.rect.2.1 x.rect.2.2.1 x.rect.2.2.2)[0]? == some (0, 0)) &&
    runs (rasting 0) (fun g x => x.op == .rast && binGoes ((rasting 0).workBin g 0 x 0) && ((triOf aTri).frags (targetOf x.desc) 0)[0]?
      == some ⟨0, 0, 0, 0x3F800000⟩ && isOk ((rasting 0).rdVa g 0 0x80 16)) &&
    runs hitting (fun g x => rayHits (hitting.march g 0 x.desc 0 0 (2 ^ 24)) && (g.shaderPort hitting.me x 0x700000100).isSome &&
      (g.shaderPort hitting.me x 1).isNone && isOk (hitting.rdVa g 0 0x100 8)) &&
    runs marching (fun g x => decide (x.unit < x.a2.toNat) && rayMisses (marching.march g 0 x.desc 0 0 (2 ^ 24)) &&
      castEnds (marching.castRay g 0 x x.a1.toNat) && voxelAt x.desc 0 (.zero false) == some [0, 0, 0]) &&
    runs (engined (held .running 0 1 doneCmd) 0) (fun _ x => x.allDone && x.tokens != [] && !(engined (held .running 0 1 doneCmd) 0).poolBusy x) &&
    runs (engined (held .running 0 1 { doneCmd with port := none }) 0) (fun _ x => x.allDone && x.tokens == []) &&
    (let s := engined (held .token 0 0 { doneCmd with toks := [(⟨0, 0, 0⟩, 9)] }) 0
     (s.gangAt s.me).any (·.active) && s.me.eng[0].state == .token) &&
    [1, 0].all (fun n => let s := engined { held .halted 0 0 doneCmd with fault := some (cCOPYF, 5) } 0
      let s : State := { s with gangs := s.gangs.map fun g => { g with img := { g.img with trap := if n = 1 then some 3 else none } } }
      (s.gangAt s.me).any (fun g => g.active && (g.trapAt 0 0).isSome == (n == 1)) && !s.me.inTrap && s.me.hold == none &&
      !s.me.starting)) = true := by decide

/-! ### Multi-layer targets and CSR walks -/

/-- A multi-layer target of one pixel at 0x80 with two layers and the rule BLEND, and its pool at 0x400. -/
def layerDesc : BitVec 512 := BitVec.ofNat 512 (0x21 + 2 * 2 ^ 10 + 2 * 2 ^ 14 + 0x80 * 2 ^ 64 + 0x400 * 2 ^ 128)
/-- A pool of 256 nodes at 0, which allocates from node 0x30. -/
def poolDesc : BitVec 512 := BitVec.ofNat 512 (0x30 + 2 ^ 32 + 0x30 * 2 ^ 128)
/-- A command on the multi-layer target, with a head word and the pool's next, freecount and freehead. -/
def layered (c : Cmd) (head alloc : Nat) : State :=
  let s := engined (held .running 0 15 { c with pool := poolDesc }) layerDesc
  let nodes := 0x3E800000 + 9 * 2 ^ 32 + 0x31 * 2 ^ 96 + 64 * 2 ^ 120 + (0x3F400000 + 8 * 2 ^ 32 + 128 * 2 ^ 120) * 2 ^ 128
  { s with mem := memWriteN (memWriteN (memWriteN s.mem 0x80 head 4) 0x410 alloc 12) 0x300 nodes 32 }
/-- A RAST that has read the triangle of depth 1. -/
def layering (head alloc : Nat) : State :=
  layered { cmd .rast 0 5 layerDesc with a4 := 1, bins := [⟨0, 0, some (BitVec.ofNat 384 aTri), 0⟩] } head alloc
/-- A RESOLVE of a layer into tile 0. -/
def resolving (layer : BitVec 24) (head : Nat) : State := layered { cmd .resolve 0 0 layerDesc with md := layer * 16 } head 0
/-- A running IWALK of `n` non-zeros from number 2, whose row pointers 0, 2, 5, 6 stand at 0x80 and columns 7, 8, … at 0xC0. -/
def walkingRows (n : Word) (from_ : Word) : State :=
  let d : BitVec 512 := BitVec.ofNat 512 (3 + 3 * 2 ^ 32 + 0x80 * 2 ^ 64 + 0xC0 * 2 ^ 128 + 0x100 * 2 ^ 384)
  let s := engined (held .running 0 1 { cmd .iwalk from_ 0 d with a4 := n }) d
  { s with mem := memWriteN (memWriteN s.mem 0x80 (2 * 2 ^ 32 + 5 * 2 ^ 64 + 6 * 2 ^ 96) 16) 0xC8 9 4 }

/-- The worked case of R343: the gaps, the merges and the alphas. -/
theorem test_merge_worked_case : (
  mergeList 2 [⟨0x3E800000, 2, false, 64⟩, ⟨0x3EC00000, 3, false, 100⟩, ⟨0x3F400000, 1, false, 128⟩] ==
    [⟨0x3E800000, 2, true, 139⟩, ⟨0x3F400000, 1, false, 128⟩] &&
  mergeList 2 [⟨0x3E800000, 2, true, 139⟩, ⟨0x3F000000, 4, false, 51⟩, ⟨0x3F400000, 1, false, 128⟩] ==
    [⟨0x3E800000, 2, true, 162⟩, ⟨0x3F400000, 1, false, 128⟩] &&
  mergeList 1 [⟨0x3E800000, 2, false, 64⟩, ⟨0x3EC00000, 3, false, 100⟩, ⟨0x3F400000, 1, false, 128⟩] ==
    [⟨0x3EC00000, 3, true, 100⟩, ⟨0x3F400000, 1, false, 128⟩]) = true := by decide

/-- A fragment with room, one for a full list, an empty pool; a head word and a node as R339 and R340 lay them out. -/
theorem test_layers : (
  cmdIs (exec (.binWork 0 0 0) (layering 0 0x30)) (fun c => c.bins.map (·.pix) == [1]) &&
  cmdIs (exec (.binWork 0 0 0) (layering 0x200030 0x32)) (fun c => c.bins.map (·.pix) == [1]) &&
  slotIs (exec (.binWork 0 0 0) (layering 0 0x100)) (fun e => e.fault == some (cPOOLEX, 0)) &&
  headWord 0x30 2 true true == 0x3200030 && nodeBits ⟨0x3F800000, 5, true, 255⟩ 0x31 ==
    0xFF100031000000000000000000000000 + 5 * 2 ^ 32 + 0x3F800000) = true := by decide

/-- RESOLVE gives the second layer and the count. -/
theorem test_resolve_layer : (
  nextIs (exec (.binWork 0 0 0) (resolving 1 0x200030)) (fun t => memReadN t.me.ls 0 4 == 0x3F400000 &&
    memReadN t.me.ls 0x1000 4 == 8 && memRead t.me.ls 0x3000 == 128 && memRead t.me.ls 0x3400 == 2)) = true := by decide

/-- A walk of rows: number 2 stands in row 1; past the last non-zero the pair is all ones; no non-zero only searches. -/
theorem test_row_walk : (
  meIs (exec (.engineBurst 0 0 0) (walkingRows 1 2)) (fun k => memReadN k.ls 0x100 8 == 1 + 9 * 2 ^ 32 &&
    k.eng[0].cmd.any (·.csr == some (1, 6))) &&
  meIs (exec (.engineBurst 0 0 0) (walkingRows 1 6)) (fun k => memReadN k.ls 0x100 8 == 2 ^ 64 - 1) &&
  cmdIs (exec (.engineBurst 0 0 0) (walkingRows 0 2)) (fun c => c.csr == some (1, 6) && c.unit == 0)) = true := by decide

/-- A part of an allocation. -/
def allocates (a : Alloc) (n : Nat) : Bool := match a with
  | .node _ i => n == i
  | _ => false
/-- The pool is empty, and its free list is bad. -/
def allocFails (a : Alloc) (full : Bool) : Bool := match a with
  | .empty _ => full
  | .bad _ => !full
  | _ => false
/-- A work that ends well. -/
def workOk (w : Work) : Bool := match w with
  | .ok _ => true
  | _ => false
/-- What a read gave. -/
def readIs {α β : Type} (x : Except α (State × β)) (f : State → β → Bool) : Bool := match x with
  | .ok (t, y) => f t y
  | .error _ => false

/-- A RAST of a multi-layer target in slot 1 beside an RCLEAR.pool whose bins are done in slot 0, `n` and `m` telling their order. -/
def pooling (n m : Nat) : State :=
  let c : Cmd := { cmd .rclear 0 0x10001 layerDesc with md := 16, done := [0], seq := n, pool := poolDesc }
  let r : Cmd := { cmd .rast 0 5 layerDesc with a4 := 1, done := if m < n then [0] else [], seq := m, pool := poolDesc }
  let s := engined (held .running 0 0 c) layerDesc
  { s.setMe { s.me with eng := s.me.eng.set 1 (held .running 0 0 r) } with mem := memWriteN s.mem 0x410 7 12 }

/-- R341, R345: no node is allocated before the reset of an earlier RCLEAR.pool, and no reset comes before an earlier RAST is done. -/
theorem test_pool_order : (
    nextIs (exec (.binWork 0 1 0) (pooling 0 1)) (fun t => t.me.eng[1] == (pooling 0 1).me.eng[1]) &&
    nextIs (exec (.commandComplete 0 0) (pooling 0 1)) (fun t => memReadN t.mem 0x410 4 == 0 &&
      nextIs (exec (.binWork 0 1 0) t) fun u => u.me.eng[1] != t.me.eng[1]) &&
    nextIs (exec (.commandComplete 0 0) (pooling 1 0)) (fun t => memReadN t.mem 0x410 4 == 7) &&
    nextIs (exec (.commandComplete 0 1) (pooling 1 0)) (fun t => nextIs (exec (.commandComplete 0 0) t) fun u =>
      memReadN u.mem 0x410 4 == 0)) = true := by decide

/-- EngineCommands, the multi-layer target and the walk by rows: each outcome of an allocation, a list with room and a full one, a layer
that is there and one that is not, a row found, the end of the rows. -/
theorem witness_Layers : (
    runs (layering 0 0x30) (fun g x => let s := layering 0 0x30
      x.op == .rast && (targetOf x.desc).ml && ((triOf aTri).frags (targetOf x.desc) 0)[0]? == some ⟨0, 0, 0, 0x3F800000⟩ &&
      readIs (s.rdVa g 0 0x80 4) (fun t h => h == 0 && readIs (t.readNodes g 0 x.pool 0 0) fun u l => l == [] &&
        allocates (u.allocate g 0 0x400 poolDesc) 0x30 && isOk (u.writeNodes g 0 poolDesc [(0x30, ⟨5, 5, false, 255⟩)]) &&
        workOk (u.writePixel g 0 (targetOf x.desc) poolDesc 0 0 [(0x30, ⟨5, 5, false, 255⟩)] false false))) &&
    runs (layering 0x200030 0) (fun g x => let s := layering 0x200030 0
      readIs (s.rdVa g 0 0x80 4) fun t h => h == 0x200030 && readIs (t.readNodes g 0 x.pool 0x30 2) fun u l =>
        l.map (·.1) == [0x30, 0x31] && decide ((targetOf x.desc).k ≤ l.length) && l.all (fun y => !(depthVal y.2.z).isNaN) &&
        workOk (u.writePixel g 0 (targetOf x.desc) poolDesc 0 0 l true true)) &&
    runs (layering 0 (0x30 + 2 ^ 32 + 0x31 * 2 ^ 64)) (fun g _ => allocates ((layering 0 (0x30 + 2 ^ 32 + 0x31 * 2 ^ 64)).allocate
      g 0 0x400 poolDesc) 0x31 && allocFails ((layering 0 0x100).allocate g 0 0x400 poolDesc) true &&
      allocFails ((layering 0 (2 ^ 32 + 0x100 * 2 ^ 64)).allocate g 0 0x400 poolDesc) false) &&
    runs (resolving 1 0x200030) (fun g x => x.op == .resolve && (targetOf x.desc).ml && (binPixels 0 x.rect.1 x.rect.2.1 x.rect.2.2.1
      x.rect.2.2.2)[0]? == some (0, 0) && (binPixels 0 x.rect.1 x.rect.2.1 x.rect.2.2.1 x.rect.2.2.2)[1]? == some (1, 0) &&
      readIs ((resolving 1 0x200030).readNodes g 0 x.pool 0x30 2) (fun u l => l.length == 2 && u.upsets.isEmpty)) &&
    runs (resolving 2 0x200030) (fun _ x => getBits x.md 4 3 == 2) &&
    runs (walkingRows 1 2) (fun g x => let s := walkingRows 1 2
      x.op == .iwalk && !x.desc.getLsbD 8 && (x.bursts[0]?).isNone && s.inOrder g 0 x false (underWay x.bursts) && x.csr == none &&
      readIs (s.iwStart g 0 false x) (fun t y => y == (1, 6) && readIs (t.rowWalk g 0 false x.desc 2 1 (2 ^ 54 + 1)) fun u r =>
        r == 1 && isOk (u.read4 g 0 false 0xC8)) && isOk (s.rowSearch g 0 false x.desc 2 0 3 33) &&
      isOk (s.read4 g 0 false 0x84)) &&
    runs (walkingRows 0 2) (fun _ x => x.a4 == 0 && x.csr == none) &&
    runs (pooling 0 1) (fun _ y => y.op == .rclear && y.md.getLsbD 4 && (pooling 0 1).me.eng[1].cmd.any fun x =>
      x.op == .rast && (targetOf x.desc).ml && y.precedes x && (pooling 0 1).binBusy x 0) &&
    runs (pooling 1 0) (fun _ y => (pooling 1 0).me.eng[1].cmd.any fun x => x.precedes y && (pooling 1 0).poolBusy y)) = true := by decide

/-! ### Firings and gangs -/

/-- `net` with no firing running on core 0. -/
def idle (l : List Inst) : State := let s := net 0 l; s.setMe { s.me with fire := none }
/-- `idle` with its gang changed. -/
def idleGang (f : Gang → Gang) : State := { idle [] with gangs := (idle []).gangs.map f }
/-- A gang with every source exhausted. -/
def quietGang (f : Gang → Gang) : State :=
  let s := idleGang fun g => f { g with census := 0 }
  let e := s.me.exhausted.set 0 true
  [1, 32, 33].foldl (fun (s : State) c => s.setCore c { s.core c with exhausted := e }) (s.setMe { s.me with exhausted := e })
/-- Why a gang ends. -/
def anEnd : Doom := ⟨stFault, 0x20, 1, 2, 3, 4, 0⟩
/-- A gang that is being killed, with its end decided. -/
def dying (ph : GPhase) : State := idleGang fun g => { g with phase := ph, doom := some anEnd }
/-- A core that has issued nothing for its gang's limit. -/
def late : State :=
  let s := net 0 []
  { s with tick := 1100000000, gangs := s.gangs.map fun g => { g with limit := 1073741824 } }

theorem test_firing : (
  meIs (exec (.firingSelect 0) (idle [])) (fun k => k.fire.any (·.slot == 0) && k.pc == 0 && k.last[0] == 0) &&
  meIs (exec (.firingSelect 0) (idle (toks true))) (fun k => k.fire.any (·.slot == 1) && k.pc == 0x40 && k.getS 0 == 11) &&
  meIs (exec (.trapActorStart 0) (on fun k => { k with starting := true })) (fun k => !k.starting) &&
  nextIs (exec (.tokenVisible 50) (idle (toks false))) (fun t => t.gangs.all fun g => (g.seen ⟨0, 0, 0⟩).length == 1)) = true := by
  decide

theorem test_gang_end : (
  nextIs (exec (.dusk 1) (quietGang id)) (fun t => t.gangs.map (·.phase) == [.dusk]) &&
  nextIs (exec (.dusk 1) (idle [])) (fun t => t.gangs.map (·.phase) == [.resident]) &&
  nextIs (exec (.gangRetire 1) (quietGang fun g => { g with phase := .dusk })) (fun t => t.gangs.isEmpty &&
    t.comps.map (fun c => getBits c.tuple 384 32) == [1] && t.me == Core.reset) &&
  nextIs (exec (.gangKill 1) (dying .resident)) (fun t => t.gangs.map (·.phase) == [.killing]) &&
  nextIs (exec (.killComplete 1) (dying .killing)) (fun t => t.gangs.isEmpty && t.comps.map (fun c => getBits c.tuple 64 16) ==
    [0x2004]) &&
  nextIs (exec (.wdogExpiry 1) late) (fun t => t.gangs.any fun g => g.doom.any fun d => d.cause == cWDOG && d.faddr == 1)) = true := by
  decide

/-- FiringsAndGangs: nothing ready, a first firing, one without an input, one with a token; Dusk with and without an actor, the
ends, the watchdog. -/
theorem witness_FiringsAndGangs : (
    (idle []).me.fire == none && ((idle []).gangAt (idle []).me).any (fun g => g.phase == .resident && g.active &&
      (g.pick (idle []).me).any fun x => (g.entryPort (idle []).me x.1 x.2).isNone) && !(idle []).me.engFault &&
    ((quietGang id).gangOf 1).any (fun g => (g.pick (quietGang id).me).isNone) &&
    ((idle (toks true)).gangAt (idle []).me).any (fun g => (g.pick (idle []).me).any fun x => x.1 == 1 &&
      (g.entryPort (idle []).me x.1 x.2).any fun p => (g.inOf x.1 0 0 p).isSome) &&
    !(idle []).me.first0 &&
    ((quietGang id).gangOf 1).any (fun g => g.phase == .resident && g.active && g.census == 0 && g.img.dusk == none &&
      g.coreIds.all fun c => g.coreQuiet ((quietGang id).core c)) &&
    ((quietGang fun g => { g with img := { g.img with dusk := some 1 } }).gangOf 1).any (fun g => (g.img.dusk.bind
      (g.img.actors[·]?)).isSome) &&
    (quietGang fun g => { g with phase := .dusk }).flight.isEmpty &&
    ((dying .resident).gangOf 1).any (fun g => g.doom.isSome && g.phase != .killing) &&
    ((dying .killing).gangOf 1).any (fun g => g.doom.isSome && g.phase == .killing) &&
    (late.gangOf 1).any (fun g => g.active && (late.wdogOf g).isSome && decide (g.limit ≤ late.tick - late.me.issueMark)) &&
    (let s : State := { idleGang (fun g => { g with limit := 1073741824 }) with tick := 1100000000 }
     (s.gangOf 1).any fun g => !s.gangBusy g && decide (g.limit ≤ s.tick - g.idleMark) && g.coreIds.all fun c =>
       (s.core c).fire.isNone && decide (g.limit ≤ s.tick - (s.core c).lastIssue) && (List.range 8).all fun i =>
         (s.core c).readyMark[Fin.ofNat 8 i] == none) &&
    ((dying .resident).gangOf 1).any (fun g => g.doom.any fun e => e.tick == (dying .resident).tick &&
      ({ anEnd with cause := 0x10 } : Doom).before e && !({ anEnd with cause := 0x21 } : Doom).before e) &&
    ((idleGang fun g => { g with limit := 9 }).gangOf 1).any (fun g => ((idleGang id).wdogOf g).isNone) && decide (anEnd.census < 2 ^ 64)) = true := by decide

/-! ### The dispatchers -/

/-- The header of an image with one source actor, 16 bytes of code, and a local-store image of 64 bytes. -/
def header : Nat :=
  0x39464C46 + 3 * 2 ^ 32 + 2 ^ 40 + 2 ^ 48 + 4096 * 2 ^ 64 + 0xFFFF * 2 ^ 96 + 2 ^ 112 + 256 * 2 ^ 192 + 16 * 2 ^ 224 +
    4096 * 2 ^ 256 + 4096 * 2 ^ 320 + 64 * 2 ^ 352 + 4352 * 2 ^ 384 + 4352 * 2 ^ 448
/-- Its actor. -/
def actorRow : Nat := 2 ^ 10 + 2 ^ 32 + 2 ^ 40 + 256 * 2 ^ 64
/-- The table of ASID 1, which maps VA 0x200000 to 0x400000 as 2 MiB, and the image there. -/
def imageMem : List Host.Cell :=
  [(0x100008, 0x200001, 8), (0x200000, 0x201001, 8), (0x201000, 0x202001, 8), (0x202008, 0x40001B, 8), (0x400000, header, 64),
    (0x400040, actorRow, 16), (0x401000, 0x77, 1)].foldl (fun (m : List Host.Cell) x => memWriteN m x.1 x.2.1 x.2.2) []
/-- A launch tuple of a gang of one quad, with the image at a VA. -/
def launchTuple (w image : Nat) : BitVec 512 :=
  BitVec.ofNat 512 (1 + w * 2 ^ 64 + 2 ^ 72 + 2 ^ 96 + 20 * 2 ^ 120 + image * 2 ^ 128 + 4096 * 2 ^ 384)
/-- Dawn with a region of launch tuples at 0x40. -/
def booted : DawnBoot := ⟨true, 3, 0x100000, [(1, .aes128 1 2), (2, .aes256 3 4), (3, .aes128 5 6)], false, 0x40, 0, 0x80, 1, 0x500, 64, [(0x1000, 0x100)],
  [0x2000000], (0x3000, 0x100), [], [0]⟩
/-- A package after Dawn, with the image, and the descriptor of the region. -/
def dawnState : State :=
  { State.reset with
    ptroot := 0x100000, accepting := true, dawned := true, boot := some booted, resv := 3
    mem := memWriteN imageMem 0x40 dsc.toNat 64 }
/-- GlobalIssue, AccessSteps: a sound translation that no TLB holds waits for its walk, which fills the TLB and sends it on. -/
theorem witness_Walk : (
    let s : State := { st0 with ptroot := 0x100000, mem := imageMem }
    let a := { acc (.store 8 0) 8 with va := 0x200008, phase := .new, page := none }
    targetOkay (s.target a) && !s.tlbHit a && (s.tlbFind 0 1 0x200008).isNone &&
    nextIs (exec (.pageWalk 7) (s.pushAccess a)) (fun t => t.flight.all (fun x => match x.phase with
      | .sent (.phys pa _) => pa == 0x400008
      | _ => false) && (t.tlbFind 0 1 0x200010).isSome)) = true := by decide

/-- `dawnState` with a launch tuple deposited. -/
def deposited (t : BitVec 512) : State :=
  dawnState.setSlice 0 { Slice.reset with tuples := [⟨0x40, t, 0, 0, none, 0⟩] }
/-- The image as the dispatcher keeps it. -/
def anImage : Image := ⟨0, 4096, none, none, [⟨0, 0, true, none, 0, 0, 1, 1, 256⟩], [], 4096, 64⟩
/-- A head of one quad. -/
def aHead (rect : Option (Nat × Nat)) : Head := ⟨launchTuple 1 0x200000, launchOf (launchTuple 1 0x200000), anImage, 0, 20, rect, false⟩
/-- `dawnState` with a head. -/
def headed (rect : Option (Nat × Nat)) : State := { dawnState with head := some (aHead rect) }
/-- A gang of `w` by `h` quads that holds its rectangle. -/
def gangOf (f : Gang → Gang) : Gang :=
  f { probeGang with launch := { probeGang.launch with w := 16, h := 8, pri := 1 } }
/-- `headed` while a gang holds every quad. -/
def full (f : Gang → Gang) : State := { headed none with gangs := [gangOf f] }
/-- A gang of one quad that is told to stop, or saved. -/
def one (f : Gang → Gang) : State :=
  { dawnState.setCore 0 { Core.reset with gang := some 1 } with gangs := [f { probeGang with image := [] }] }
/-- A saved gang of one quad. -/
def savedGang (g : Gang) : Gang :=
  { g with phase := .saved, onQuads := false, image := [0], cores := List.replicate 4 { Core.reset with gang := some 1 } }
/-- A completion whose region does not translate. -/
def aComp (busy : Bool) : State := { dawnState with comps := [⟨5, 0, 0, 0x40, 9, busy⟩] }

theorem test_launch : (
  nextIs (exec .launchTake (deposited (launchTuple 1 0x200000))) (fun t => t.head == some (aHead none) &&
    (t.slice 0).tuples.isEmpty) &&
  nextIs (exec .launchTake (deposited (launchTuple 17 0x200000))) (fun t => t.head == none && t.dieTurn == 1 &&
    t.comps.map (fun c => getBits c.tuple 64 16) == [2]) &&
  nextIs (exec .launchTake (deposited (launchTuple 1 0x400000))) (fun t =>
    t.comps.map (fun c => (getBits c.tuple 64 16, getBits c.tuple 256 64)) == [(0x2004, 0x400000)]) &&
  nextIs (exec .launchTake (deposited (launchTuple 1 0x201000))) (fun t => t.comps.map (fun c => getBits c.tuple 64 16) == [1]) &&
  nextIs (exec .gangPlacement (headed none)) (fun t => t.gangs.map (·.gid) == [1] && t.head == none && t.dieTurn == 1 &&
    (t.core 0).gang == some 1 && memRead (t.core 33).ls 0 == 0x77 && (t.core 33).gx == 1 && (t.core 33).gy == 1 &&
    (t.core 2).gang == none && (t.core 0).readyMark[0] == some 0)) = true := by decide

theorem test_preemption : (
  nextIs (exec .preemptDecision (full id)) (fun t => t.gangs.map (·.order) == [some (.save 0)] && t.head == some (aHead (some (0, 0)))) &&
  nextIs (exec (.gangPreempt 1) (one fun g => { g with order := some (.save 0) })) (fun t => t.gangs.map (·.phase) == [.saved] &&
    t.gangs.map (fun g => g.cores.length) == [4] && t.gangs.map (·.image) == [[0]]) &&
  nextIs (exec (.gangMove 1) (one fun g => { g with order := some (.move 3 2 0) })) (fun t =>
    t.gangs.map (fun g => (g.qx, g.qy, g.onQuads)) == [(3, 2, true)] && (t.core (coreAt 6 4)).gang == some 1) &&
  nextIs (exec (.gangRestore 1) (one savedGang)) (fun t => t.gangs.map (·.onQuads) == [true] && (t.core 0).gang == some 1) &&
  nextIs (exec (.saveImageMove 1 [9]) (one savedGang)) (fun t => t.gangs.map (·.image) == [[9]]) &&
  nextIs (exec .agingStep { headed none with tick := 100000, sched := ⟨16, 1024, 255, true⟩ }) (fun t =>
    t.head.any (·.aged == 117)) &&
  nextIs (exec (.completionDeposit 5) (aComp false)) (fun t => t.comps.isEmpty && t.dropped == [0]) &&
  nextIs (exec (.completionRetry 5) (aComp true)) (fun t => t.comps.isEmpty && t.dropped == [0])) = true := by decide

/-- An image is read, and sound or not. -/
def imageIs (s : State) (l : Launch) (b : Bool) : Bool := match s.loadImage l with
  | .ok m => m.isSome == b
  | .error _ => false
/-- Reading an image faults. -/
def imageFaults (s : State) (l : Launch) : Bool := match s.loadImage l with
  | .error (.fault _ _) => true
  | _ => false

/-- Dispatchers, launch: a head, none; each branch of the checks; a placement and none; a decision. -/
theorem witness_Launch : (
    dawnState.accepting && dawnState.head == none && (dawnState.launchRegions.findSome? dawnState.launchIn).isNone &&
    ((deposited (launchTuple 1 0x200000)).launchRegions.findSome? (deposited (launchTuple 1 0x200000)).launchIn).isSome &&
    !(launchOf (launchTuple 17 0)).inRange && (launchOf (launchTuple 1 0x200000)).inRange &&
    { launchOf (launchTuple 1 0) with sys := true }.inRange &&
    imageIs dawnState (launchOf (launchTuple 1 0x200000)) true && imageIs dawnState (launchOf (launchTuple 1 0x201000)) false &&
    imageFaults dawnState (launchOf (launchTuple 1 0x400000)) &&
    (headed none).quiet && !(headed none).savedFirst (aHead none) && (findOrigin (headed none).held 1 1).isSome &&
    (findOrigin (full id).held 1 1).isNone && !(full id).fits 1 1 && !(full id).held.isEmpty &&
    ((full id).residents.map (·.launch.pri.toNat)).min? == some 1 && decide (1 + (full id).sched.margin.toNat ≤ (full id).headPri (aHead none)) &&
    (firstRoom (full id).held 1 1 [] ((full id).victims 20)).isSome &&
    ((full fun g => { g with launch := { g.launch with pri := 10 } }).headPri (aHead none) == 20) &&
    (dawnState.launchHard dawnState.launchRegions).isNone && booted.sysLaunch != booted.launch && dawnState.launchRegions.contains 0x40 &&
    getBits (launchTuple 1 0) 0 64 == 1 && (headed none).headPri (aHead none) == (aHead none).aged &&
    ({ headed none with tick := 100000, sched := ⟨16, 1024, 255, true⟩ } : State).headPri (aHead none) != (aHead none).aged &&
    !(full id).compacting 1 1 && !(full id).savedFirst (aHead none) && !(aHead none).waits &&
    decide ((headed none).headPri (aHead none) < 5 + (headed none).sched.margin.toNat) &&
    (firstRoom (full fun g => { g with order := some (.save 0) }).held 1 1 [] ((full fun g => { g with order := some (.save 0) }).victims 20)).isNone &&
    (full id).upsets.isEmpty && isOk (dawnState.dispBytes 1 (0x200000 + 4096) (upTo 64 64 / 64)) && decide (15 + 1 ≤ 16) && decide (7 + 1 ≤ 8)) = true := by decide

/-- Dispatchers, saving: an order to save, to move, a restore at the old origin and at another, images, cores, completions. -/
theorem witness_Saving : (
    (let s := one fun g => { g with order := some (.save 0) }
     (s.gangOf 1).any fun g => g.doom == none && s.gangDrained g) &&
    (let s := one fun g => { g with order := some (.move 3 2 0) }
     (s.gangOf 1).any fun g => s.gangDrained g && ((s.save g).gangOf 1).isSome &&
       !(s.held.filter (·.gid != 1)).any (·.meets (3, 2) g.launch.w g.launch.h)) &&
    (let s := one savedGang
     s.accepting && s.quiet && decide (3 ≤ s.resv.val) && distinct [(9 : SliceId)] && (s.gangOf 1).any fun g => !s.restoreHeld g &&
       !s.held.any (·.meets (g.qx, g.qy) g.launch.w g.launch.h)) &&
    (let s := { one savedGang with gangs := (one savedGang).gangs ++ [{ probeGang with gid := 2 }] }
     (s.gangOf 1).any fun g => !s.restoreHeld g && s.held.any (·.meets (g.qx, g.qy) g.launch.w g.launch.h) &&
       (findOrigin s.held g.launch.w g.launch.h).isSome) &&
    (let g := savedGang { probeGang with image := [0], scratch := [[]], mcmds := [[]] }
     decide (15 + g.launch.w ≤ 16) && decide (7 + g.launch.h ≤ 8) && g.cores.length == 4 * g.launch.w * g.launch.h &&
       g.scratch.length == g.launch.w * g.launch.h && g.mcmds.length == g.launch.w * g.launch.h && (g.cores[3]?).isSome) &&
    (let s := one fun g => { g with order := some (.save 0) }
     (s.gangOf 1).any fun g => !s.duskReady g && !s.retires g) && decide (524288 ≤ 524288) && haloState.me.haloPend.length == 1 &&
    (let s := one fun g => { g with order := some (.save 0), phase := .dusk, dusked := true }
     (s.gangOf 1).any fun g => s.retires g) &&
    ((aComp true).comps.find? (·.id == 5)).any (·.busy) && ((aComp false).comps.find? (·.id == 5)).any (fun x => !x.busy)) = true := by
  decide

/-! ### The host and the management plane -/

/-- A request of the host to the region at 0x40. -/
def hostAsk (op : BitVec 4) (dest : Word) : HostHdr := ⟨op, 3, 4, 0x40, dest⟩
/-- The answers to the host after a step. -/
def said (x : Out) (l : List HostMsg) : Bool := nextIs x fun t => t.hostOut == l
/-- The data of the first answer. -/
def dataOf (l : List HostMsg) : List Nat := match l with
  | .data d :: _ => d.map (·.toNat)
  | _ => []

theorem test_host : (
  said (exec (.hostDeposit (hostAsk 1 0) 1) dawnState) [.answer 4 0] && said (exec (.hostDeposit (hostAsk 1 0) 2) (deposited 1)) [.answer 4 1] &&
  said (exec (.hostWaitingDeposit (hostAsk 2 0) 2) (deposited 1)) [.answer 4 3] &&
  said (exec (.hostParkedTake (hostAsk 3 0x80) 1) (deposited 1)) [.answer 4 4, .interrupt 3 4] &&
  said (exec (.hostParkedCopy (hostAsk 4 0x80) 1) dawnState) [.answer 4 3] &&
  said (exec (.hostCancel (hostAsk 5 0x80) 1) dawnState) [.answer 4 6] &&
  said (exec (.hostParkedTake (hostAsk 3 0x81) 1) (deposited 1)) [.answer 4 7] &&
  said (exec (.hostBadRequest (hostAsk 6 0) 1) dawnState) [.answer 4 7] &&
  nextIs (exec (.hostMemoryRead 0x401000 2) dawnState) (fun t => dataOf t.hostOut == [0x77, 0]) &&
  said (exec (.hostMemoryRead 0x10FF 1) dawnState) [.error] &&
  nextIs (exec (.hostMemoryWrite 0x500 [9]) dawnState) (fun t => memRead t.mem 0x500 == 9 && t.hostOut == [.ack]) &&
  nextIs (exec (.hostLineRecall 0x8000000000 [9]) dawnState) (fun t => memRead t.mem 0x8000000000 == 9)) = true := by decide

/-- An uncorrectable error at the aperture is a package error for a read and a write, a link that is held takes nothing, and a Dawn that
fails its self-check takes no launch. -/
theorem test_host_errors : (
  let s : State := { dawnState with upsets := [⟨.mem 0xC0, true⟩] }
  nextIs (exec (.hostMemoryRead 0x600 4) s) (fun t => !t.accepting && t.gangs.isEmpty) &&
  nextIs (exec (.hostMemoryWrite 0x600 [9]) s) (fun t => !t.accepting && memRead t.mem 0x600 == 0) &&
  nextIs (exec (.hostMemoryRead 0x600 4) { dawnState with upsets := [⟨.mem 0xC0, false⟩] }) (fun t => t.upsets.isEmpty) &&
  said (exec (.hostMemoryRead 0x401000 2) { dawnState with buckets := [⟨glarikPort, 0x100010001, 255⟩] }) [] &&
  nextIs (exec (.dawn { booted with selfCheck := false }) dawnState) (fun t => !t.accepting)) = true := by decide

theorem test_management : (
  nextIs (exec (.schedSettingsWrite 1 1024 2 false) dawnState) (fun t => t.schedSet == ⟨1, 1024, 2, false⟩ && t.sched == Sched.reset) &&
  nextIs (exec (.wdogLimitWrite 1048576) dawnState) (fun t => t.wdog == 1048576) &&
  nextIs (exec (.bucketControlWrite 3 0xFFFFFFFF10000000) dawnState) (fun t => (t.bucket 3).word == 0x110000001 && (t.bucket 3).credit == 256) &&
  nextIs (exec .thermalThrottle { dawnState with buckets := [⟨3, 0x100200007, 5⟩] }) (fun t => t.buckets == [⟨3, 0x100020007, 5⟩]) &&
  nextIs (exec (.dawn booted) { State.reset with busPkg := 5 }) (fun t => t.pkg == 5 && t.dawns == 1 && t.dawned && t.accepting &&
    memReadN t.mem (5 * 2 ^ 40 + 0x17FFFFF000) 8 == 0x5464E4950 && t.resv == 3 && t.keys == 0xF) &&
  said (exec (.dawn { booted with selfCheck := false }) State.reset) [.selfCheckFailed] &&
  nextIs (exec (.bonnetAccessRefused (.mem 7)) dawnState) (fun t => t.refusals == [.mem 7]) &&
  nextIs (exec (.smbusAccess (.setPackageNumber 9)) dawnState) (fun t => t.busPkg == 9 && t.pkg == 0)) = true := by decide

/-- HostAndManagement: the link up with a home and without, the edge of the aperture, a line of the host, an enabled bucket, no
power, Dawn, the fuse. -/
theorem witness_HostAndManagement : (
    dawnState.glarikUp && (dawnState.hostHome (hostAsk 5 0x40) 1).isSome && (dawnState.hostHome (hostAsk 3 0x41) 1).isNone &&
    dawnState.apertureOk 0x17FFFFFFFF 1 && !dawnState.apertureOk 0x17FFFFFFFF 2 && dawnState.apertureOk 0x401000 2 &&
    (List.range 2).all (fun i => dawnState.lineKey ((dawnState.pkg.toNat * 2 ^ 40 + 0x401000 + i) / 128) == 0) &&
    paPkg 0x8000000000 == dawnState.pkg.toNat && paHost 0x8000000000 && dawnState.lineKey (0x8000000000 / 128) == 0 &&
    decide (2 ^ 10 ≤ 1024) && decide (2 ^ 20 ≤ 1048576) && (0x100200007 : Word).getLsbD 32 &&
    !{ dawnState with powered := false }.powered && booted.selfCheck && { booted with fuse := true }.fuse &&
    !dawnState.boot.any DawnBoot.fuse && { dawnState with boot := some { booted with fuse := true } }.boot.any DawnBoot.fuse &&
    !{ dawnState with glarikUp := false }.glarikUp &&
    !dawnState.glarikHeld && ({ dawnState with glarikUp := false } : State).glarikHeld &&
    ({ dawnState with buckets := [⟨glarikPort, 0x100010001, 255⟩] } : State).glarikHeld &&
    !dawnState.hostHard 0x40 && ({ dawnState with upsets := [⟨.mem 8, true⟩] } : State).hostHard 0x40 &&
    (dawnState.hostHome { hostAsk 1 0 with region := 0x80 } 1).isNone && (dawnState.hostHome { hostAsk 1 0 with region := 0x41 } 1).isNone &&
    (List.range 64).all (fun i => dawnState.lineKey ((dawnState.pkg.toNat * 2 ^ 40 + 0x8000000000 + 0x80 + i) / 128) == 0) &&
    dawnState.boot == some booted && !dawnState.apertureOk 0x20003FF 1 && dawnState.apertureOk 0x2400000 1 &&
    !dawnState.apertureOk 0x30FF 1 && dawnState.apertureOk 0x3100 1 && decide (7 < 2 ^ 32) && State.reset.boot == none &&
    Bucket.refill ⟨3, 0x100010002, 256⟩ 1 5 == ⟨3, 0x100010002, 1⟩ && Bucket.refill ⟨3, 0x10002, 256⟩ 1 5 == ⟨3, 0x10002, 256⟩) = true := by
  decide

/-! ### The fabric -/

/-- Window 0, enabled for packages 0 and 1, with its home here, adding 64-bit integers. -/
def aWin : Win := { Win.reset with cfg := 1 + 1 * 2, mem := 0x20000 }
/-- `dawnState` with window 0. -/
def windowed (x : Win) : State := { dawnState with wins := dawnState.wins.set 0 x }
/-- Window 0 after a step. -/
def winIs (x : Out) (f : Win → Bool) : Bool := nextIs x fun t => f t.wins[0]
/-- An access on its way to another package. -/
def farAcc : Access :=
  let p : Page := { probePage with frame := 2 ^ 40 }
  { acc (.store 8 0) 8 with page := some p, phase := .sent (.phys (2 ^ 40 + 0x40) p), va := 0x40 }

theorem test_fabric : (
  aWin.op == 1 && aWin.en &&
  winIs (exec (.windowPackageFold 0) (windowed { aWin with closed := [4], elems := [⟨⟨8, 0, 3⟩, 1, 4⟩, ⟨⟨8, 0, 2⟩, 1, 4⟩] }))
    (fun x => x.leaf == [⟨4, 0, [⟨8, 0, 5⟩]⟩] && x.closed.isEmpty) &&
  winIs (exec (.leafFold 0 4 0 true [(1, [⟨8, 0, 7⟩])]) (windowed { aWin with leaf := [⟨4, 0, [⟨8, 0, 5⟩]⟩] }))
    (fun x => x.spine == [⟨4, 0, [⟨8, 0, 12⟩]⟩]) &&
  winIs (exec (.spineFold 0 4) (windowed { aWin with spine := [⟨4, 0, [⟨8, 0, 12⟩]⟩] })) (fun x => x.home == [⟨4, 0, [⟨8, 0, 12⟩]⟩]) &&
  nextIs (exec (.windowHomeMerge 0) (windowed { aWin with home := [⟨4, 0, [⟨8, 0, 12⟩]⟩] })) (fun t => memRead t.mem 8 == 12 &&
    t.wins[0].merged == [4]) &&
  winIs (exec (.epochDone 0) (windowed { aWin with merged := [0] })) (fun x => x.doneTo == 1) &&
  nextIs (exec (.linkFailure (.port 1 0)) { dawnState with flight := [farAcc] }) (fun t => t.flight.isEmpty && t.linksDown == [.port 1 0]) &&
  nextIs (exec (.switchFailure (.leaf 0 0)) { dawnState with flight := [farAcc] }) (fun t => t.flight.isEmpty) &&
  nextIs (exec .glarikFailure dawnState) (fun t => !t.glarikUp)) = true := by decide

/-- FabricSteps: a closed epoch and none, a leaf, a spine, a home, an epoch done and not; a link, a switch, the host link. -/
theorem witness_FabricSteps : (
    (windowed { aWin with closed := [4] }).wins[0].closed == [4] && aWin.closed.isEmpty &&
    (let x := { aWin with leaf := [⟨4, 0, [⟨8, 0, 5⟩]⟩] }
     x.en && x.members.contains 0 && (x.below 0).filter (· != 0) == [1] && (batchOf x.leaf 4 0).isSome && decide (x.doneTo ≤ 4) &&
     !x.merged.contains 4 && !x.home.any (·.epoch == 4) && batchOf x.spine 4 0 == none) &&
    (let x := { aWin with spine := [⟨4, 0, [⟨8, 0, 12⟩]⟩] }
     let parts := x.leaves.map fun l => batchOf x.spine 4 l
     !parts.isEmpty && parts.all (·.isSome)) &&
    (windowed { aWin with home := [⟨4, 0, [⟨8, 0, 12⟩]⟩] }).upsets.isEmpty && { aWin with merged := [0] }.merged.contains aWin.doneTo &&
    !aWin.merged.contains aWin.doneTo && !dawnState.linksDown.contains (.port 1 0) && !dawnState.deadSw.contains (.leaf 0 0) &&
    dawnState.glarikUp && aWin.memberCount == 2 && ({ aWin with mem := 0 } : Win).memberCount == 4096 &&
    (let x := { aWin with mem := 64 + 2 ^ 16 }
     x.en && x.below 1 == [64] && dawnState.pkg.toNat / 64 != 1) &&
    ({ dawnState with upsets := [⟨.mem 1, true⟩] } : State).hardAt [.mem (8 / 8)] &&
    (let s : State := { dawnState with linksDown := [.port 1 0] }
     s.pathDown 0 1 (0, 0) && !s.pathDown 0 1 (1, 0) && allWays.contains (1, 0) && !s.pathDown 2 3 (0, 0)) &&
    (let s : State := { st0 with flight := [farAcc] }
     farAcc.route == some (1, 2 ^ 40 + 0x40) && linkUsed (.port 1 0) s.pkg.toNat 1 (s.wayOf s.pkg.toNat 1 (2 ^ 40 + 0x40)) &&
       (s.gangOf 1).any (·.doom.isNone) && farAcc.gang == 1) &&
    (let s := windowed { aWin with cfg := 1 + 2 + 2 ^ 16 }
     s.windowUses (linkUsed (.port 1 0)) s.wins[0] && !Win.reset.en) &&
    (let a := { farAcc with page := some { probePage with frame := 0x8000000000 } }
     let f := fun (n : Nat) => { acc (.flush n false) 0 with va := 0x45, phase := .done 0 0 }
     st0.toHost a && !st0.toHost { a with atL1 := true, phase := .done 0 0 } && !st0.toHost { a with phase := .walk (.phys 0 probePage) true } &&
     !st0.reaches (f 0) (fun _ _ => true) && !st0.reaches (f 0x3B) (fun _ pa => pa == 0x80) && st0.reaches (f 0x3C) (fun _ pa => pa == 0x80)) &&
    (windowed { aWin with home := [⟨4, 0, [⟨2 ^ 40 + 8, 0, 12⟩]⟩] }).mergeError ⟨4, 0, [⟨2 ^ 40 + 8, 0, 12⟩]⟩ == none) = true := by decide

/-! ### Checks and waits -/

/-- Operands v0, v1, v2 under m7. -/
def v0 (md : BitVec 24) : Ops := ⟨.v 0, .v 1, .v 2, .none, .m 7, 0, md⟩
/-- `st0` with shapes 0 and 1. -/
def shaped (a b : Word) : State := on fun k => { k with shp := (k.shp.set 0 a).set 1 b }

/-- Class 0x5 and 0x6: a type outside the class, a plane of another type, a wrong source of VBCAST and VMOV, a scaled VMOV under a mask. -/
theorem test_illfmt : (
  trapIs (exec (.vadd h0 (v0 5)) st0) cILLFMT 5 && trapIs (exec (.vmin h0 (v0 9)) (shaped 9 0)) cILLFMT 1 &&
  trapIs (exec (.viadd h0 (v0 9)) st0) cILLFMT 5 && trapIs (exec (.viadd h0 (v0 5)) (shaped 5 5)) cILLFMT 2 &&
  trapIs (exec (.vand h0 (v0 8)) st0) cILLFMT 5 && trapIs (exec (.vand h0 (v0 5)) st0) cILLFMT 0 &&
  trapIs (exec (.vbcast h0 (v0 8)) st0) cILLFMT 5 && trapIs (exec (.vbcast h0 (v0 0x405)) st0) cILLFMT 0 &&
  trapIs (exec (.vbcast h0 (v0 0x405)) (shaped 5 0)) cILLFMT 1 && trapIs (exec (.vmov h0 (v0 8)) st0) cILLFMT 5 &&
  trapIs (exec (.vmov h0 (v0 5)) st0) cILLFMT 0 && trapIs (exec (.vmov h0 (v0 5)) (shaped 5 0)) cILLFMT 1 &&
  trapIs (exec (.vmov h0 { v0 12 with o4 := .m 1 }) (shaped 0x4F80C 0x4F80C)) cILLFMT 4) = true := by decide

/-- PlaneFloatResults, PlaneFloatExact, PlaneIntResults, PlaneLogicResults: what takes ILLFMT. -/
theorem witness_Illfmt : (
    ok (fun o _ => !(o.ty 0 == .f32 || o.ty 0 == .f16 || o.ty 0 == .bf16)) (v0 5) st0 &&
    ok (fun o s => o.ty 0 == .f32 && firstUnlike o s == some 1) (v0 9) (shaped 9 0) &&
    ok (fun o s => o.ty 0 == .n32 && firstUnlike o s == some 2) (v0 5) (shaped 5 5) && ok (fun o _ => o.ty 0 == .f64) (v0 8) st0 &&
    ok (fun o s => o.ty 0 != .f64 && (s.me.shapeO o.o0).ty != o.ty 0) (v0 0x405) st0 &&
    ok (fun o s => (s.me.shapeO o.o0).ty == o.ty 0 && o.mod 10 2 == 1 && (s.me.shapeO o.o1).ty != o.ty 0) (v0 0x405) (shaped 5 0) &&
    ok (fun o s => (s.me.shapeO o.o0).scaled && o.o4 != .m 7) { v0 12 with o4 := .m 1 } (shaped 0x4F80C 0x4F80C)) = true := by decide

/-- MERGE waits where no port of its set holds a token; the tokens before one are to be visible; the rotation. -/
theorem witness_ChannelWaits : (
    let s := net 2 []
    let o : Ops := ⟨.s 1, .s 2, .c 8, .none, .none, 0, 1⟩
    s.ready h0 o && (portSet o.o2 o).all (fun q => decide (8 ≤ q) && (s.inPort q).isSome && s.headOf q == none) &&
    meIs (exec (.merge h0 o) s) (fun k => k.pc == 0) &&
    scanPorts 9 [8, 9] == some 8 && scanPorts 8 [8, 9] == some 9 &&
    (let x : Inst := ⟨⟨2, 0, 0⟩, [⟨51, 12, true, []⟩, ⟨52, 13, false, [7]⟩]⟩
     st0.tokenFree x 52 && !(flying (away (.rst 4 0) 4)).tokenFree x 52 &&
       !st0.tokenFree { x with toks := x.toks.map fun t => { t with visible := false } } 52)) = true := by decide

/-- RemoteAndBarrier: an access waits behind an earlier one to its target, for an engine-owned tile, and while its gang is saved. -/
theorem witness_RemoteWaits : (
    (let s : State := { st0 with flight := [{ away (.rst 4 1) 4 with id := 6 }, away (.rst 4 0x55) 4] }
     nextIs (exec (.remoteLsAccess 7) s) (fun t => memRead (t.core 1).ls 8 == 0 && t.flight == s.flight) &&
     nextIs (exec (.remoteLsAccess 6) s) (fun t => nextIs (exec (.remoteLsAccess 7) t) fun u => memRead (u.core 1).ls 8 == 0x55)) &&
    (let s := flying { away (.rst 4 0x55) 4 with phase := .sent (.remote 0 (127 * 4096)) }
     let s := s.setMe (tiled 0 0).me
     (s.core 0).tiles.getLsbD 127 && nextIs (exec (.remoteLsAccess 7) s) (fun t => t.flight == s.flight)) &&
    (let s : State := { flying (away (.rst 4 0) 4) with gangs := st0.gangs.map fun g => { g with phase := .saved } }
     s.asleep 1 && nextIs (exec (.remoteLsAccess 7) s) fun t => t.flight == s.flight)) = true := by decide

/-- The bucket of a port without credit. -/
def dry (s : State) (port : Nat) : State := { s with buckets := [⟨port, 0x100010001, 255⟩] }

/-- AccessSteps: a walk that waits; what stands before a load; an access that passes a write on a UN page; a release of a killed gang;
a window's element; a migration that cannot come yet, or at all. -/
theorem witness_AccessWaits : (
    (let s := dry { st0 with ptroot := 0x100000, mem := imageMem } (slicePort (st0.home false 0x100008))
     let a := { acc (.store 8 0) 8 with va := 0x200008, phase := .walk (.phys 0x400008 probePage) true }
     s.walkShut 1 0x200008 && (s.walkReads 1 0x200008).any (fun pa => !s.memOpen pa 8) &&
     nextIs (exec (.pageWalk 7) (s.pushAccess a)) (fun t => t.flight == (s.pushAccess a).flight) &&
     nextIs (exec (.pageWalk 7) (s.pushAccess { a with phase := .bad ⟨cXLATE, none⟩ })) (fun t => t.flight.length == 1)) &&
    (let x := acc (.store 8 1) 8
     let un := { probePage with kind := 2 }
     let a := { acc (.load (.s 1) .n64 true) 8 with id := 8, grp := 8, page := some un, phase := .sent (.phys 0x40 un) }
     let y := { acc (.store 8 2) 8 with id := 8, grp := 8, page := some un, phase := .sent (.phys 0x40 un) }
     let s : State := { st0.setMe { st0.me with l1 := [⟨1, 0, false, 5⟩] } with flight := [x, a] }
     let t : State := { s with flight := [{ x with fire := ⟨0, .normal, 0⟩ }, y] }
     (s.l1Hit a).isNone && !s.lets x a && x.core == a.core && x.meets a && !x.performed && !a.un == false && t.lets x y &&
       !t.lets { x with fenced := true } y && !t.lets { x with req := .load (.s 1) .n64 false } y &&
       t.mayPerform y && (t.passLine y).me.l1.isEmpty &&
       nextIs (exec (.sliceAccess 8) t) (fun u => memRead u.mem 0x40 == 2 && u.me.l1.isEmpty)) &&
    (let a := { acc (.store 8 0) 8 with rel := some 3 }
     let s : State := { flying a with gangs := st0.gangs.map fun g => { g with doom := some anEnd } }
     s.gone 1 && a.release.isSome && s.mayPerform a && nextIs (exec (.sliceAccess 7) s) (fun t => t.flight.isEmpty)) &&
    (let s : State := { st0 with movCount := [(3, 1, 4)] }
     s.dueCount (3, 1, 4) && !s.dueCount (3, 1, 3) && s.memOpen (512 * 3) 512 &&
     nextIs (exec (.superblockMigration 3 1) { s with movCount := [(3, 1, 3)] }) (fun t => t.moved.isEmpty) &&
     (let t := dry s (slicePort (s.home false (512 * 3)))
      !t.memOpen (512 * 3) 512 && nextIs (exec (.superblockMigration 3 1) t) fun u => u.moved.isEmpty) &&
     (s.countAccess 2 (.phys (512 * 3) probePage)).movCount == [(3, 1, 4)] &&
     (({ s with movCount := [(3, 1, 3)] } : State).countAccess 4 (.phys (512 * 3) { probePage with cache := false })).movCount.isEmpty)) =
    true := by decide

/-- ClocheSteps: a match and a count that meet an uncorrectable error in a Cloche way. -/
theorem witness_ClocheHard : (
    let f := fun (q : CReq) => ({ homed q fun z => { z with tuples := [⟨0x40, 5, 0, 0, some 3, 0⟩] } with
      upsets := [⟨.way 0 24, true⟩] } : State)
    (ask (.count 5)).homeReq.any (fun z => (f (.count 5)).matchHard z 5 && !(f (.count 6)).matchHard z 6) &&
    nextIs (exec (.clocheCountArrival 7) (f (.count 5))) (fun t => t.gangs.any fun g => g.doom.any (·.cause == cECCU)) &&
    nextIs (exec (.clocheMatchArrival 7) (f (.take 5 0x80))) (fun t => t.gangs.any fun g => g.doom.any (·.cause == cECCU)) &&
    nextIs (exec (.clocheMatchArrival 7) (f (.cpyp 6 0x80 ⟨0, 0, 0⟩))) (fun t => t.gangs.all fun g => g.doom.isNone)) = true := by decide

/-- A descriptor of an IWALK by coordinates that gathers rows of one byte at offset 8192. -/
def iwDesc : BitVec 512 := BitVec.ofNat 512 (3 + 2 ^ 8 + 2 ^ 9 + 8192 * 2 ^ 416)

/-- EngineCommands: the checks at acceptance, each with a descriptor or an operand that fails it. -/
theorem test_accept_checks : (
  dataBad (cmd .copy 0 0 (gatherDesc)) 1 == some 0x40 && dataBad (cmd .copy 0 0 (copyDesc 3)) 1 == some 0x40 &&
  dataBad (cmd .copy 0 0xFC1 (copyDesc 0)) 1 == some 0x1000 && dataBad (cmd .copy 0 0x7FFC1 (copyDesc 0)) (1 <<< 127) == some 0x80000 &&
  dataBad (cmd .copy (0x7FFC1 * 2 ^ 32) 0 (copyDesc 2)) 1 == some 0x80000 && dataBad (cmd .copy (5 * 2 ^ 32) 0 (copyDesc 2)) 1 == none &&
  dataBad (cmd .gather 0 0 (copyDesc 0)) 1 == some 0x40 && dataBad (cmd .gather 0 (2 * 2 ^ 32) gatherDesc) 1 == some 2 &&
  dataBad (cmd .gather 0 0 gatherDesc) 0 == none && dataBad { cmd .gather 0 0x1000 gatherDesc with a4 := 1 } 1 == some 0x1000 &&
  dataBad { cmd .gather 0 (0x1000 * 2 ^ 32) gatherDesc with a4 := 1 } 1 == some 0x1000 &&
  dataBad (cmd .iwalk 0 0 gatherDesc) 1 == some 0x40 && dataBad (cmd .iwalk 0 0 3) 1 == some 0x40 &&
  dataBad (cmd .iwalk 0 4 iwDesc) 1 == some 4 && dataBad (cmd .iwalk 0 0 iwDesc) 0 == none &&
  dataBad { cmd .iwalk 0 0 iwDesc with a4 := 1 } 1 == some 8192 && dataBad { cmd .iwalk 0 0 iwDesc with a4 := 1 } 5 == none &&
  dataBad { cmd .iwalk 0 0 iwDesc with a4 := 1 } 4 == some 0) = true := by decide

/-- EngineCommands: the same for the render commands. -/
theorem test_render_checks : (
  let bad := fun (op : EngOp) (a1 a2 : Word) (d : BitVec 512) => renderBad st0.me (cmd op a1 a2 d) 15 1
  let dv := some (cCOPYF, (0x40 : Word))
  [EngOp.rast, .resolve, .rclear, .rmarch].all (fun op => bad op 0 0 (copyDesc 0) == dv) &&
  bad .rast 8 0 targetDesc == some (cCOPYF, 8) && bad .rast 16 0 targetDesc == none &&
  bad .rast 0 0 layerDesc == some (cCOPYF, 0x400) && renderBad st0.me { cmd .rast 0 0 layerDesc with pool := poolDesc } 0 1 == none &&
  renderBad st0.me { cmd .resolve 0 0 targetDesc with md := 16 } 15 1 == dv && bad .resolve 0 0x800 targetDesc == some (cCOPYF, 0x800) &&
  bad .resolve 0 0x1000 targetDesc == some (cCOPYF, 0x4000) && bad .resolve 0 0 targetDesc == none &&
  renderBad st0.me { cmd .rclear 0 0 targetDesc with md := 16 } 0 1 == dv && bad .rclear 0 0 targetDesc == none &&
  renderBad st0.me { cmd .rclear 0 0 layerDesc with md := 16 } 0 1 == some (cCOPYF, 0x400) &&
  bad .rmarch 0x20 1 marchDesc == some (cCOPYF, 0x20) && bad .rmarch 0x4000 1 marchDesc == some (cCOPYF, 0x4000) &&
  bad .rmarch 0 1 marchDesc == none && renderBad st0.me (cmd .rmarch 0 1 marchDesc) 15 0 == some (cRDEPTH, 0) &&
  renderBad { st0.me with ls := memWriteN [] 92 0x100 4 } (cmd .rmarch 0 2 marchDesc) 15 1 == some (cRDEPTH, 0x40)) = true := by decide

/-- EngineCommands: a COPY to a core whose port has no credit waits, and so does the reset of a pool. -/
theorem witness_EngineWaits : (
    (let s := dry (copying 2 1) (corePort 1)
     !s.portOpen (corePort 1) && s.portOpen (enginePort 0) && nextIs (exec (.engineBurst 0 0 0) s) fun t => t.me.eng[0] == s.me.eng[0]) &&
    (let c : Cmd := { cmd .rclear 0 0x10001 layerDesc with md := 16, done := [0], pool := poolDesc }
     let s := dry (engined (held .running 0 0 c) layerDesc) (renderPort (coreDie 0))
     runs s (fun _ x => x.allDone && x.op == .rclear && x.md.getLsbD 4 && !s.portOpen (renderPort (coreDie 0))) &&
       nextIs (exec (.commandComplete 0 0) s) fun t => t.me.eng[0].state == .running)) = true := by decide

/-- The first due of some counts is one of them. -/
theorem leastDue_some (l : List WdogRec) (h : l ≠ []) : ∃ r, leastDue l = some r := by
  cases l with
  | nil => exact absurd rfl h
  | cons x l =>
    cases hl : leastDue l with
    | none => exact ⟨x, by simp [leastDue, hl]⟩
    | some y => exact ⟨if y.due < x.due then y else x, by simp only [leastDue, hl]; split <;> rfl⟩

/-- FiringsAndGangs: a WDOG that comes as the cycles of a step pass, however many they are. -/
theorem witness_WdogPass : late.storeErrs = 0 ∧ late.backErrs = [] ∧ (late.gangs.map (·.gid)).Nodup ∧
    ∃ g r, late.pass.gangOf 1 = some g ∧ g.active = true ∧ 0 < g.limit ∧ late.pass.wdogOf g = some r := by
  refine ⟨by decide, by decide, by decide, (late.gangOf 1).getD probeGang, ?_⟩
  have h : ∃ r, late.pass.wdogOf ((late.gangOf 1).getD probeGang) = some r := by
    apply leastDue_some
    have hm : (0 : CoreId) ∈ ((late.gangOf 1).getD probeGang).byCoreId := by decide
    have hi : (late.pass.issueExpired ((late.gangOf 1).getD probeGang) 0).isSome = true := by
      have hf : (late.pass.core 0).fire.isSome = true := by decide
      have hq : (late.pass.core 0).issueMark = 0 := by decide
      have hl : ((late.gangOf 1).getD probeGang).limit = 1073741824 := by decide
      have ht : late.pass.tick = 1100000000 + Config.elapsed late.steps := rfl
      have hc : (late.pass.core 0).fire.isSome = true ∧
          ((late.gangOf 1).getD probeGang).limit ≤ late.pass.tick - (late.pass.core 0).issueMark := ⟨hf, by rw [hq, hl, ht]; omega⟩
      simp only [State.issueExpired]
      rw [if_pos hc]
      rfl
    obtain ⟨r, hr⟩ := Option.isSome_iff_exists.mp hi
    have : r ∈ late.pass.expiries ((late.gangOf 1).getD probeGang) :=
      List.mem_append_left _ (List.mem_append_left _ (List.mem_filterMap.mpr ⟨0, hm, hr⟩))
    exact List.ne_nil_of_mem this
  obtain ⟨r, hr⟩ := h
  exact ⟨r, by decide, by decide, by decide, hr⟩

/-- FiringsAndGangs: of the counts that have expired the one that reached its limit first, and a ready count; an actor that is ready
and one that is not; two of one priority in the order of the rotation. -/
theorem witness_Expiries : (
    (let s : State := { late with gangs := late.gangs.map fun g => { g with limit := 100, idleMark := 1100000000 } }
     let s := s.setMe { s.me with issueMark := 500, readyMark := s.me.readyMark.set 1 (some 400) }
     (s.gangOf 1).any fun g => decide (g.limit ≤ s.tick - 400) && s.me.readyMark[1] == some 400 &&
       (s.wdogOf g).any fun r => r.faddr == 258 && r.due == 500) &&
    (let s := idle (toks true)
     (s.gangAt s.me).any fun g => (g.readyIn s.me 1).isSome && (g.readyIn s.me 7).isNone &&
       decide (g.qx + g.launch.w ≤ 16) && decide (g.qy + g.launch.h ≤ 8)) &&
    (let s := idleGang fun g => { g with img := { g.img with chans := [], actors := [⟨0, 0, true, none, 0, 0, 1, 1, 0⟩,
       ⟨1, 0, true, none, 0, 0, 1, 1, 0x40⟩, ⟨3, 0, true, none, 0, 0, 1, 1, 0x60⟩, ⟨7, 0, false, none, 0, 0, 1, 1, 0x80⟩] } }
     (s.gangAt s.me).any fun g => (g.pick { s.me with last := s.me.last.set 0 0 }).any (·.1 == 1) &&
       (g.pick { s.me with last := s.me.last.set 0 1 }).any (·.1 == 2) && (g.pick { s.me with last := s.me.last.set 0 3 }).any (·.1 == 0))) =
    true := by decide

/-- A dispatcher's read that waits. -/
def readWaits : Except DispErr (List Byte) → Bool
  | .error .wait => true
  | _ => false
/-- A dispatcher's read that faults. -/
def readFaults : Except DispErr (List Byte) → Bool
  | .error (.fault _ _) => true
  | _ => false

/-- Dispatchers: a take that waits, one that meets an error in the descriptor or in a Cloche way, an image that waits or faults, a
completion that waits; the quads of a restored gang hold no translation. -/
theorem witness_DispatcherWaits : (
    (let s := dry dawnState (slicePort (dawnState.home false 0x40))
     s.takeShut && nextIs (exec .launchTake s) (fun t => t.head == none)) &&
    (let s : State := { dawnState with upsets := [⟨.mem 8, true⟩] }
     !s.takeShut && (s.launchHard s.launchRegions).any (fun x => x.2 == ((1 : Byte), 0x40)) && nextIs (exec .launchTake s) fun t => !t.accepting) &&
    (let s := { dawnState.setSlice 0 { Slice.reset with tuples := [⟨0x40, launchTuple 1 0x200000, 0, 0, some 0, 0⟩] } with
       upsets := [⟨.way 0 0, true⟩] }
     !s.takeShut && (s.launchHard s.launchRegions).any (fun x => x.2 == ((2 : Byte), 0))) &&
    !dawnState.takeShut &&
    (let s := dry (headed none) (slicePort (dawnState.home false 0x401000))
     readWaits (s.dispBytes 1 (0x200000 + 4096) 1) && nextIs (exec .gangPlacement s) fun t => t.gangs.isEmpty && t.head.isSome) &&
    readFaults (dawnState.dispBytes 1 0x400000 1) &&
    (let x : Completion := ⟨5, 0, launchTuple 1 0, 0x200040, 1, false⟩
     let s := dry { dawnState with comps := [x] } (slicePort (dawnState.home false 0x100008))
     s.compShut x && !dawnState.compShut x && nextIs (exec (.completionDeposit 5) s) (fun t => t.comps.length == 1 && t.dropped.isEmpty)) &&
    (let s := (one savedGang).setSlice 0 { Slice.reset with tlb := [probePage] }
     nextIs (exec (.gangRestore 1) s) fun t => (t.slice 0).tlb.isEmpty)) = true := by decide

/-- HostAndManagement: a request that waits for its home's credit; a take that meets an error in a Cloche way; the aperture and a
recall without credit; a line with an uncorrectable error, and the errors that tuples met. -/
theorem witness_HostWaits : (
    (let s := dry (deposited 1) (slicePort 0)
     let z := dry dawnState (slicePort (dawnState.home false 0x40))
     !s.glarikHeld && s.hostWaits (hostAsk 3 0x80) 1 && said (exec (.hostParkedTake (hostAsk 3 0x80) 1) s) [] &&
       z.hostWaits (hostAsk 1 0) 1 && said (exec (.hostDeposit (hostAsk 1 0) 1) z) [] && !dawnState.hostWaits (hostAsk 1 0) 1) &&
    (let s : State := { dawnState.setSlice 0 { Slice.reset with tuples := [⟨0x40, 1, 0, 0, some 0, 0⟩] } with upsets := [⟨.way 0 0, true⟩] }
     !s.hostWaits (hostAsk 3 0x80) 1 && !s.hostHard 0x40 && (s.hostHome (hostAsk 3 0x80) 1).any (fun r =>
       (s.hostKeep r.region r.desc).matchHard r 1 && !(s.hostKeep r.region r.desc).matchHard r 2) &&
       nextIs (exec (.hostParkedTake (hostAsk 3 0x80) 1) s) fun t => !t.accepting) &&
    (let s := dry dawnState (slicePort (dawnState.home false 0x600))
     !s.glarikHeld && !s.memOpen 0x600 1 && s.apertureOk 0x600 1 && said (exec (.hostMemoryRead 0x600 1) s) [] &&
       said (exec (.hostMemoryWrite 0x600 [9]) s) []) && dawnState.memOpen 0x600 1 &&
    (let s := dry dawnState (slicePort (dawnState.home false 0x8000000000))
     !s.memOpen 0x8000000000 128 && nextIs (exec (.hostLineRecall 0x8000000000 [9]) s) fun t => memRead t.mem 0x8000000000 == 0) &&
    (let s : State := { dawnState with upsets := [⟨.mem (0x8000000000 / 8), true⟩] }
     (wordsOf 0x8000000000 128).contains (0x8000000000 / 8) && dawnState.memOpen 0x8000000000 128 &&
       nextIs (exec (.hostLineRecall 0x8000000000 [9]) s) fun t => !t.accepting)) = true := by decide

/-- A RED that window 0 takes: its page's frame is 1 GiB on, the window's range begins there. -/
def redAcc : Access :=
  let p : Page := { probePage with frame := 2 ^ 30 }
  { acc (.red 0 .n64 5) 8 with page := some p, phase := .sent (.phys (2 ^ 30 + 0x40) p) }
/-- Window 0 over 1 GiB from there on, of one participation an epoch. -/
def redWin : Win := { aWin with range := 2 ^ 30, parts := 1 }
/-- `flying` before window 0. -/
def entering (a : Access) : State := { flying a with wins := st0.wins.set 0 redWin }

/-- FabricSteps: a RED enters its window, a FENCE.rel.sys takes part once it has, closes the epoch, and waits until that is done; an
element whose epoch is done is spared by a failure; an image holds an epoch open, and a kill closes it. -/
theorem test_epochs : (
  nextIs (exec (.sliceAccess 7) (entering redAcc)) (fun t => t.wins[0].elems == [⟨⟨2 ^ 30 + 0x40, 0, 5⟩, 1, 0⟩] &&
    t.flight.map (·.window) == [some (0, 0)] && t.mem.isEmpty) &&
  (let s := (entering redAcc).setMe { st0.me with hold := some (.fence false true 4 []) }
   nextIs (exec (.fenceComplete 0) s) (fun t => t.wins[0].count == 0 && t.me.hold == s.me.hold) &&
   nextIs (exec (.sliceAccess 7) s) fun t => nextIs (exec (.fenceComplete 0) t) fun u => u.wins[0].closed == [0] && u.wins[0].epoch == 1 &&
     u.me.hold == some (.fence false true 4 [(0, 0)]) && nextIs (exec (.fenceComplete 0) u) fun v => v.me.hold == u.me.hold) &&
  (let s := ({ st0 with wins := st0.wins.set 0 { redWin with epoch := 1, doneTo := 1 } } : State).setMe
     { st0.me with hold := some (.fence false true 4 [(0, 0)]) }
   meIs (exec (.fenceComplete 0) s) fun k => k.hold == none) &&
  (let a := { farAcc with window := some (0, 0), req := .red 0 .n64 5 }
   let s := fun (n : Nat) => ({ flying a with wins := st0.wins.set 0 { redWin with doneTo := n, epoch := n } } : State)
   nextIs (exec (.linkFailure (.port 1 0)) (s 1)) (fun t => t.flight.length == 1) &&
   nextIs (exec (.linkFailure (.port 1 0)) (s 0)) (fun t => t.flight.isEmpty)) &&
  (let e : WElem := ⟨⟨8, 0, 1⟩, 1, 0⟩
   let s : State := { dying .saved with wins := st0.wins.set 0 { redWin with count := 1 } }
   let s : State := { s with gangs := s.gangs.map fun g => { g with onQuads := false, resends := [(0, e)] } }
   (s.closeEpoch 0).wins[0].epoch == 0 && nextIs (exec (.gangKill 1) s) fun t => t.wins[0].epoch == 1)) = true := by decide

/-- FabricSteps: a RED that a window takes and one that none takes, an epoch that closes and one that does not, the waits of a FENCE. -/
theorem witness_Epochs : (
    (let s := entering redAcc
     s.liveWins == [0] && s.windowFor redAcc (.phys (2 ^ 30 + 0x40) probePage) == some 0 && s.mayPerform redAcc && !s.gone 1 &&
       s.windowFor redAcc (.phys (2 ^ 31) probePage) == none && s.mayEnter redAcc && !s.mayEnter { redAcc with window := some (0, 0) } &&
       s.epochDone (0, 0) == false && ({ s with wins := s.wins.set 0 { redWin with count := 1 } } : State).wins[0].count != 0 &&
       !(s.gangs.any fun g => g.resends.any fun e => e.1 == 0 && e.2.epoch == 0)) &&
    st0.liveWins.isEmpty && (flying (acc (.store 8 0) 8)).flight.all (fun a => a.fire.fid == st0.me.fid && a.req.drains)) = true := by decide

/-! ### Errors, ports and images -/

/-- Exchange, Matrix, RemoteAndBarrier: an edge before the port of the core that sent it; what MMA, MMAS, ACCRD and ACCWR refuse; a BARG
before its port, and two cores that wait in a barrier. -/
theorem witness_PortsAndFormats : (
    (let s := dry haloState (corePort 1)
     !s.portOpen (corePort 1) && haloState.portOpen (corePort 1) && nextIs (exec (.haloEdgeArrival 0 2) s) fun t =>
       t.me.haloPend.length == 1 && t.gangs.map (·.census) == [2]) &&
    trapIs (exec (.mma h0 (ma 0x140A)) (planes 0x820 0 0 0)) cILLFMT 1 && trapIs (exec (.mma h0 (ma 4)) st0) cILLFMT 5 &&
    ok (fun o s => s.me.mmaBad o == some 1) (ma 0x140A) (planes 0x820 0 0 0) && ok (fun o s => s.me.mmaBad o == some 5) (ma 4) st0 &&
    trapIs (exec (.mmas h0 ⟨.a 0, .v 1, .v 31, .v 4, .none, 0, 0x160B⟩) sparse) cILLFMT 2 &&
    ok (fun o s => s.me.mmasBad o == some 2) ⟨.a 0, .v 1, .v 31, .v 4, .none, 0, 0x160B⟩ sparse &&
    ok (fun o s => s.me.mmasBad o == some 5) ⟨.a 0, .v 1, .v 2, .v 4, .none, 0, 0⟩ sparse &&
    trapIs (exec (.accrd h0 ⟨.v 3, .a 0, .imm, .none, .m 7, 0, 12⟩) st0) cILLFMT 0 &&
    ok (fun o s => s.me.accrdBad o == some 5) ⟨.v 3, .a 0, .imm, .none, .m 7, 0, 8⟩ st0 &&
    trapIs (exec (.accwr h0 ⟨.a 0, .v 1, .imm, .none, .m 7, 0, 8⟩) st0) cILLFMT 5 &&
    ok (fun o s => s.me.accwrBad o == some 1) ⟨.a 0, .v 1, .imm, .none, .m 7, 0, 9⟩ st0 &&
    shut.portShut && shut.remoteWrites.isEmpty && (shut.gangAt shut.me).isSome &&
    meIs (exec (.barg h0 ⟨.imm, .none, .none, .none, .none, 1, 0⟩) shut) (fun k => k.pc == 0 && k.hold == none) &&
    (let s := [(0 : CoreId), 1, 2].foldl (fun (s : State) c => s.setCore c { s.core c with hold := some .barrier })
       (gangOn fun g => { g with barCount := some 2, barIn := [(0, 0), (1, 0)] })
     (s.gangOf 1).any fun g => let t := s.barRelease g
       (t.core 0).hold == none && (t.core 1).hold == none && (t.core 2).hold == some .barrier &&
         t.gangs.map (fun g => (g.barCount, g.barIn)) == [(none, [])])) = true := by decide

/-- Values that are finite, and one that is not zero. -/
theorem witness_FiniteValues : (XVal.fin true 3 2 = .fin true 3 2 ∧ (2 : Nat) ≠ 0) ∧ ((-1 : ℚ) * (3 : Nat) / (2 : Nat) ≠ 0) :=
  ⟨⟨rfl, by decide⟩, by norm_num⟩

/-- MaintenanceAndFences, AccessSteps: a CFLUSH with errors and none, a line that a slice may keep and one that none does; a load under a
reduction that a window took; a superblock that migrates with an error in it. -/
theorem witness_LinesAndErrors : (
    (let a := acc (.flush 8 false) 0
     st0.tlbFind 0 1 0x40 == some probePage && decide ((0x40 : Nat) < 2 ^ 56) && a.req == .flush 8 false && !probePage.fill &&
       probePage.cache && paPkg 0x40 == st0.pkg.toNat && !st0.hardAt ((wordsOf 0x40 128).map .mem) &&
       ({ st0 with upsets := [⟨.mem 9, true⟩] } : State).hardAt ((wordsOf 0x40 128).map .mem) &&
       ((st0.setMe { st0.me with tlb := [{ probePage with cache := false }] }).tlbFind 0 1 0x40).any (fun p => !p.cache) &&
       ok (fun _ s => s.upsets.length == 1) ⟨.s 2, .s 3, .none, .none, .none, 0, 0⟩ { regs 0x40 8 with upsets := [⟨.mem 9, true⟩] }) &&
    (let s := entering redAcc
     nextIs (exec (.sliceAccess 7) s) fun t =>
       let a := { acc (.load (.s 1) .n64 false) 8 with
         id := 8, va := 0x100040, page := some { probePage with base := 0x100000, frame := 2 ^ 30 } }
       let u := t.setMe { t.me with l1 := [⟨1, 0x100000, false, 5⟩] }
       a.page.any (·.inL1) && (u.fillL1 a false).me.l1.isEmpty && t.flight.any fun x => x.core == a.core && x.window.isSome &&
         x.page.any fun p => (p.frame + (x.va.toNat - p.base)) / 128 == (2 ^ 30 + (0x100000 - 0x100000)) / 128) &&
    (let s : State := { st0 with movCount := [(3, 1, 4)], upsets := [⟨.mem 200, true⟩, ⟨.mem 201, false⟩] }
     s.dueCount (3, 1, 4) && s.memOpen (512 * 3) 512 && (s.memHome (512 * 3)).isSome &&
       nextIs (exec (.superblockMigration 3 1) s) fun t => t.upsets == [⟨.mem 200, true⟩] && t.backErrs.map (·.2) == [200] &&
         t.moved.map (·.1) == [3]) &&
    (let s : State := { dawnState with backErrs := [(0, 200)] }
     s.flight.isEmpty && !s.backErrs.isEmpty && !s.advance.accepting)) = true := by decide

/-- ClocheSteps, MittenAndScrub, FiringsAndGangs: a TAKEP that finds its tuple; a command that has begun keeps its ways; a gang with an
order may reach Dusk; a head command whose work is done does not keep its gang busy. -/
theorem witness_ClocheAndMitten : (
    nextIs (exec (.clocheMatchArrival 7) (homed (.takep 5 0x80 ⟨0, 0, 0⟩) fun z => { z with tuples := [⟨0x40, 5, 0, 0, none, 0⟩] }))
      (fun t => (t.slice 0).tuples.isEmpty && (t.slice 0).parked.map (·.got) == [some 5] && t.flight.map (·.phase) == [.done 1 0]) &&
    (let s := mit [{ mcmd .mxout false none with began := some 0, cnt := 1, ways := [0] }] [⟨.way 0 0, false⟩]
     (s.gangOf 1).any fun g => g.active && (s.badRow 0 [0] 0 8).isSome && s.portOpen (slicePort 0)) &&
    (let c := { mcmd .mxout false none with began := some 0, cnt := 2, cursor := 1, ways := [1] }
     let s := mit [c] []
     (s.gangOf 1).any fun g => ran (s.mittenRun g c 0) && g.mitten (s.resvAt 0) != c.ways &&
       nextIs (exec (.mittenCommandStart 0) s) fun t => (t.slice 0).mcmds.map (·.ways) == [[1]]) &&
    (quietGang fun g => { g with order := some (.save 0) }).gangs.any (fun g => g.doom == none && g.order.isSome &&
      g.steps.contains (.dusk 1) && g.steps.contains (.gangRetire 1)) &&
    (quietGang id).gangs.any (fun g => g.phase == .resident && g.steps.contains (.dusk 1)) &&
    nextIs (exec (.dusk 1) (quietGang fun g => { g with order := some (.save 0) })) (fun t => t.gangs.map (·.phase) == [.dusk]) &&
    (let s := mit [mcmd .mxpose true none] []
     (s.gangOf 1).any fun g => !s.gangBusy g) &&
    (let s := mit [mcmd .mxpose false none] []
     (s.gangOf 1).any fun g => s.gangBusy g && (s.slice 0).mcmds.map (·.gang) == [g.gid])) = true := by decide

/-- A saved gang of one quad with way 13 a Mitten way, while the image of another stands in slice 0. -/
def beside : State :=
  let s := one fun g => savedGang { g with ways := 2 ^ 26, resvs := [0] }
  { s with resv := 0, gangs := s.gangs.map (fun g => { g with image := [5] }) ++ [{ savedGang probeGang with gid := 2 }] }

/-- Dispatchers: an origin that keeps the ways of a saved gang and one that does not; an image with an uncorrectable error; what a
completion meets. -/
theorem witness_Images : (
    (beside.gangOf 1).any (fun g => g.phase == .saved && g.doom == none && !beside.keepsWays g (0, 0) && beside.keepsWays g (1, 0) &&
      beside.originFor beside.held g == some (1, 0) && (beside.originFor [⟨7, 0, 0, 16, 8⟩] g).isNone &&
      beside.accepting && beside.quiet && !beside.restoreHeld g && g.resvs[0]? == some 0 && decide (13 < 16 - 0)) &&
    nextIs (exec (.gangRestore 1) beside) (fun t => (t.gangOf 1).any fun g => (g.qx, g.qy, g.onQuads) == (1, 0, true)) &&
    (let s := { one savedGang with upsets := [⟨.way 0 (13 * 131072), true⟩] }
     (s.gangOf 1).any (fun g => g.image.contains 0 && decide (13 ≤ (13 * 131072) * 8 / 2 ^ 20) && s.keepsWays g (g.qx, g.qy) &&
       !s.held.any (·.meets (g.qx, g.qy) g.launch.w g.launch.h) && !s.restoreHeld g && s.accepting && s.quiet) &&
     nextIs (exec (.gangRestore 1) s) (fun t => t.gangs.any fun g => g.doom.any (·.cause == cECCU)) &&
     nextIs (exec (.saveImageMove 1 [9]) s) fun t => t.gangs.any fun g => g.doom.any (·.cause == cECCU)) &&
    (let x : Completion := ⟨5, 0, launchTuple 1 0, 0x200040, 1, false⟩
     let s : State := { dawnState with comps := [x], upsets := [⟨.mem (0x100008 / 8), false⟩] }
     (s.compMeets x).upsets.isEmpty && nextIs (exec (.completionDeposit 5) s) fun t => t.upsets.isEmpty) &&
    (let b : Batch := ⟨4, 0, [⟨8, 0, 12⟩]⟩
     b.shares.all fun y => !(windowed { aWin with home := [b] }).hardAt ((windowed aWin).writeSites y.key y.addr 1))) = true := by decide

/-! ### Rounding, waits at ports and errors on the way -/

/-- Round into FP16 of 1 + 1/2048 and 1 + 3/2048, which lie halfway: each mode, both signs, and the draws on each side of the
step; the halfway value below the least subnormal, and a flush; E4M3 and E2M1 beyond their greatest; −0.125 in E2M1. -/
theorem test_round_neighbours : (
  let r := fun (f : FFmt) (m : Rnd) (neg : Bool) (n d : Nat) => f.round false false m 0 (.fin neg n d)
  r fmt16 .rne false 2049 2048 == (0x3C00, 16) && r fmt16 .rne false 2051 2048 == (0x3C02, 16) &&
  r fmt16 .rna false 2049 2048 == (0x3C01, 16) && r fmt16 .rz true 2051 2048 == (0xBC01, 16) &&
  r fmt16 .ru false 2049 2048 == (0x3C01, 16) && r fmt16 .ru true 2049 2048 == (0xBC00, 16) &&
  r fmt16 .rd true 2049 2048 == (0xBC01, 16) && r fmt16 .rd false 2049 2048 == (0x3C00, 16) &&
  fmt16.round false false .sr 32768 (.fin false 2049 2048) == (0x3C01, 16) &&
  fmt16.round false false .sr 32767 (.fin false 2049 2048) == (0x3C00, 16) &&
  r fmt16 .rne false 1 (2 ^ 25) == (0, 24) && r fmt16 .ru false 1 (2 ^ 25) == (1, 24) && r fmt16 .rne true 1 (2 ^ 15) == (0x8200, 0) &&
  fmt16.round false true .rne 0 (.fin true 1 (2 ^ 15)) == (0x8000, 24) &&
  r fmtE4M3 .rne true 500 1 == (0x7F, 20) && fmtE4M3.round true false .rne 0 (.fin true 500 1) == (0xFE, 20) &&
  r fmtE2M1 .rne true 7 1 == (0xF, 20) && r fmtE2M1 .rne true 1 8 == (0, 24) && r fmt32 .ru true (2 ^ 200) 1 == (0xFF7FFFFF, 20) &&
  r fmt32 .rd true (2 ^ 200) 1 == (0xFF800000, 20)) = true := by decide

/-- RoundingKeepsRepresentable: the grid of FP16 at 1 + 1/2048, with a neighbour for each mode; a value below the least normal one, and
one beyond the greatest; a value under the grid of an integer; sums that vanish and do not. -/
theorem witness_RoundingGrid :
    (2049 * 2 ^ 10 < 2 ^ 11 * 2048 ∧ 2 ^ 10 * 2048 ≤ 2049 * 2 ^ 10 ∧ (-14 : Int) ≤ 0 ∧ fmt16 ∈ [fmt32, fmt16, fmtB16] ∧
      (2 * 1024 * 2048 ≤ 2 * (2049 * 2 ^ 10) + 2048 ∧ 2 * (2049 * 2 ^ 10) ≤ (2 * 1024 + 1) * 2048 ∧ 1024 % 2 = 0) ∧
      (1024 * 2048 ≤ 2049 * 2 ^ 10 ∧ 2049 * 2 ^ 10 < 1025 * 2048) ∧ (2049 * 2 ^ 10 ≤ 1025 * 2048 ∧ 1025 * 2048 < 2049 * 2 ^ 10 + 2048) ∧
      65536 * 1025 * 2048 ≤ 65536 * (2049 * 2 ^ 10) + 32768 * 2048) ∧
    (1 * 2 ^ 24 < 2 ^ 11 * 2 ^ 15 ∧ 512 * 2 ^ 15 = 1 * 2 ^ 24 ∧ (512 : Nat) ≠ 0 ∧ 512 < 2 ^ 10) ∧
    (XVal.dyadic false 8 6).cmp (fmtE4M3.decode fmtE4M3.largest) = .gt ∧ Ty.isInt .s8 = true ∧ Ty.ffmt .f16 = some fmt16 ∧
    Ty.ffmt .s8 = none ∧ (1 : Int) * (3 * 4 : Nat) + -1 * (6 * 2 : Nat) = 0 ∧ (1 : Int) * (3 * 4 : Nat) + (1 : Int) * (6 * 2 : Nat) ≠ 0 := by
  decide

/-- ChannelResults: STEER and MERGE over a set with a port that is not declared; RECV, PEEK and MERGE before a port without
credit. -/
theorem witness_ChannelPorts : (
    (let s := net 0 (toks true)
     let o : Ops := ⟨.c 0, .s 2, .imm, .none, .none, 9, 3⟩
     (portSet o.o0 o).contains 3 && (s.outPort 3).isNone && (portSet o.o0 o).all (fun q => decide (3 ≤ q) || (s.outPort q).isSome) &&
       s.clear h0 && trapIs (exec (.steer h0 o) s) cCHAN 3) &&
    (let s := net 2 (toks true)
     let o : Ops := ⟨.s 1, .s 2, .c 7, .none, .none, 0, 2⟩
     (portSet o.o2 o).contains 7 && (portSet o.o2 o).all (fun q => decide (7 ≤ q)) && trapIs (exec (.merge h0 o) s) cCHAN 7) &&
    (let s := net 2 (toks true)
     let o : Ops := ⟨.s 1, .s 2, .c 8, .none, .none, 0, 2⟩
     (portSet o.o2 o).contains 10 && (s.inPort 10).isNone && trapIs (exec (.merge h0 o) s) cCHAN 10) &&
    (let s := dry (net 1 (toks true)) (corePort 0)
     s.portShut && (s.inPort 0).isSome && meIs (exec (.recv h0 ⟨.s 1, .c 0, .none, .none, .none, 0, 0⟩) s) (fun k => k.pc == 0) &&
       meIs (exec (.peek h0 ⟨.s 1, .p 1, .c 0, .none, .none, 0, 0⟩) s) fun k => k.pc == 0) &&
    (let s := dry (net 2 (toks true)) (corePort 0)
     s.portShut && meIs (exec (.merge h0 ⟨.s 1, .s 2, .c 8, .none, .none, 0, 1⟩) s) fun k => k.pc == 0)) = true := by decide

/-- GlobalIssue, MaintenanceAndFences: CFLUSH ignores a line of the slice window, with an error anywhere; DSCINV beyond its core and
TLBI wait before a port without credit, DSCINV of its core does not; an acquire alone at .sys completes. -/
theorem witness_MaintenanceWaits : (
    (let s : State := { regs 0x00FFFF8000000000 8 with upsets := [⟨.mem 9, true⟩] }
     inWindow 0x00FFFF8000000000 && nextIs (exec (.cflush h0 ⟨.s 2, .s 3, .none, .none, .none, 0, 0⟩) s) fun t =>
       t.upsets.length == 1 && t.gangs.all (·.doom == none) && t.me.pc == 16) &&
    shut.portShut && shut.ready h0 (o0 .none 0 3) &&
    meIs (exec (.dscinv h0 ⟨.s 2, .s 3, .none, .none, .none, 0, 3⟩) shut) (fun k => k.pc == 0) &&
    meIs (exec (.dscinv h0 ⟨.s 2, .s 3, .none, .none, .none, 0, 0⟩) shut) (fun k => k.pc == 16) &&
    (let s : State := { shut with gangs := shut.gangs.map fun g => { g with launch := { g.launch with sys := true } } }
     s.right (·.sys) && meIs (exec (.tlbi h0 ⟨.s 2, .s 3, .s 3, .none, .none, 0, 3⟩) s) fun k => k.pc == 0) &&
    (let s := lined.setMe { lined.me with hold := some (.fence true false 4 []) }
     meIs (exec (.fenceComplete 0) s) fun k => k.hold == none && k.heldFlags == 16 && k.l1.map (·.va) == [128])) = true := by decide

/-- AccessSteps: an access beyond 2^56 and a Cloche request in the slice window; an uncorrectable error at the home, with a single-bit
one beside it. -/
theorem witness_AccessErrors : (
    st0.target { acc (.store 8 0) 8 with va := 0x0100000000000000 } == .error ⟨cXLATE, none⟩ &&
    st0.target { acc (.cloche (.p 1) (.take 5 0) dsc) 64 with va := 0x00FFFF8000000000 } == .error ⟨cCLOCHE, none⟩ &&
    (let a := acc (.load (.s 1) .n64 false) 16
     let s : State := { flying a with upsets := [⟨.mem 8, true⟩, ⟨.mem 9, false⟩] }
     decide (0x40 % 128 + a.n ≤ 128) && (wordsOf 0x40 a.n).contains 8 && s.mayPerform a && !s.gone a.gang &&
       s.placeOpen (.phys 0x40 probePage) && (s.windowFor a (.phys 0x40 probePage)).isNone &&
       nextIs (exec (.sliceAccess 7) s) fun t => t.upsets == [⟨.mem 8, true⟩] && t.flight.isEmpty &&
         t.gangs.any fun g => g.doom.any (·.cause == cECCU))) = true := by decide

/-- ClocheSteps, FiringsAndGangs: a parked take is satisfied by a deposit, and its gang's idle count begins anew; a request that has its
tuple keeps its gang busy no more. -/
theorem witness_ServedRequests : (
    (let s := homed (.dep 5) fun z => { z with parked := [parkedTake none (.core 1 0 0 none 0x90)] }
     let s : State := { s with tick := 77 }
     (s.gangOf 1).any (fun g => s.gangBusy g && g.idleMark == 0) &&
       nextIs (exec (.clocheDepositArrival 7) s) fun t => (t.slice 0).parked.map (·.got) == [some 5] && (t.gangOf 1).any fun g =>
         g.idleMark == 77 && !t.gangBusy g)) = true := by decide

/-- Dispatchers: a save that waits for its slice's port, a restore and an image that wait for theirs; a take whose tuple under the new
settings has an image that waits, and which leaves it in its home. -/
theorem witness_SaveWaits : (
    (let s := dry (one fun g => { g with order := some (.save 0) }) (slicePort 0)
     (s.gangOf 1).any (fun g => s.gangDrained g && !s.duskReady g && !s.retires g && g.slices.any fun q => !s.portOpen (slicePort q)) &&
       nextIs (exec (.gangPreempt 1) s) fun t => t.gangs.map (·.phase) == [.resident]) &&
    (let s := dry (one fun g => { g with order := some (.move 1 0 0) }) (corePort 0)
     (s.gangOf 1).any (fun g => g.phase != .saved && g.coreIds.any fun c => !s.portOpen (corePort c)) &&
       nextIs (exec (.gangMove 1) s) fun t => t.gangs.map (fun g => (g.phase, g.qx)) == [(.resident, 0)]) &&
    (let s := dry (one savedGang) (slicePort 0)
     (s.gangOf 1).any (fun g => g.image.any fun q => !s.portOpen (slicePort q)) &&
       nextIs (exec (.gangRestore 1) s) (fun t => t.gangs.map (·.onQuads) == [false]) &&
       nextIs (exec (.saveImageMove 1 [9]) s) fun t => t.gangs.map (·.image) == [[0]]) &&
    (let s := dry (deposited (launchTuple 1 0x200000)) (slicePort (dawnState.home false 0x400000))
     s.withSettings.takeShut && nextIs (exec .launchTake s) fun t => t.head == none && (t.slice 0).tuples.length == 1)) = true := by
  decide

/-- Dispatchers, HostAndManagement: an image is read with a single-bit error and an uncorrectable one; the host names a region whose
block its cache has not, and a malformed one, the single-bit error of the block being corrected; a merge of a window meets both kinds. -/
theorem witness_ErrorsCorrected : (
    (let s := { one savedGang with upsets := [⟨.way 0 (13 * 131072), true⟩, ⟨.way 0 (13 * 131072 + 1), false⟩] }
     (s.gangOf 1).any (fun g => (s.imageRead g).upsets.length == 1) &&
       nextIs (exec (.gangRestore 1) s) fun t => t.upsets.length == 1) &&
    (let s : State := { dawnState with upsets := [⟨.mem 8, false⟩] }
     (s.hostMeets 0x40).upsets.isEmpty && s.hdescs.isEmpty &&
       nextIs (exec (.hostDeposit (hostAsk 1 0) 1) s) fun t => t.upsets.isEmpty && t.hdescs.length == 1) &&
    (let s : State := { dawnState with mem := imageMem, upsets := [⟨.mem 8, false⟩] }
     (s.hostHome (hostAsk 1 0) 1).isNone && !s.hostHard 0x40 && nextIs (exec (.hostBadRequest (hostAsk 1 0) 1) s) fun t =>
       t.upsets.isEmpty && t.hostOut == [.answer 4 7]) &&
    (let s : State := { dawnState with upsets := [⟨.mem 0xC0, true⟩, ⟨.mem 0xC1, false⟩] }
     nextIs (exec (.hostMemoryRead 0x600 16) s) fun t => t.upsets == [⟨.mem 0xC0, true⟩] && !t.accepting) &&
    (let b : Batch := ⟨4, 0, [⟨8, 0, 12⟩]⟩
     let s : State := { windowed { aWin with home := [b] } with upsets := [⟨.mem 1, true⟩] }
     s.hardAt [.mem 1] && nextIs (exec (.windowHomeMerge 0) s) fun t => !t.accepting)) = true := by decide

end Sys2Proof.Tests
end

section
/-!
PROOF. What a core reads at reset (R27, R10).
-/

namespace Sys2Proof.Machine

open Sys2Proof

/-! ### Registers other than the constant ones (R10) -/

theorem Core.getS_of_ne (k : Core) {i : Fin 32} (h : i ≠ 31) : k.getS i = k.s[i] := if_neg h
theorem Core.getP_of_ne (k : Core) {i : Fin 8} (h : i ≠ 7) : k.getP i = k.p[i] := if_neg h
theorem Core.getM_of_ne (k : Core) {i : Fin 8} (h : i ≠ 7) : k.getM i = k.m[i] := if_neg h

/-! ### Tiles and modes -/

/-- A core none of whose slots has a tile owns every tile itself (R21, R312). -/
theorem Core.tiles_eq_zero {k : Core} (h : ∀ e ∈ k.eng, e.pending = 0 ∧ e.held = 0) : k.tiles = 0 := by
  have hlist : k.eng.toList.foldl (fun acc e => acc ||| e.pending ||| e.held) (0 : BitVec 128) = 0 := by
    refine List.foldlRecOn (motive := (· = 0)) _ _ rfl fun acc hacc e he => ?_
    obtain ⟨hp, hh⟩ := h e (Vector.mem_toList_iff.mp he)
    simp [hacc, hp, hh]
  rwa [Vector.foldl_toList] at hlist

/-- fpmode zero is RNE for scalar and plane operations, and no flush to zero (R27, R31, R67). -/
theorem Core.modes_of_fpmode_zero {k : Core} (h : k.fpmode = 0) :
    k.scalarMode = .rne ∧ k.planeMode = .rne ∧ k.ftz = false := by
  simp [Core.scalarMode, Core.planeMode, Core.ftz, h, rndOfCode]

/-! ### The core at reset -/

theorem Core.reset_getS (i : Fin 32) : Core.reset.getS i = 0 := by
  by_cases h : i = 31
  · subst h; exact Core.getS_31 _
  · simp [Core.getS_of_ne _ h, Core.reset]

theorem Core.reset_getP {i : Fin 8} (h : i ≠ 7) : Core.reset.getP i = false := by
  have hv : (7 : Nat) ≠ i := fun hi => h (Fin.ext hi.symm)
  simp [Core.getP_of_ne _ h, Core.reset, Vector.getElem_set_ne, hv]

theorem Core.reset_getM {i : Fin 8} (h : i ≠ 7) : Core.reset.getM i = 0 := by
  have hv : (7 : Nat) ≠ i := fun hi => h (Fin.ext hi.symm)
  simp [Core.getM_of_ne _ h, Core.reset, Vector.getElem_set_ne, hv]

theorem Core.reset_plane (i : Fin 32) :
    Core.reset.v[i] = 0 ∧ Core.reset.strip[i] = 0 ∧ Core.reset.shp[i] = 0 := by
  simp [Core.reset]

theorem Core.reset_acc (i : Fin 4) : Core.reset.acc[i] = 0 := by simp [Core.reset]

theorem Core.reset_getK (b : Fin 8) (i : Fin 16) : Core.reset.getK b i = 0 := by
  simp [Core.getK, Core.reset]

theorem Core.reset_loop (i : Fin 4) : Core.reset.lc[i] = 0 ∧ Core.reset.lcl[i] = 0 := by
  simp [Core.reset]

/-- Every slot is free at reset, so no tile is engine-owned. -/
theorem Core.reset_tiles : Core.reset.tiles = 0 := by
  refine Core.tiles_eq_zero fun e he => ?_
  obtain ⟨-, rfl⟩ := Vector.mem_replicate.mp he
  exact ⟨rfl, rfl⟩

end Sys2Proof.Machine

namespace Sys2Proof

open Sys2Proof.Machine

/-- Settles O4: the constant registers read by R10, every other register by the vector that reset fills, the tiles from the
free slots, and the modes from fpmode zero. -/
theorem coreAtReset : Obligations.CoreAtReset := by
  obtain ⟨hscalar, hplane, hftz⟩ := Core.modes_of_fpmode_zero (k := Core.reset) rfl
  exact ⟨Core.reset_getS, fun _ => Core.reset_getP, Core.getP_7 _, fun _ => Core.reset_getM, Core.getM_7 _, Core.reset_plane,
    Core.reset_acc, Core.reset_getK, Core.reset_tiles, Core.reset_loop, rfl, hscalar, hplane, hftz, rfl, rfl, rfl, rfl, rfl⟩

end Sys2Proof
end

section
/-!
PROOF. The integer types: the values read in them, the numbers that they hold, quotients and shifts in a type (R74, R76,
R99, R103, R104).
-/

namespace Sys2Proof

/-! ### The values of a type (R74, R76, R99) -/

theorem Ty.width_pos (t : Ty) : 0 < t.width := by cases t <;> decide

/-- The number of values of a type, in halves. -/
theorem Ty.two_pow_width (t : Ty) : (2 : Int) ^ t.width = 2 * 2 ^ (t.width - 1) :=
  (mul_pow_sub_one t.width_pos.ne' 2).symm

theorem natCast_wrapI (w : Nat) (x : Int) : (wrapI w x : Int) = x % 2 ^ w :=
  Int.toNat_of_nonneg (Int.emod_nonneg _ (by positivity))

theorem wrapI_lt (w : Nat) (x : Int) : wrapI w x < 2 ^ w := by
  have h := Int.emod_lt_of_pos x (show (0 : Int) < 2 ^ w by positivity)
  rw [← natCast_wrapI] at h
  exact_mod_cast h

/-- Two's complement is the balanced remainder (R74). -/
theorem signedOf_eq_bmod {w x : Nat} (hw : 0 < w) (hx : x < 2 ^ w) : signedOf w x = (x : Int).bmod (2 ^ w) := by
  have hv := BitVec.toInt_eq_msb_cond (BitVec.ofNat w x)
  rw [BitVec.toInt_ofNat', BitVec.msb_eq_getLsbD_last, BitVec.getLsbD_ofNat, BitVec.toNat_ofNat, Nat.mod_eq_of_lt hx] at hv
  simp [signedOf, hv, hw]

theorem signedOf_bounds {w x : Nat} (hw : 0 < w) (hx : x < 2 ^ w) :
    -2 ^ (w - 1) ≤ signedOf w x ∧ signedOf w x < 2 ^ (w - 1) := by
  have hpos : (0 : Int) < 2 ^ w := by positivity
  have hhalf : (2 : Int) ^ w = 2 * 2 ^ (w - 1) := (mul_pow_sub_one hw.ne' 2).symm
  have hlo := Int.le_bmod (x := x) (m := 2 ^ w) (by positivity)
  have hhi := Int.bmod_lt (x := x) (m := 2 ^ w) (by positivity)
  rw [signedOf_eq_bmod hw hx]
  push_cast at hlo hhi
  omega

theorem Ty.val_of_signed {t : Ty} (h : t.isSigned = true) (x : Nat) : t.val x = (x : Int).bmod (2 ^ t.width) := by
  rw [Ty.val, if_pos h, signedOf_eq_bmod t.width_pos (Nat.mod_lt _ (by positivity))]
  rw [Int.natCast_mod]
  exact Int.emod_bmod ..

theorem Ty.val_of_unsigned {t : Ty} (h : t.isSigned = false) (x : Nat) : t.val x = ((x % 2 ^ t.width : Nat) : Int) := by
  simp [Ty.val, h]

@[simp] theorem Ty.val_zero (t : Ty) : t.val 0 = 0 := by
  cases h : t.isSigned
  · simp [Ty.val_of_unsigned h]
  · simp [Ty.val_of_signed h]

/-! ### The numbers that a type holds (R74) -/

/-- Does the type hold the number: does it lie from the least value to the greatest? -/
def Ty.Holds (t : Ty) (n : Int) : Prop := t.minI ≤ n ∧ n ≤ t.maxI

theorem Ty.holds_of_signed {t : Ty} (h : t.isSigned = true) {n : Int} :
    t.Holds n ↔ -2 ^ (t.width - 1) ≤ n ∧ n < 2 ^ (t.width - 1) := by
  simp only [Ty.Holds, Ty.minI, Ty.maxI, h, if_true]
  omega

theorem Ty.holds_of_unsigned {t : Ty} (h : t.isSigned = false) {n : Int} : t.Holds n ↔ 0 ≤ n ∧ n < 2 ^ t.width := by
  simp only [Ty.Holds, Ty.minI, Ty.maxI, h, Bool.false_eq_true, if_false]
  omega

theorem Ty.minI_nonpos (t : Ty) : t.minI ≤ 0 := by
  have := pow_pos (two_pos : (0 : Int) < 2) (t.width - 1)
  unfold Ty.minI; split <;> omega

theorem Ty.maxI_nonneg (t : Ty) : 0 ≤ t.maxI := by
  have := pow_pos (two_pos : (0 : Int) < 2) (t.width - 1)
  have := t.two_pow_width
  unfold Ty.maxI; split <;> omega

theorem Ty.neg_two_pow_le_minI (t : Ty) : -2 ^ t.width ≤ t.minI := by
  have := pow_pos (two_pos : (0 : Int) < 2) (t.width - 1)
  have := t.two_pow_width
  unfold Ty.minI; split <;> omega

theorem Ty.maxI_lt_two_pow (t : Ty) : t.maxI < 2 ^ t.width := by
  have := pow_pos (two_pos : (0 : Int) < 2) (t.width - 1)
  have := t.two_pow_width
  unfold Ty.maxI; split <;> omega

/-- A type that holds a number holds every number between it and zero. -/
theorem Ty.Holds.of_between {t : Ty} {a n : Int} (ha : t.Holds a) (h : 0 ≤ n ∧ n ≤ a ∨ a ≤ n ∧ n ≤ 0) : t.Holds n := by
  obtain ⟨hlo, hhi⟩ := ha
  have := t.minI_nonpos
  have := t.maxI_nonneg
  constructor <;> omega

theorem Ty.holds_zero (t : Ty) : t.Holds 0 := ⟨t.minI_nonpos, t.maxI_nonneg⟩

theorem Ty.holds_minI (t : Ty) : t.Holds t.minI := ⟨le_rfl, t.minI_nonpos.trans t.maxI_nonneg⟩

theorem Ty.holds_maxI (t : Ty) : t.Holds t.maxI := ⟨t.minI_nonpos.trans t.maxI_nonneg, le_rfl⟩

/-- What is read in a type is a number that the type holds. -/
theorem Ty.holds_val (t : Ty) (x : Nat) : t.Holds (t.val x) := by
  have hx : x % 2 ^ t.width < 2 ^ t.width := Nat.mod_lt _ (by positivity)
  cases h : t.isSigned
  · rw [Ty.holds_of_unsigned h, Ty.val_of_unsigned h]
    exact ⟨by positivity, by exact_mod_cast hx⟩
  · rw [Ty.holds_of_signed h, Ty.val, if_pos h]
    exact signedOf_bounds t.width_pos hx

/-- A number that the type holds reads back from its low bits. -/
theorem Ty.Holds.val_wrapI {t : Ty} {n : Int} (hn : t.Holds n) : t.val (wrapI t.width n) = n := by
  cases h : t.isSigned
  · obtain ⟨hlo, hhi⟩ := (Ty.holds_of_unsigned h).1 hn
    rw [Ty.val_of_unsigned h, Nat.mod_eq_of_lt (wrapI_lt ..), natCast_wrapI, Int.emod_eq_of_lt hlo hhi]
  · obtain ⟨hlo, hhi⟩ := (Ty.holds_of_signed h).1 hn
    have hhalf := t.two_pow_width
    have hmod : n.bmod (2 ^ t.width) = n := Int.bmod_eq_of_le (by push_cast; omega) (by push_cast; omega)
    have hcast := Int.emod_bmod (x := n) (n := 2 ^ t.width)
    push_cast at hcast
    rw [Ty.val_of_signed h, natCast_wrapI, hcast, hmod]

/-- Reduction leaves a number that the type holds, with sat and without. -/
theorem Ty.Holds.reduce {t : Ty} {n : Int} (hn : t.Holds n) (sat : Bool) : t.reduce sat n = n := by
  cases sat
  · exact hn.val_wrapI
  · simp [Ty.reduce, Ty.clampI, hn.1, hn.2]

/-- The low bits of a number do not change with a multiple of the number of values. -/
theorem wrapI_add_two_pow (w : Nat) (n : Int) : wrapI w (n + 2 ^ w) = wrapI w n := by simp [wrapI]

theorem wrapI_mul_two_pow {w c : Nat} (h : w ≤ c) (a : Int) : wrapI w (a * 2 ^ c) = 0 := by
  have hd : (2 : Int) ^ w ∣ a * 2 ^ c := (pow_dvd_pow 2 h).mul_left a
  simp [wrapI, Int.emod_eq_zero_of_dvd hd]

/-! ### Division in a type (R103) -/

/-- The one quotient that its type does not hold reduces to the least value. -/
theorem Ty.reduce_neg_minI {t : Ty} (h : t.isSigned = true) : t.reduce false (-t.minI) = t.minI := by
  have hper : -t.minI = t.minI + 2 ^ t.width := by simp only [Ty.minI, h, if_true, t.two_pow_width]; ring
  show t.val (wrapI t.width (-t.minI)) = t.minI
  rw [hper, wrapI_add_two_pow, t.holds_minI.val_wrapI]

/-- Only division by −1 takes a number other than zero to its opposite. -/
theorem eq_neg_one_of_tdiv_eq_neg {a b : Int} (ha : a ≠ 0) (h : a.tdiv b = -a) : b = -1 := by
  have habs := Int.natAbs_tdiv a b
  rw [h, Int.natAbs_neg] at habs
  have hb : b.natAbs = 1 := (Nat.div_eq_self.1 habs.symm).resolve_left (by omega)
  have hone : b ≠ 1 := by
    rintro rfl
    rw [Int.tdiv_one] at h
    omega
  omega

/-- The type of two numbers holds their quotient but in the one corner of R103. -/
theorem Ty.Holds.tdiv {t : Ty} {a b : Int} (ha : t.Holds a) (hb : t.Holds b)
    (hc : ¬(t.isSigned = true ∧ a = t.minI ∧ b = -1)) : t.Holds (a.tdiv b) := by
  cases h : t.isSigned
  · obtain ⟨ha0, -⟩ := (Ty.holds_of_unsigned h).1 ha
    obtain ⟨hb0, -⟩ := (Ty.holds_of_unsigned h).1 hb
    exact ha.of_between (.inl ⟨Int.tdiv_nonneg ha0 hb0, Int.tdiv_le_self b ha0⟩)
  · have hle := Int.natAbs_tdiv_le_natAbs a b
    have hmin : t.minI = -2 ^ (t.width - 1) := by simp [Ty.minI, h]
    have hpos := pow_pos (two_pos : (0 : Int) < 2) (t.width - 1)
    obtain ⟨hlo, hhi⟩ := (Ty.holds_of_signed h).1 ha
    have hne : ¬(a = -2 ^ (t.width - 1) ∧ a.tdiv b = -a) := fun ⟨hamin, hneg⟩ =>
      hc ⟨h, hamin.trans hmin.symm, eq_neg_one_of_tdiv_eq_neg (by omega) hneg⟩
    rw [Ty.holds_of_signed h]
    omega

/-- The remainder lies between zero and the dividend. -/
theorem Ty.Holds.tmod {t : Ty} {a : Int} (ha : t.Holds a) (b : Int) : t.Holds (a.tmod b) := by
  have hle : (a.tmod b).natAbs ≤ a.natAbs := (Int.natAbs_tmod a b).trans_le (Nat.mod_le ..)
  rcases le_total 0 a with h | h
  · have := Int.tmod_nonneg b h
    exact ha.of_between (.inl (by omega))
  · have := Int.tmod_nonneg b (neg_nonneg.2 h)
    rw [Int.neg_tmod] at this
    exact ha.of_between (.inr (by omega))

/-! ### Numbers beyond a type's range, and shifts of its whole width (R74, R104) -/

theorem Ty.clampI_of_maxI_le {t : Ty} {n : Int} (h : t.maxI ≤ n) : t.clampI n = t.maxI := by
  have := t.holds_maxI.1
  simp only [Ty.clampI]; omega

theorem Ty.clampI_of_le_minI {t : Ty} {n : Int} (h : n ≤ t.minI) : t.clampI n = t.minI := by
  have := t.holds_minI.2
  simp only [Ty.clampI]; omega

/-- A shift by the width or more clamps by the sign alone. -/
theorem Ty.clampI_mul_two_pow {t : Ty} {c : Nat} (h : t.width ≤ c) (a : Int) :
    t.clampI (a * 2 ^ c) = if a < 0 then t.minI else if a = 0 then 0 else t.maxI := by
  have hpow : (2 : Int) ^ t.width ≤ 2 ^ c := pow_le_pow_right₀ (by norm_num) h
  have hpos : (0 : Int) < 2 ^ t.width := by positivity
  have hmin := t.neg_two_pow_le_minI
  have hmax := t.maxI_lt_two_pow
  split
  · exact Ty.clampI_of_le_minI (by nlinarith)
  · split
    · subst a; rw [zero_mul]; exact t.holds_zero.reduce true
    · have hone : 1 ≤ a := by omega
      exact Ty.clampI_of_maxI_le (by nlinarith)

/-- A whole number below `2^w` in magnitude, divided by `2^w` or more, leaves its sign. -/
theorem ediv_two_pow_of_le {w c : Nat} {x : Int} (hc : w ≤ c) (hlo : -2 ^ w ≤ x) (hhi : x < 2 ^ w) :
    x / 2 ^ c = if x < 0 then -1 else 0 := by
  have hpow : (2 : Int) ^ w ≤ 2 ^ c := pow_le_pow_right₀ (by norm_num) hc
  split
  · exact Int.ediv_eq_neg_one_of_neg_of_le ‹_› (by omega)
  · exact Int.ediv_eq_zero_of_lt (by omega) (by omega)

end Sys2Proof
end

section
/-!
PROOF. Class 0x1, scalar integer: arithmetic, division, shifts, bit fields and counts (R99 to R106).
-/

namespace Sys2Proof.Machine

open Sys2Proof

/-! ### The shared operations of class 0x1 -/

theorem getBits_eq {n : Nat} (d : BitVec n) (lo w : Nat) : getBits d lo w = d.toNat / 2 ^ lo % 2 ^ w := by
  rw [getBits, BitVec.extractLsb'_toNat, Nat.shiftRight_eq_div_pow]

theorem narrowed_eq_reduce (o : Ops) (n : Int) : narrowed o n = (o.ty 0).reduce (o.bit 9) n := rfl

theorem holds_val1 (o : Ops) (s : State) : (o.ty 0).Holds (val1 o s) := Ty.holds_val ..
theorem holds_val2 (o : Ops) (s : State) : (o.ty 0).Holds (val2 o s) := Ty.holds_val ..

section
variable {i : Hdr → Ops → Instr}

theorem Completes.congr {ok : Ops → State → Bool} {f g : Ops → State → Core} (hf : Completes i ok f)
    (hfg : ∀ o s, f o s = g o s) : Completes i ok g :=
  fun h o s hr hok => hfg o s ▸ hf h o s hr hok

/-- An instruction of class 0x1 with an integer type changes its core alone, as its body says. -/
theorem exec_of_intBody {h : Hdr} {o : Ops} {s : State} {f : Core → Ty → Core}
    (hi : exec (i h o) s = issue h o noPre (intBody o f) s) (hr : s.ready h o = true) (ht : (o.ty 0).isInt = true) :
    exec (i h o) s = .next (s.put (f s.me (o.ty 0))) := by
  rw [hi, issue_ready hr rfl, intBody, if_pos ht, finish_put]

theorem completes_of_intBody {f : Ops → Core → Ty → Core}
    (hi : ∀ h o s, exec (i h o) s = issue h o noPre (intBody o (f o)) s) :
    Completes i intTyped fun o s => f o s.me (o.ty 0) :=
  fun h o s hr ht => exec_of_intBody (hi h o s) hr ht

/-- An operation on two values writes its exact result, narrowed by R102. -/
theorem completes_of_intOp2 (g : Ty → Int → Int → Int)
    (hi : ∀ h o s, exec (i h o) s = issue h o noPre (intOp2 o g) s) :
    Completes i intTyped fun o s => wrote o s (narrowed o (g (o.ty 0) (val1 o s) (val2 o s))) :=
  completes_of_intBody hi

/-- An operation whose results its type holds writes them as they are, with sat and without. -/
theorem completes_of_intOp2_holds (g : Ty → Int → Int → Int)
    (hi : ∀ h o s, exec (i h o) s = issue h o noPre (intOp2 o g) s)
    (hg : ∀ {t a b}, Ty.Holds t a → Ty.Holds t b → t.Holds (g t a b)) :
    Completes i intTyped fun o s => wrote o s (g (o.ty 0) (val1 o s) (val2 o s)) :=
  (completes_of_intOp2 g hi).congr fun o s => by
    rw [narrowed_eq_reduce, (hg (holds_val1 o s) (holds_val2 o s)).reduce]

/-- A shift writes what it makes of op1 and the count. -/
theorem completes_of_shiftBody (g : Ops → Ty → Int → Nat → Int)
    (hi : ∀ h o s, exec (i h o) s = issue h o noPre (shiftBody o (g o)) s) :
    Completes i intTyped fun o s => wrote o s (g o (o.ty 0) (val1 o s) (s.me.word o.o2 o.sext).toNat) :=
  completes_of_intBody hi

/-- A bit-field instruction whose field lies within its integer type changes its core alone, as its body says. -/
theorem completes_of_fieldBody {f : Ops → Core → Ty → Core}
    (hi : ∀ h o s, exec (i h o) s = issue h o noPre (fieldBody o (f o)) s) :
    Completes i (fun o _ => (o.ty 0).isInt && decide (o.mod 10 6 + (o.mod 16 6 + 1) ≤ (o.ty 0).width))
      fun o s => f o s.me (o.ty 0) := by
  intro h o s hr hok
  obtain ⟨ht, hfit⟩ : (o.ty 0).isInt = true ∧ Ops.pos o + Ops.len o ≤ (o.ty 0).width := by
    simpa [Ops.pos, Ops.len] using hok
  rw [hi, issue_ready hr rfl, fieldBody, if_neg (not_lt.2 hfit), intBody, if_pos ht, finish_put]

/-- A bit-field instruction whose field reaches beyond its type takes ILLFMT with trapval 5. -/
theorem traps_of_fieldBody {f : Ops → Core → Ty → Core}
    (hi : ∀ h o s, exec (i h o) s = issue h o noPre (fieldBody o (f o)) s) :
    Traps i (fun o _ => decide ((o.ty 0).width < o.mod 10 6 + (o.mod 16 6 + 1))) cILLFMT (fun _ _ => 5) := by
  intro h o s hr hbad
  have hlong : (o.ty 0).width < Ops.pos o + Ops.len o := of_decide_eq_true hbad
  rw [hi, issue_ready hr rfl, fieldBody, if_pos hlong]
  rfl

end

/-! ### Division (R103) -/

/-- DIV gives the numbers of R103: all ones for division by zero, the least value in the one overflow. -/
theorem divVal_eq {t : Ty} {a b : Int} (ha : t.Holds a) (hb : t.Holds b) :
    divVal t a b =
      if b = 0 then (if t.isSigned then -1 else (2 ^ t.width : Int) - 1)
      else if t.isSigned = true ∧ a = t.minI ∧ b = -1 then t.minI
      else a.tdiv b := by
  rw [divVal]
  split
  · cases h : t.isSigned <;> simp [Ty.maxI, h]
  · split
    · rename_i hcorner
      obtain ⟨hs, rfl, rfl⟩ := hcorner
      rw [Int.tdiv_neg, Int.tdiv_one, Ty.reduce_neg_minI hs]
    · rename_i hcorner
      exact (ha.tdiv hb hcorner).reduce false

theorem holds_divVal (t : Ty) (a b : Int) : t.Holds (divVal t a b) := by
  rw [divVal]
  split
  · cases h : t.isSigned
    · exact t.holds_maxI
    · rw [if_pos rfl, Ty.holds_of_signed h]
      have := pow_pos (two_pos : (0 : Int) < 2) (t.width - 1)
      omega
  · exact Ty.holds_val ..

/-- REM gives the numbers of R103; in the corner of DIV the remainder is zero of itself. -/
theorem remVal_eq (t : Ty) (a b : Int) :
    remVal a b =
      if b = 0 then a
      else if t.isSigned = true ∧ a = t.minI ∧ b = -1 then 0
      else a.tmod b := by
  rw [remVal]
  split
  · rfl
  · split
    · rename_i hcorner
      obtain ⟨-, -, rfl⟩ := hcorner
      rw [Int.tmod_neg, Int.tmod_one]
    · rfl

theorem holds_remVal {t : Ty} {a : Int} (ha : t.Holds a) (b : Int) : t.Holds (remVal a b) := by
  rw [remVal]
  split
  · exact ha
  · exact ha.tmod b

/-! ### Shifts (R104) -/

/-- SHL with every count: zero at the width or beyond without sat, otherwise the shifted number reduced. -/
theorem shlVal_eq (t : Ty) (sat : Bool) (a : Int) (c : Nat) :
    shlVal t sat a c = if sat = false ∧ t.width ≤ c then 0 else t.reduce sat (a * 2 ^ c) := by
  rw [shlVal]
  rcases lt_or_ge c t.width with hc | hc
  · rw [min_eq_left (by omega), if_neg (by omega)]
  · have hmin : t.width ≤ min c (t.width + 1) := by omega
    cases sat
    · simp [Ty.reduce, wrapI_mul_two_pow hmin, hc]
    · simp [Ty.reduce, Ty.clampI_mul_two_pow hmin, Ty.clampI_mul_two_pow hc]

theorem shrVal_eq (t : Ty) (a : Int) (c : Nat) :
    shrVal t a c = if t.width ≤ c then 0 else t.val (wrapI t.width a / 2 ^ c) := by
  rw [shrVal]
  split
  · rw [min_eq_right ‹_›, Nat.div_eq_of_lt (wrapI_lt ..), Ty.val_zero]
  · rw [min_eq_left (by omega)]

theorem sraVal_eq (t : Ty) (a : Int) (c : Nat) :
    sraVal t a c = t.val (wrapI t.width (signedOf t.width (wrapI t.width a) / 2 ^ c)) := by
  rw [sraVal]
  rcases le_total c t.width with hc | hc
  · rw [min_eq_left hc]
  · obtain ⟨hlo, hhi⟩ := signedOf_bounds t.width_pos (wrapI_lt t.width a)
    have hhalf := t.two_pow_width
    rw [min_eq_right hc, ediv_two_pow_of_le le_rfl (by omega) (by omega), ediv_two_pow_of_le hc (by omega) (by omega)]

/-- The `w` bits of `b` rotated by `n` places towards bit 0. -/
def rotated (w b n : Nat) : Nat := b / 2 ^ n + b % 2 ^ n * 2 ^ (w - n)

theorem rotVal_eq (t : Ty) (a : Int) (c : Nat) : rotVal t a c = t.val (rotated t.width (wrapI t.width a) (c % t.width)) :=
  rfl

theorem div_two_pow_lt {w b n : Nat} (hb : b < 2 ^ w) (hn : n ≤ w) : b / 2 ^ n < 2 ^ (w - n) :=
  Nat.div_lt_of_lt_mul (by rwa [← pow_add, Nat.add_sub_cancel' hn])

/-- Below the last `n` bits of a rotated string stand the high bits, in the last `n` the low ones. -/
theorem testBit_rotated {w b n : Nat} (hb : b < 2 ^ w) (hn : n ≤ w) (j : Nat) :
    (rotated w b n).testBit j = if j < w - n then b.testBit (j + n) else (b % 2 ^ n).testBit (j - (w - n)) := by
  rw [rotated, Nat.add_comm, Nat.mul_comm, Nat.testBit_two_pow_mul_add _ (div_two_pow_lt hb hn), Nat.testBit_div_two_pow]

theorem rotated_lt {w b n : Nat} (hb : b < 2 ^ w) (hn : n ≤ w) : rotated w b n < 2 ^ w := by
  have hlow : b % 2 ^ n + 1 ≤ 2 ^ n := Nat.mod_lt _ (by positivity)
  calc rotated w b n < 2 ^ (w - n) + b % 2 ^ n * 2 ^ (w - n) := Nat.add_lt_add_right (div_two_pow_lt hb hn) _
    _ = (b % 2 ^ n + 1) * 2 ^ (w - n) := by ring
    _ ≤ 2 ^ n * 2 ^ (w - n) := Nat.mul_le_mul_right _ hlow
    _ = 2 ^ w := by rw [← pow_add, Nat.add_sub_cancel' hn]

/-- A rotate by `n` places moves bit `j + n` mod `w` to bit `j`. -/
theorem testBit_rotated_mod {w b n j : Nat} (hb : b < 2 ^ w) (hn : n < w) (hj : j < w) :
    (rotated w b n).testBit j = b.testBit ((j + n) % w) := by
  rw [testBit_rotated hb hn.le]
  split
  · rw [Nat.mod_eq_of_lt (by omega)]
  · have hmod : (j + n) % w = j - (w - n) := by
      rw [Nat.mod_eq_sub_mod (by omega), Nat.mod_eq_of_lt (by omega)]
      omega
    rw [hmod, Nat.testBit_mod_two_pow, decide_eq_true (by omega), Bool.true_and]

/-! ### Bit fields (R105) -/

theorem bfxVal_eq (t : Ty) (pos len : Nat) (x : Word) :
    bfxVal t pos len x =
      if t.isSigned then signedOf len (x.toNat / 2 ^ pos % 2 ^ len) else ((x.toNat / 2 ^ pos % 2 ^ len : Nat) : Int) := by
  rw [bfxVal, getBits_eq]

theorem bfiVal_eq (t : Ty) (pos len : Nat) (x y : Word) :
    bfiVal t pos len x y =
      t.val (x.toNat % 2 ^ t.width - x.toNat / 2 ^ pos % 2 ^ len * 2 ^ pos + y.toNat % 2 ^ len * 2 ^ pos) := by
  rw [bfiVal, getBits_eq, getBits_eq, getBits_eq, pow_zero, Nat.div_one, Nat.div_one]

/-! ### Counts (R106) -/

theorem clzN_le (w x : Nat) : clzN w x ≤ w := by
  unfold clzN; split <;> omega

theorem clzN_eq_width_iff {w x : Nat} (hw : 0 < w) : clzN w x = w ↔ x = 0 := by
  unfold clzN; split <;> omega

/-- CLZ says where the highest set bit stands. -/
theorem sub_clzN {w x : Nat} (hx : x < 2 ^ w) (h0 : x ≠ 0) : w - 1 - clzN w x = x.log2 := by
  have := (Nat.log2_lt h0).2 hx
  rw [clzN, if_neg h0]
  omega

theorem testBit_of_log2_lt {x j : Nat} (h : x.log2 < j) : x.testBit j = false :=
  Nat.testBit_lt_two_pow (Nat.lt_log2_self.trans_le (Nat.pow_le_pow_right two_pos h))

/-- CTZ answers the width for zero, and otherwise the place of the lowest set bit. -/
theorem ctzN_cases {w x : Nat} (hx : x < 2 ^ w) :
    (x = 0 ∧ ctzN w x = w) ∨
      (x ≠ 0 ∧ ctzN w x < w ∧ x.testBit (ctzN w x) = true ∧ ∀ j < ctzN w x, x.testBit j = false) := by
  cases hf : (List.range w).find? (x.testBit ·) with
  | none =>
    refine .inl ⟨Nat.eq_of_testBit_eq fun j => ?_, by rw [ctzN, hf]; rfl⟩
    rw [Nat.zero_testBit]
    rcases lt_or_ge j w with hj | hj
    · simpa using List.find?_range_eq_none.1 hf j hj
    · exact Nat.testBit_lt_two_pow (hx.trans_le (Nat.pow_le_pow_right two_pos hj))
  | some n =>
    obtain ⟨hbit, hmem, hlow⟩ := List.find?_range_eq_some.1 hf
    have hn : ctzN w x = n := by rw [ctzN, hf]; rfl
    rw [hn]
    refine .inr ⟨?_, List.mem_range.1 hmem, hbit, by simpa using hlow⟩
    rintro rfl
    simp at hbit

theorem popN_eq_countP (w x : Nat) : popN w x = (List.range w).countP fun j => x.testBit j :=
  List.countP_eq_length_filter.symm

/-- A count over the bits of op1 writes it, zero-extended. -/
theorem exec_of_countBody {i : Hdr → Ops → Instr} {h : Hdr} {o : Ops} {s : State} {f : Nat → Nat → Nat}
    (hi : exec (i h o) s = issue h o noPre (countBody o f) s) (hr : s.ready h o = true) (ht : (o.ty 0).isInt = true) :
    exec (i h o) s = .next (s.put (s.me.setWord o.o0
      (BitVec.ofNat 64 (f (o.ty 0).width ((s.me.word o.o1 0).toNat % 2 ^ (o.ty 0).width))))) := by
  rw [exec_of_intBody hi hr ht, getBits_eq, pow_zero, Nat.div_one]

end Sys2Proof.Machine

namespace Sys2Proof

open Sys2Proof.Machine

/-- Settles O12: each operation is one `intOp2`, whose exact result R102 narrows. -/
theorem integerArithmetic : Obligations.IntegerArithmetic :=
  ⟨completes_of_intOp2 (fun _ a b => a + b) fun _ _ _ => rfl,
    completes_of_intOp2 (fun _ a b => a - b) fun _ _ _ => rfl,
    completes_of_intOp2 (fun _ a b => a * b) fun _ _ _ => rfl,
    completes_of_intOp2 (fun t a b => mulHigh t (a * b)) fun _ _ _ => rfl,
    completes_of_intOp2 (fun _ a b => min a b) fun _ _ _ => rfl,
    completes_of_intOp2 (fun _ a b => max a b) fun _ _ _ => rfl,
    completes_of_intOp2 (bitwise (· &&& ·)) fun _ _ _ => rfl,
    completes_of_intOp2 (bitwise (· ||| ·)) fun _ _ _ => rfl,
    completes_of_intOp2 (bitwise (· ^^^ ·)) fun _ _ _ => rfl,
    completes_of_intOp2 (bitwise andNot) fun _ _ _ => rfl⟩

/-- Settles O13: the type holds every quotient and every remainder of R103, so nothing is left to narrow. -/
theorem integerDivision : Obligations.IntegerDivision :=
  ⟨(completes_of_intOp2_holds divVal (fun _ _ _ => rfl) fun _ _ => holds_divVal ..).congr fun o s => by
      rw [divVal_eq (holds_val1 o s) (holds_val2 o s)],
    (completes_of_intOp2_holds (fun _ a b => remVal a b) (fun _ _ _ => rfl) fun ha _ => holds_remVal ha _).congr
      fun o s => by rw [remVal_eq (o.ty 0)]⟩

/-- Settles O14: the count is cut to the width, past which no shift changes its result; ROT moves each bit of op1. -/
theorem shiftResults : Obligations.ShiftResults := by
  refine ⟨?shl, ?shr, ?sra, fun h o s hr ht => ?rot⟩
  case shl =>
    exact (completes_of_shiftBody (fun o t a c => shlVal t (o.bit 9) a c) fun _ _ _ => rfl).congr
      fun o s => congrArg (wrote o s) (shlVal_eq ..)
  case shr =>
    exact (completes_of_shiftBody (fun _ => shrVal) fun _ _ _ => rfl).congr fun o s => congrArg (wrote o s) (shrVal_eq ..)
  case sra =>
    exact (completes_of_shiftBody (fun _ => sraVal) fun _ _ _ => rfl).congr fun o s => congrArg (wrote o s) (sraVal_eq ..)
  case rot =>
    have hb := wrapI_lt (o.ty 0).width (val1 o s)
    have hn := Nat.mod_lt (s.me.word o.o2 o.sext).toNat (o.ty 0).width_pos
    refine ⟨_, rotated_lt hb hn.le, fun j hj => ?_, completes_of_shiftBody (fun _ => rotVal) (fun _ _ _ => rfl) h o s hr ht⟩
    rw [testBit_rotated_mod hb hn hj, Nat.add_mod_mod]

/-- Settles O15: a field within its type is cut from op1 or put into it, one beyond it traps; the counts find the highest
and the lowest set bit. -/
theorem fieldAndCountResults : Obligations.FieldAndCountResults := by
  refine ⟨⟨?bfx, ?bfi, ?bfxTrap, ?bfiTrap⟩, fun h o s hr ht => ⟨?clz, ?ctz, ?popc⟩⟩
  case bfx => exact (completes_of_fieldBody fun _ _ _ => rfl).congr fun o s => congrArg (wrote o s) (bfxVal_eq ..)
  case bfi => exact (completes_of_fieldBody fun _ _ _ => rfl).congr fun o s => congrArg (wrote o s) (bfiVal_eq ..)
  case bfxTrap => exact traps_of_fieldBody fun _ _ _ => rfl
  case bfiTrap => exact traps_of_fieldBody fun _ _ _ => rfl
  case clz =>
    have hx : (s.me.word o.o1 0).toNat % 2 ^ (o.ty 0).width < 2 ^ (o.ty 0).width := Nat.mod_lt _ (by positivity)
    refine ⟨_, exec_of_countBody rfl hr ht, clzN_le .., clzN_eq_width_iff (o.ty 0).width_pos, fun h0 => ?_⟩
    rw [sub_clzN hx h0]
    exact ⟨Nat.testBit_log2 h0, fun j => testBit_of_log2_lt⟩
  case ctz =>
    have hx : (s.me.word o.o1 0).toNat % 2 ^ (o.ty 0).width < 2 ^ (o.ty 0).width := Nat.mod_lt _ (by positivity)
    refine ⟨_, exec_of_countBody rfl hr ht, ?_⟩
    rcases ctzN_cases hx with ⟨h0, hw⟩ | ⟨h0, hlt, hbit, hlow⟩
    · exact ⟨hw.le, iff_of_true hw h0, fun hne => absurd h0 hne⟩
    · exact ⟨hlt.le, iff_of_false hlt.ne h0, fun _ => ⟨hbit, hlow⟩⟩
  case popc => rw [← popN_eq_countP]; exact exec_of_countBody rfl hr ht

end Sys2Proof
end

section
/-!
PROOF. What a word that decodes says of its fields (R65, R69), and MZERO (R164, R167).
-/

namespace Sys2Proof

/-! ### From a decoded instruction back to its word -/

set_option maxRecDepth 2000 in
/-- Each row of the opcode table builds an instruction with the opcode, the header and the operands of the row (R69). -/
theorem parts_of_build {h : Hdr} {o : Ops} {n : Nat} {i : Instr} (hb : build h o n = some i) : i.parts = some (n, h, o) := by
  unfold build at hb
  split at hb <;> cases hb <;> rfl

/-- Fields that decode have a format, which accepts their header and their operands, and the instruction keeps both with
the opcode. -/
theorem Fields.exists_fmt_of_decode {f : Fields} {i : Instr} (hd : f.decode = .ok i) :
    ∃ t h o, f.fmt = some t ∧ f.hdr t = .ok h ∧ f.ops t = .ok o ∧ i.parts = some (f.opcode.toNat, h, o) := by
  revert hd
  fun_cases Fields.decode f with
  | case4 t hfmt h hhdr o hops j hbuild =>
    rintro ⟨⟩
    exact ⟨t, h, o, hfmt, hhdr, hops, parts_of_build hbuild⟩
  | _ => nofun

/-- Operands that a format accepts have a modifier that it accepts (R65). -/
theorem Fields.modErr_of_ops {f : Fields} {t : Fmt} {o : Ops} (ho : f.ops t = .ok o) : modErr t.mods o.md = none := by
  simp only [Fields.ops, bind, Except.bind] at ho
  iterate 6 (split at ho; · cases ho)
  split at ho
  · cases ho
  · next hmod => cases ho; exact hmod

/-- A format without modifier subfields accepts the modifier zero alone. -/
theorem modErr_nil_eq_none_iff (md : BitVec 24) : modErr [] md = none ↔ md = 0 := by
  have hall : undefinedBits [] = BitVec.allOnes 24 := by decide
  have hand : md &&& undefinedBits [] = md := by rw [hall, BitVec.and_allOnes]
  by_cases h : md = 0 <;> simp [modErr, hand, h]

/-- MZERO has an accumulator as its one operand, and no modifier subfield. -/
theorem Fields.fmt_of_opcode_mzero {f : Fields} (hop : f.opcode.toNat = 0x240) : f.fmt = some { p0 := pA } := by
  simp [Fields.fmt, hop, fmtLattice]

/-- The modifier of a decoded MZERO is zero (R167). -/
theorem md_eq_zero_of_decode_mzero {w : IWord} {h : Hdr} {o : Ops} (hd : decode w = .ok (.mzero h o)) : o.md = 0 := by
  obtain ⟨t, h', o', hfmt, -, hops, hparts⟩ := Fields.exists_fmt_of_decode hd
  have hmzero : (Instr.mzero h o).parts = some (0x240, h, o) := rfl
  obtain ⟨hop, rfl, rfl⟩ : 0x240 = (Fields.unpack w).opcode.toNat ∧ h = h' ∧ o = o' := by
    simpa using hmzero.symm.trans hparts
  obtain rfl : { p0 := pA } = t := Option.some.inj ((Fields.fmt_of_opcode_mzero hop.symm).symm.trans hfmt)
  exact (modErr_nil_eq_none_iff _).1 (Fields.modErr_of_ops hops)

end Sys2Proof

namespace Sys2Proof.Machine

open Sys2Proof

/-! ### The accumulator of MZERO (R164, R167) -/

@[simp] theorem getBits_zero (n lo w : Nat) : getBits 0#n lo w = 0 := by simp [getBits_eq]

/-- Every element of an accumulator that holds zero is zero. -/
theorem Core.accBits_set_zero (k : Core) (a : Fin 4) (i : Nat) : { k with acc := k.acc.set a 0 }.accBits a i = 0 := by
  simp [Core.accBits]

/-- An MZERO that may issue changes its core alone, in its accumulator alone. -/
theorem completes_mzero :
    Completes .mzero always (fun o s => { s.me with acc := s.me.acc.set o.o0.accNo 0 }) := by
  intro h o s hr _
  have hexec : exec (.mzero h o) s =
      issue h o noPre (onCore fun k => { k with acc := k.acc.set o.o0.accNo 0 }) s := rfl
  rw [hexec, issue_ready hr rfl, onCore, finish_put]

end Sys2Proof.Machine

namespace Sys2Proof

open Sys2Proof.Machine

/-- Settles O44: the step by `issue`, the elements by the zero that the accumulator holds, the modifier by MZERO's format,
which has no subfield for it. -/
theorem matrixZero : Obligations.MatrixZero :=
  ⟨completes_mzero, fun k a i _ => k.accBits_set_zero a i, fun _ _ _ => md_eq_zero_of_decode_mzero⟩

end Sys2Proof
end
